-- ==== Sys2Proof/Word.lean ====
section
/-! DEFINITION. The word types of the Glopemer: what the manual treats as bits. -/

namespace Sys2Proof

/-- A byte of memory. -/
abbrev Byte := BitVec 8

/-- An instruction word (R286). -/
abbrev Word32 := BitVec 32

/-- The contents of a scalar, address or control register (R62, R82). -/
abbrev Word64 := BitVec 64

/-- A scalar- or address-register number (R288). -/
abbrev RegNo := BitVec 5

/-- A tile-operand code (R63): 0 to 27 name tiles, 28 to 31 name queues. -/
abbrev TileCode := BitVec 5

/-- A predicate or shape-record number (R288). -/
abbrev PredNo := BitVec 3

end Sys2Proof
end

