-- ==== Sys2Proof/Config.lean ====
section
/-! DEFINITION. What an implementation fixes, and the free values: results that the manual leaves to external
standards or to nobody. They have no body, so no proof can see what they are (logs 12, 15). -/

namespace Sys2Proof.Config

/-- XMSS-SHAKE256_20_256 verification of NIST SP 800-208 (R278): public key, message, signature. FREE VALUE (log 12). -/
opaque xmssVerify : List Byte → List Byte → List Byte → Bool

/-- The device-unique seed fused in the device (R278). FREE VALUE (log 12). -/
opaque fuseSeed : List Byte

/-- The XMSS^MT signature of R279, 9,893 bytes, by the key that a seed gives, at an index. FREE VALUE (log 12). -/
opaque xmssSign : List Byte → Nat → List Byte → List Byte

/-- FWKH of R278, fused in the device: the SHAKE256 hash of the firmware public key, 32 bytes. FREE VALUE (log 12). -/
opaque fuseFwkh : List Byte

/-- MINSVN of R278, fused in the device. FREE VALUE (log 12). -/
opaque fuseMinSvn : Nat

/-- The die-manager image that bring-up finds (R278, R280 type 0x01), by boot number: SVN, body, public key and signature.
FREE VALUE (log 12). -/
opaque dieImage : Nat → Nat × List Byte × List Byte × List Byte

/-- The control-firmware image that bring-up finds (R278, R280 type 0x02), by boot number: SVN, body, public key and
signature. FREE VALUE (log 12). -/
opaque bootImage : Nat → Nat × List Byte × List Byte × List Byte

/-- SEQ of the first record of a hallmark chain (R280); the next ones count on. FREE VALUE: the manual does not say where
it starts (log 18). -/
opaque firstSeq : Nat

/-- What a read returns from a bus address once the PCIe interface has failed. FREE VALUE: the manual says only that the host
is lost (R273, log 71). -/
opaque lostByte : Nat → Byte

/-- Whether the write or atomic of a packet whose answer has not come had been performed at a machine check (R275), by polder
and packet number. FREE VALUE (log 77). -/
opaque remotePerformed : Nat → Nat → Bool

/-- Where a firmware core's exception handler is, by the address of the exception (R369). FREE VALUE (log 80). -/
opaque fwVector : Nat → Nat

/-- The privilege level of that handler, by the level before (R369). FREE VALUE (log 80). -/
opaque fwPriv : Nat → Nat

/-- What a firmware core's own memory holds where the core has not written, by polder, core and address (R243). FREE VALUE
(log 80). -/
opaque fwMemory : Nat → Bool → Nat → Byte

/-- USED of a saved context's header, less one (R255): bytes in use in 4 KiB units, at most 5 MiB, by polder, context number
and strip. FREE VALUE: the layout behind the header is the implementation's (log 17). -/
opaque ctxUsed : Nat → Nat → Nat → Fin 1280

/-- TCAUSE.HALF of a trap at an instruction that both halves own, or at a word that cannot be fetched, by its address.
FREE VALUE: R85 names the two halves, and no rule says which of them reports such a trap (log 20). -/
opaque jointHalf : Nat → Bool

/-- The PCIe target that a bus address reaches (R175). FREE VALUE: the map of the bus is the host's (log 67). -/
opaque pcieTarget : Nat → Nat

/-- The set of the adapter cache that a line falls into (R128), by ADTBASE.BASE, id and line offset. FREE VALUE: the manual
gives the number of sets and no index (log 69). -/
opaque adapterSet : Nat → Nat → Nat → BitVec 7

end Sys2Proof.Config
end

