-- ==== Sys2Proof/Syntax.lean ====
section
/-! DEFINITION. The instructions and events of the Glopemer as syntax: one constructor of `Instr` for each row of
spec/opcode_table.json, with the operand shapes of the nine formats (R287) and of the events. -/

namespace Sys2Proof

/-! ### Operand codes of the instruction words -/

/-- Scope codes 0b000 to 0b101 (R164). Storage scope stands in FENCE.st alone and is that row's own. -/
inductive Scope where
  | blk | cl | pol | pkg | dom | sys
  deriving DecidableEq, Repr

/-- Order codes (R174). -/
inductive MemOrder where
  | relaxed | acq | rel | ar
  deriving DecidableEq, Repr

/-- Size codes of LD (R300, R384). -/
inductive LdSize where
  | n8 | n16 | n32 | d | i8 | i16 | i32
  deriving DecidableEq, Repr

/-- Size codes of ST (R300, R414). -/
inductive StSize where
  | n8 | n16 | n32 | d
  deriving DecidableEq, Repr

/-- Comparisons of FCMP and TCMP (R297, R434). -/
inductive CmpOp where
  | eq | ne | lt | le | gt | ge
  deriving DecidableEq, Repr

/-- Conversion codes of FCVT (R297): destination, then source. -/
inductive FcvtOp where
  | f32f64 | f64f32 | i64f32 | i64f64 | n64f32 | n64f64 | f32i64 | f64i64 | f32n64 | f64n64
  | bf16f32 | f32bf16 | f16f32 | f32f16
  deriving DecidableEq, Repr

/-- Operations of the fetch-and-operate family and of TAMO (R346, R426). -/
inductive AmoOp where
  | add | and | or | xor | min | max | minn | maxn | swp | fadd
  deriving DecidableEq, Repr

/-- Operations of the reductions (R454). -/
inductive RedOp where
  | add | min | max
  deriving DecidableEq, Repr

/-- Forms of APRE (R132). -/
inductive ApreOp where
  | fetch | pin | unpin
  deriving DecidableEq, Repr

/-! ### The operand shapes of the formats (R287) -/

/-- A scalar source with its side (R288). -/
structure SideRs where
  side : Bool
  rs : RegNo
  deriving DecidableEq, Repr

/-- A scalar destination with its side. -/
structure SideRd where
  side : Bool
  rd : RegNo
  deriving DecidableEq, Repr

/-- Format SR: side, rd, rs1, rs2. -/
structure FmtSR where
  side : Bool
  rd : RegNo
  rs1 : RegNo
  rs2 : RegNo
  deriving DecidableEq, Repr

/-- Format SR, unary rows: rs2 is zero. -/
structure FmtSRu where
  side : Bool
  rd : RegNo
  rs1 : RegNo
  deriving DecidableEq, Repr

/-- Format SI: side, rd, rs1, imm15. -/
structure FmtSI where
  side : Bool
  rd : RegNo
  rs1 : RegNo
  imm : BitVec 15
  deriving DecidableEq, Repr

/-- Major 0x0D: a shift by a constant (R413). -/
structure FmtShift where
  side : Bool
  rd : RegNo
  rs1 : RegNo
  n : BitVec 6
  deriving DecidableEq, Repr

/-- Format LIH (R390). -/
structure FmtLih where
  side : Bool
  rd : RegNo
  q : BitVec 2
  imm : BitVec 16
  deriving DecidableEq, Repr

/-- Format B (R356). -/
structure FmtB where
  side : Bool
  rs1 : RegNo
  rs2 : RegNo
  off : BitVec 12
  deriving DecidableEq, Repr

/-- Major 0x10 (R372): `dbl` is P, false f32 and true f64. -/
structure FmtFp where
  rd : RegNo
  rs1 : RegNo
  rs2 : RegNo
  dbl : Bool
  deriving DecidableEq, Repr

/-- Major 0x10, unary rows. -/
structure FmtFpu where
  rd : RegNo
  rs1 : RegNo
  dbl : Bool
  deriving DecidableEq, Repr

/-- A predicate guard: pg and pn (R81). -/
structure Guard where
  pg : PredNo
  pn : Bool
  deriving DecidableEq, Repr

/-- Format TT with three tile operands and the convoy bit C. -/
structure FmtTT where
  c : Bool
  td : TileCode
  ta : TileCode
  tb : TileCode
  g : Guard
  deriving DecidableEq, Repr

/-- Format TT, unary rows that may join a convoy. -/
structure FmtTTu where
  c : Bool
  td : TileCode
  ta : TileCode
  g : Guard
  deriving DecidableEq, Repr

/-- TSPL and TIOTA: a tile destination and an s-register. -/
structure FmtTTs where
  c : Bool
  td : TileCode
  sm : RegNo
  g : Guard
  deriving DecidableEq, Repr

/-- TCMP (R434): the destination is a predicate. -/
structure FmtTcmp where
  c : Bool
  pd : PredNo
  ta : TileCode
  tb : TileCode
  g : Guard
  cc : CmpOp
  deriving DecidableEq, Repr

/-- Format TT outside convoys: td, ta and the field [14:10], which names a tile or an s-register. -/
structure FmtPerm where
  td : TileCode
  ta : TileCode
  tb : BitVec 5
  g : Guard
  deriving DecidableEq, Repr

/-- Format TT outside convoys, unary rows. -/
structure FmtPermU where
  td : TileCode
  ta : TileCode
  g : Guard
  deriving DecidableEq, Repr

/-- PAND, POR, PXOR (R402). -/
structure FmtPred where
  pd : PredNo
  pa : PredNo
  pb : PredNo
  g : Guard
  deriving DecidableEq, Repr

/-- PNOT (R402). -/
structure FmtPredU where
  pd : PredNo
  pa : PredNo
  g : Guard
  deriving DecidableEq, Repr

/-- LDT and STT (R388, R419). -/
structure FmtTileMem where
  t : TileCode
  b : RegNo
  i : RegNo
  pg : PredNo
  deriving DecidableEq, Repr

/-- LDQ, STQ and STQU (R387, R416): `q` is the queue number 0 to 3. -/
structure FmtQueueMem where
  q : BitVec 2
  b : RegNo
  i : RegNo
  pg : PredNo
  deriving DecidableEq, Repr

/-- LDG and STS (R386, R418). -/
structure FmtGather where
  t : TileCode
  b : RegNo
  x : TileCode
  pg : PredNo
  scale : BitVec 2
  deriving DecidableEq, Repr

/-- Major 0x1A and AMOCAS (R346): `dbl` is the size bit. -/
structure FmtAmo where
  d : RegNo
  b : RegNo
  v : RegNo
  sc : Scope
  ord : MemOrder
  dbl : Bool
  deriving DecidableEq, Repr

/-- TAMO (R426): `sc` is one of pol, pkg, dom and sys, formed from TS. -/
structure FmtTamo where
  t : TileCode
  b : RegNo
  x : TileCode
  pg : PredNo
  ord : MemOrder
  ts : BitVec 2
  op : AmoOp
  deriving DecidableEq, Repr

/-- Format MX of MOPA and MOPS (R113). -/
structure FmtMx where
  latchB : Bool
  tacc : TileCode
  ta : TileCode
  tb : TileCode
  pg : PredNo
  deriving DecidableEq, Repr

/-- Format MX of MMA and MMAD (R122). -/
structure FmtMma where
  tacc : TileCode
  ta : TileCode
  slab : BitVec 5
  pg : PredNo
  deriving DecidableEq, Repr

/-! ### Operands of the events -/

/-- A polder number (R11). -/
abbrev PolderNo := BitVec 4

/-- A host-queue number of one polder (R226). -/
abbrev QueueNo := BitVec 6

/-- Trap causes, by the codes of R244. FOOTPRINT_OVERLAP (0x0E) appears in no TCAUSE. -/
inductive Cause where
  | illegalInstr | priv | misalign | xlate | perm | deadRead | convoyConflict | shapeMismatch | queueDeadlock
  | poison | fpEnabled | suspect | engineFault | adapterFault | sluiceDown | brk | syscall | storageError
  | recheckMismatch | uncorrectable | shapeInvalid
  deriving DecidableEq, Repr

/-- The on-chip storages that can hold an uncorrectable error (R261). -/
inductive ChipStore where
  | tileStore | sharedStore | queueStore | stripBuffer | aReg | sReg | slabStore | savedContext
  deriving DecidableEq, Repr

/-- The source of a mark (R261): a poisoned 128-byte line of memory by its first PA, with the VA of its first byte for
TADDR (R263), or an on-chip location. -/
inductive Mark where
  | line (pa va : Nat)
  | chip (store : ChipStore) (index : Nat)
  deriving DecidableEq, Repr

/-- What a trap reports (R246): cause, half, MORE, TCOORD and TADDR. -/
structure TrapInfo where
  cause : Cause
  half : Bool
  more : Bool
  coord : Word64
  addr : Word64
  deriving DecidableEq, Repr

/-- An element in which two runs of a rechecked instruction differ: linear index, second and third run's bits. -/
structure RecheckDiff where
  elem : Nat
  second : Nat
  third : Nat
  deriving DecidableEq, Repr

/-- A scale of an mx destination in which the runs differ: row, block, second and third run's code. -/
structure ScaleDiff where
  row : Nat
  block : Nat
  second : Nat
  third : Nat
  deriving DecidableEq, Repr

/-- What the second and third run of an entry of the recheck queue give where they differ from the first (R257, R259):
elements, scales, the result in an s-register, the flags, and the trap condition. -/
structure RecheckRuns where
  entry : Nat
  elems : List RecheckDiff
  scales : List ScaleDiff
  reg : Option (Word64 × Word64)
  flags : Option (Nat × Nat)
  trap : Option (Option TrapInfo × Option TrapInfo)
  deriving DecidableEq, Repr

/-- A PCIe function: physical function 0 or virtual function v (R19). -/
inductive FnId where
  | pf0
  | vf (v : BitVec 7)
  deriving DecidableEq, Repr

/-- The register spaces the host writes: BAR0, BAR2 (scheduler memory) and the function's configuration (SR-IOV
fields of R219 and MSI-X vector masks of R238). -/
inductive RegSpace where
  | bar0 | bar2 | config
  deriving DecidableEq, Repr

/-- The owner-map registers whose write waits for the polder's blocks (R265). -/
inductive OwnerReg where
  | s2root | ctxpool | lmi
  deriving DecidableEq, Repr

/-- The voted machines of a polder (R274). -/
inductive VotedMachine where
  | commandProcessor | scheduler | walkers
  deriving DecidableEq, Repr

/-- An inbound PCIe access through BAR4 (R21). -/
inductive PcieOp where
  | read (len : Nat)
  | write (bytes : List Byte)
  deriving DecidableEq, Repr

/-- What does not come up as it should in a bring-up: a unit of R284 that fails, or a port that trains only at reduced rate
or width (R23). -/
inductive BringupUnit where
  | dieManager (half : Bool)
  | stack (k : BitVec 3)
  | dieLink
  | polder (p : PolderNo)
  | port (n : BitVec 4)
  | portReduced (n : BitVec 4)
  deriving DecidableEq, Repr

/-- What the die manager does to a polder rail (R32). -/
inductive RailAction where
  | lower | raise | stall | release
  deriving DecidableEq, Repr

/-- What fails at run time (R273). -/
inductive FailedUnit where
  | polder (p : PolderNo)
  | stack (k : BitVec 3)
  | fabric (half : Bool)
  | dieLink
  | pcie
  | port (n : BitVec 4)
  deriving DecidableEq, Repr

/-- Where an uncorrectable error is detected (R147, R260): a memory line, or an on-chip place of the current block.
`cached` says that the error lies in an L2 or L3 copy of a line whose HBM copy is sound (R262). -/
inductive ErrorPlace where
  | line (pa : Nat) (cached : Bool)
  | reg (side : Bool) (r : RegNo)
  | tile (t : TileCode) (row : Nat) (chunk : Nat)
  | queue (sq : Bool) (q : BitVec 2) (index : Nat)
  /-- An entry of aq or, where `aq` is false, of eq. -/
  | entry (aq : Bool) (index : Nat)
  | shared (off : Nat)
  | buffer (index : Nat)
  | context
  deriving DecidableEq, Repr

/-! ### The instructions and events -/

/-- One constructor for each row of spec/opcode_table.json: first the 188 rows with a word in the table's order, then
the 77 events of the machine, which have none, those that only the outside world gives last. -/
inductive Instr where
  /-- NOP (R399). No operation, executed by both halves. -/
  | nop
  /-- HALT (R380). Both halves rendezvous, the last strip commits and the watermark is published, and the block ends. -/
  | halt
  /-- YIELD (R472). Ends the slot's current lane-group arbitration turn. -/
  | yield
  /-- WFE (R467). Clears the event flag if it is set, or else holds both halves until an event arrives. -/
  | wfe
  /-- BRK (R358). Raises BREAK with resume point After. -/
  | brk
  /-- TRAP (R452). Raises BREAK when the named register is non-zero; the outcome is resolved like a branch. -/
  | trap (f : SideRs)
  /-- SYSC (R421). Raises SYSCALL with resume point After. -/
  | sysc
  /-- UIEN (R465). Sets or clears the block's user-interrupt enable. -/
  | uien (k : Bool)
  /-- UIRET (R466). Swaps the shadow registers back, clears ACTIVE and resumes at the interrupted instruction. -/
  | uiret
  /-- TLBINV (R447). Drops the stage-1 translations of the named pages across the polder, draining the buffered entries that R152 names. -/
  | tlbinv (ava an : RegNo)
  /-- TLBINV_S2 (R447). Stage-2 invalidation on a firmware core; raises PRIV in a block. -/
  | tlbinvS2
  /-- ERET (R369). Returns from a firmware exception; raises PRIV in a block. -/
  | eret
  /-- CTLR (R364). Reads a control register into rd. -/
  | ctlr (side : Bool) (rd : RegNo) (n : BitVec 12)
  /-- CTLW (R364). Writes a control register field by field under its access codes. -/
  | ctlw (side : Bool) (rs : RegNo) (n : BitVec 12)
  /-- BEQ (R357). Branches when the two registers are equal. -/
  | beq (f : FmtB)
  /-- BNE (R357). Branches when the two registers differ. -/
  | bne (f : FmtB)
  /-- BLT (R357). Branches when rs1 is less than rs2, signed. -/
  | blt (f : FmtB)
  /-- BGE (R357). Branches when rs1 is at least rs2, signed. -/
  | bge (f : FmtB)
  /-- BLTN (R357). Branches when rs1 is less than rs2, unsigned. -/
  | bltn (f : FmtB)
  /-- BGEN (R357). Branches when rs1 is at least rs2, unsigned. -/
  | bgen (f : FmtB)
  /-- JMP (R383). Jumps by a word offset. -/
  | jmp (off : BitVec 26)
  /-- JAL (R383). Writes the link register and jumps by a word offset. -/
  | jal (side : Bool) (rd : RegNo) (off : BitVec 20)
  /-- JALR (R383). Writes the link register and jumps to rs1 plus an offset, passing the target through aq or eq. -/
  | jalr (f : FmtSI)
  /-- QPUT (R406). Pushes a 64-bit scalar into aq or eq. -/
  | qput (f : SideRs)
  /-- QGET (R406). Pops the head of aq or eq into a register. -/
  | qget (f : SideRd)
  /-- ADD (R342). rd gets rs1 + rs2 modulo 2^64. -/
  | add (f : FmtSR)
  /-- SUB (R407). rd gets rs1 − rs2 modulo 2^64. -/
  | sub (f : FmtSR)
  /-- MUL (R395). rd gets the low 64 bits of the product. -/
  | mul (f : FmtSR)
  /-- MULH (R395). rd gets the high 64 bits of the signed product. -/
  | mulh (f : FmtSR)
  /-- MULHN (R395). rd gets the high 64 bits of the unsigned product. -/
  | mulhn (f : FmtSR)
  /-- DIV (R342). rd gets the signed quotient, with the fixed results for a zero divisor and for overflow. -/
  | div (f : FmtSR)
  /-- DIVN (R342). rd gets the unsigned quotient. -/
  | divn (f : FmtSR)
  /-- REM (R395). rd gets the signed remainder. -/
  | rem (f : FmtSR)
  /-- REMN (R395). rd gets the unsigned remainder. -/
  | remn (f : FmtSR)
  /-- AND (R342). rd gets rs1 AND rs2. -/
  | and (f : FmtSR)
  /-- OR (R395). rd gets rs1 OR rs2. -/
  | or (f : FmtSR)
  /-- XOR (R407). rd gets rs1 XOR rs2. -/
  | xor (f : FmtSR)
  /-- SHL (R407). Shifts left by rs2[5:0]. -/
  | shl (f : FmtSR)
  /-- SHR (R407). Logical right shift by rs2[5:0]. -/
  | shr (f : FmtSR)
  /-- SRA (R407). Arithmetic right shift by rs2[5:0]. -/
  | sra (f : FmtSR)
  /-- SLT (R407). rd gets 1 if rs1 is less than rs2, signed, and 0 otherwise. -/
  | slt (f : FmtSR)
  /-- SLTN (R407). rd gets 1 if rs1 is less than rs2, unsigned, and 0 otherwise. -/
  | sltn (f : FmtSR)
  /-- MIN (R395). Signed minimum. -/
  | min (f : FmtSR)
  /-- MAX (R395). Signed maximum. -/
  | max (f : FmtSR)
  /-- MINN (R395). Unsigned minimum. -/
  | minn (f : FmtSR)
  /-- MAXN (R395). Unsigned maximum. -/
  | maxn (f : FmtSR)
  /-- CLZ (R342). Counts the leading zeros of rs1. -/
  | clz (f : FmtSRu)
  /-- CTZ (R342). Counts the trailing zeros of rs1. -/
  | ctz (f : FmtSRu)
  /-- POPC (R395). Counts the set bits of rs1. -/
  | popc (f : FmtSRu)
  /-- SEL (R407). rd gets rs1 if the old rd is non-zero, and rs2 otherwise. -/
  | sel (f : FmtSR)
  /-- ADDI (R343). rd gets rs1 plus the sign-extended immediate. -/
  | addi (f : FmtSI)
  /-- ANDI (R343). rd gets rs1 AND the sign-extended immediate. -/
  | andi (f : FmtSI)
  /-- ORI (R401). rd gets rs1 OR the sign-extended immediate. -/
  | ori (f : FmtSI)
  /-- XORI (R471). rd gets rs1 XOR the sign-extended immediate. -/
  | xori (f : FmtSI)
  /-- SHLI (R413). Shifts left by an immediate amount. -/
  | shli (f : FmtShift)
  /-- SHRI (R413). Logical right shift by an immediate amount. -/
  | shri (f : FmtShift)
  /-- SRAI (R413). Arithmetic right shift by an immediate amount. -/
  | srai (f : FmtShift)
  /-- SLTI (R413). rd gets 1 if rs1 is less than the immediate, signed, and 0 otherwise. -/
  | slti (f : FmtSI)
  /-- LIH (R390). Writes a 16-bit immediate into one quarter of rd. -/
  | lih (f : FmtLih)
  /-- FADD (R373). Scalar floating add with one rounding. -/
  | fadd (f : FmtFp)
  /-- FSUB (R373). Scalar floating subtract. -/
  | fsub (f : FmtFp)
  /-- FMUL (R373). Scalar floating multiply. -/
  | fmul (f : FmtFp)
  /-- FFMA (R373). Scalar fused multiply–add into rd with one rounding. -/
  | ffma (f : FmtFp)
  /-- FDIV (R373). Scalar floating divide. -/
  | fdiv (f : FmtFp)
  /-- FSQRT (R373). Scalar floating square root. -/
  | fsqrt (f : FmtFpu)
  /-- FMIN (R373). Scalar floating minimum under R98. -/
  | fmin (f : FmtFp)
  /-- FMAX (R373). Scalar floating maximum under R98. -/
  | fmax (f : FmtFp)
  /-- FCMP (R373). Scalar floating comparison writing 1 or 0. -/
  | fcmp (f : FmtFp) (cc : CmpOp)
  /-- FCVT (R373). Scalar conversion selected by the sub code. -/
  | fcvt (rd rs : RegNo) (cv : FcvtOp)
  /-- FCLASS (R373). Writes a one-hot mask that classifies the operand's encoding. -/
  | fclass (f : FmtFpu)
  /-- SHAPE (R410). Strip boundary: rendezvous, grant, commit, watermark, records and registers, and checkpoint. -/
  | shape (f : FmtSR)
  /-- SHAPEI (R410). Strip boundary with an immediate row request. -/
  | shapei (f : FmtSI)
  /-- TBIND_RECORD (R432). Writes a shape-record image to hN and recomputes its grant. -/
  | tbindRecord (h : PredNo) (sm : RegNo)
  /-- TBIND_TILES (R432). Binds a range of tile or lq codes to a record. -/
  | tbindTiles (first last : TileCode) (h : PredNo)
  /-- TBIND_SQ (R432). Binds a range of sq queues to a record. -/
  | tbindSq (first last : BitVec 2) (h : PredNo)
  /-- TDEAD (R438). Marks a range of tiles dead. -/
  | tdead (first last : TileCode)
  /-- TZERO (R463). Makes a tile or group live, dirty and zero. -/
  | tzero (t : TileCode)
  /-- LD (R385). Scalar load at base plus index. -/
  | ld (d b i : RegNo) (z : LdSize)
  /-- LD_X (R385). Scalar load at base plus index scaled by the size. -/
  | ldX (d b i : RegNo) (z : LdSize)
  /-- ST (R414). Scalar store at base plus index, buffered or performed on device memory. -/
  | st (r b i : RegNo) (z : StSize)
  /-- ST_X (R414). Scalar store with the index scaled by the size. -/
  | stX (r b i : RegNo) (z : StSize)
  /-- LDT (R388). Loads the active elements of a tile image, fault-only-first where R156 applies. -/
  | ldt (f : FmtTileMem)
  /-- STT (R419). Stores the active elements of a tile into the strip buffer in prefix order. -/
  | stt (f : FmtTileMem)
  /-- LDQ (R387). Loads strided elements and pushes row-blocks to an lq. -/
  | ldq (f : FmtQueueMem)
  /-- STQ (R417). Pops sq row-blocks and stores them in prefix order. -/
  | stq (f : FmtQueueMem)
  /-- STQU (R417). Pops sq row-blocks and stores them in no fixed order among themselves. -/
  | stqu (f : FmtQueueMem)
  /-- LDG (R386). Gathers elements at base plus scaled tile indices. -/
  | ldg (f : FmtGather)
  /-- STS (R418). Scatters elements to base plus scaled tile indices. -/
  | sts (f : FmtGather)
  /-- FEED (R376). Reads a feed record and binds or discards an lq feed. -/
  | feed (q : BitVec 2) (b : RegNo)
  /-- PREF (R405). May prefetch bytes towards L2, with no fault. -/
  | pref (b n : RegNo)
  /-- CLEAN (R359). Drains the overlapping buffered entries and releases the region at system scope. -/
  | clean (b n : RegNo)
  /-- INVAL (R381). Acquire at system scope for the region. -/
  | inval (b n : RegNo)
  /-- AMOADD (R347). Atomic fetch-and-add at the home. -/
  | amoadd (f : FmtAmo)
  /-- AMOAND (R347). Atomic fetch-and-AND. -/
  | amoand (f : FmtAmo)
  /-- AMOOR (R347). Atomic fetch-and-OR. -/
  | amoor (f : FmtAmo)
  /-- AMOXOR (R347). Atomic fetch-and-XOR. -/
  | amoxor (f : FmtAmo)
  /-- AMOMIN (R347). Atomic signed minimum. -/
  | amomin (f : FmtAmo)
  /-- AMOMAX (R347). Atomic signed maximum. -/
  | amomax (f : FmtAmo)
  /-- AMOMINN (R347). Atomic unsigned minimum. -/
  | amominn (f : FmtAmo)
  /-- AMOMAXN (R347). Atomic unsigned maximum. -/
  | amomaxn (f : FmtAmo)
  /-- AMOSWP (R347). Atomic swap. -/
  | amoswp (f : FmtAmo)
  /-- AMOFADD (R347). Atomic floating add under RNE, with no flag. -/
  | amofadd (f : FmtAmo)
  /-- AMOCAS (R350). Atomic compare-and-swap. -/
  | amocas (f : FmtAmo)
  /-- TAMO (R427). One atomic per active element of a tile, at indexed addresses. -/
  | tamo (f : FmtTamo)
  /-- FENCE (R378). Acquire, release or both at a scope. -/
  | fence (sc : Scope) (ord : MemOrder)
  /-- FENCE_ST (R379). Waits for the block's NVMe Write and DSM cards, and with .durable submits and awaits Flushes. -/
  | fenceSt (durable : Bool)
  /-- WMPUB (R469). Raises the pending watermark. -/
  | wmpub (a : RegNo)
  /-- WMWAIT (R470). Waits until a producer's watermark reaches the bound, then acquires at polder scope. -/
  | wmwait (h b : RegNo)
  /-- BAR (R353). Arrives at a cluster barrier and waits for the phase. -/
  | bar (k : BitVec 3)
  /-- ARRIVE (R353). Arrives at a barrier phase without waiting. -/
  | arrive (k : BitVec 3)
  /-- AWAIT (R353). Waits for the phase of the block's latest ARRIVE. -/
  | await (k : BitVec 3)
  /-- TSEND (R453). Snapshots a tile as a message to a cluster rank. -/
  | tsend (t : TileCode) (rank tag : RegNo)
  /-- TRECV (R453). Receives the oldest matching message into a tile. -/
  | trecv (t : TileCode) (rank tag : RegNo)
  /-- ENGB (R366). Releases, then validates, probes and accepts the job cards of the active rows. -/
  | engb (t : TileCode) (pd : PredNo) (aseq : RegNo) (pg : PredNo)
  /-- ENGW (R212). Waits for cards up to a bound and acquires their completions. -/
  | engw (d b : RegNo)
  /-- ENGW_CHK (R212). As ENGW, and raises ENGINE_FAULT when a card failed. -/
  | engwChk (d b : RegNo)
  /-- ENGQ_ROW (R213). Returns a row's reason from the latest ENGB. -/
  | engqRow (d a : RegNo)
  /-- ENGQ_CARD (R213). Returns a card's status and output byte count. -/
  | engqCard (d a : RegNo)
  /-- ENGQ_FENCE (R213). Returns the card selected for the latest failing FENCE.st. -/
  | engqFence (d : RegNo)
  /-- TADD (R423). Elementwise add. -/
  | tadd (f : FmtTT)
  /-- TSUB (R423). Elementwise subtract. -/
  | tsub (f : FmtTT)
  /-- TMUL (R423). Elementwise multiply. -/
  | tmul (f : FmtTT)
  /-- TDIV (R423). Elementwise floating divide. -/
  | tdiv (f : FmtTT)
  /-- TSQRT (R441). Elementwise square root. -/
  | tsqrt (f : FmtTTu)
  /-- TRSQ (R441). Elementwise reciprocal square root. -/
  | trsq (f : FmtTTu)
  /-- TRCP (R441). Elementwise reciprocal. -/
  | trcp (f : FmtTTu)
  /-- TEXP2 (R441). Elementwise 2^x. -/
  | texp2 (f : FmtTTu)
  /-- TLOG2 (R441). Elementwise log2. -/
  | tlog2 (f : FmtTTu)
  /-- TMIN (R423). Elementwise minimum. -/
  | tmin (f : FmtTT)
  /-- TMAX (R423). Elementwise maximum. -/
  | tmax (f : FmtTT)
  /-- TABS (R423). Elementwise absolute value. -/
  | tabs (f : FmtTTu)
  /-- TNEG (R423). Elementwise negation. -/
  | tneg (f : FmtTTu)
  /-- TCLAMP (R424). Clamps the old destination between two operands. -/
  | tclamp (f : FmtTT)
  /-- TFMA (R444). Elementwise fused multiply–add into the destination. -/
  | tfma (f : FmtTT)
  /-- TFMS (R444). Elementwise fused multiply–subtract. -/
  | tfms (f : FmtTT)
  /-- TFNMA (R444). Elementwise negated fused multiply–add. -/
  | tfnma (f : FmtTT)
  /-- TAND (R429). Elementwise bitwise AND. -/
  | tand (f : FmtTT)
  /-- TOR (R429). Elementwise bitwise OR. -/
  | tor (f : FmtTT)
  /-- TXOR (R429). Elementwise bitwise XOR. -/
  | txor (f : FmtTT)
  /-- TNOT (R429). Elementwise bitwise NOT. -/
  | tnot (f : FmtTTu)
  /-- TSHL (R429). Elementwise left shift. -/
  | tshl (f : FmtTT)
  /-- TSHR (R429). Elementwise logical right shift. -/
  | tshr (f : FmtTT)
  /-- TSRA (R429). Elementwise arithmetic right shift. -/
  | tsra (f : FmtTT)
  /-- TCMP (R434). Elementwise comparison into a predicate. -/
  | tcmp (f : FmtTcmp)
  /-- TSEL (R460). Selects ta or tb per element by the predicate. -/
  | tsel (f : FmtTT)
  /-- TCVT (R436). Elementwise type conversion. -/
  | tcvt (f : FmtTTu)
  /-- TQNT (R450). Quantises blocks of 32 into an mx tile. -/
  | tqnt (f : FmtTTu)
  /-- TDQ (R439). Dequantises an mx tile. -/
  | tdq (f : FmtTTu)
  /-- TSPL (R446). Splats a scalar into every active element. -/
  | tspl (f : FmtTTs)
  /-- TBCR (R430). Broadcasts one row of ta to every row of td. -/
  | tbcr (f : FmtPerm)
  /-- TMOV (R446). Copies elements bit for bit. -/
  | tmov (f : FmtTTu)
  /-- TIOTA (R446). Writes sM plus the linear index. -/
  | tiota (f : FmtTTs)
  /-- TRED (R455). Row reduction by the full pairwise tree. -/
  | tred (f : FmtPermU) (op : RedOp)
  /-- TREDO (R455). Ordered sequential row reduction. -/
  | tredo (f : FmtPermU) (op : RedOp)
  /-- TREDB (R455). Row reduction by 32-element block trees. -/
  | tredb (f : FmtPermU) (op : RedOp)
  /-- TSCAN (R455). Sequential inclusive scan of each row. -/
  | tscan (f : FmtPermU) (op : RedOp)
  /-- TTRN (R458). Transposes a tile. -/
  | ttrn (f : FmtPermU)
  /-- TSHF (R458). Shuffles each row by index tile Tx. -/
  | tshf (f : FmtPerm)
  /-- TSLD (R458). Slides each row by sM with zero fill. -/
  | tsld (f : FmtPerm)
  /-- TROT (R458). Rotates each row by sM. -/
  | trot (f : FmtPerm)
  /-- TSORT (R462). Stably sorts the active elements of each row. -/
  | tsort (f : FmtPermU)
  /-- TSRCH (R462). Finds for each key the first row position that is not smaller. -/
  | tsrch (f : FmtPerm)
  /-- CMPRS (R361). Compresses the active elements to the front and writes their count. -/
  | cmprs (f : FmtPerm)
  /-- EXPND (R371). Expands consecutive elements into the active positions. -/
  | expnd (f : FmtPermU)
  /-- PAND (R403). Predicate AND. -/
  | pand (f : FmtPred)
  /-- POR (R403). Predicate OR. -/
  | por (f : FmtPred)
  /-- PXOR (R403). Predicate XOR. -/
  | pxor (f : FmtPred)
  /-- PNOT (R403). Predicate NOT. -/
  | pnot (f : FmtPredU)
  /-- PSET (R403). Sets the bits below sA. -/
  | pset (pd : PredNo) (sa : RegNo) (g : Guard)
  /-- PCNT (R403). Counts the set result bits into sD. -/
  | pcnt (sd : RegNo) (pa : PredNo) (g : Guard)
  /-- PFF (R403). Finds the first set result bit. -/
  | pff (sd : RegNo) (pa : PredNo) (g : Guard)
  /-- PLD (R404). Loads a predicate from packed bytes. -/
  | pld (p : PredNo) (b : RegNo)
  /-- PST (R404). Stores a predicate as packed bytes. -/
  | pst (p : PredNo) (b : RegNo)
  /-- MAP (R393). Runs a lane function for each active element. -/
  | map (f : FmtPerm) (fn : BitVec 5)
  /-- MAPR (R394). Runs a lane function sequentially along each row as a reduction. -/
  | mapr (f : FmtPerm) (fn : BitVec 5)
  /-- LRET (R391). Ends a lane-function virtual processor. -/
  | lret
  /-- LSKIP_NZ (R391). Skips n instructions forward when sA is non-zero. -/
  | lskipNz (a : RegNo) (n : BitVec 6)
  /-- LSKIP_Z (R391). Skips n instructions forward when sA is zero. -/
  | lskipZ (a : RegNo) (n : BitVec 6)
  /-- MOPA (R114). Outer-product accumulate over repeat steps. -/
  | mopa (f : FmtMx) (rep : BitVec 5)
  /-- MOPS (R114). Outer-product subtract over repeat steps. -/
  | mops (f : FmtMx) (rep : BitVec 5)
  /-- MMA (R123). Multiplies a tile by a staged B slab into an f32 accumulator. -/
  | mma (f : FmtMma)
  /-- MMAD (R127). MMA plus a per-row low-rank adapter term. -/
  | mmad (f : FmtMma) (tids : TileCode)
  /-- OLOAD (R117). Stages B into a span of operand-die slabs. -/
  | oload (slab b d : RegNo)
  /-- OFREE (R121). Empties the span that holds a slab. -/
  | ofree (slab : RegNo)
  /-- APRE (R351). Prefetches, pins or unpins an adapter's lines. -/
  | apre (a e : RegNo) (k : ApreOp)
  /-- AINV (R345). Invalidates one adapter id in the polder's adapter caches. -/
  | ainv (a : RegNo)
  /-- AINV_ALL (R345). Invalidates every adapter id of the current table. -/
  | ainvAll
  /-- ADTB (R344). Writes the adapter table base and size. -/
  | adtb (b l : RegNo)
  /-- CONVOY_ISSUE (R57). The sequencer assembles a convoy and issues its members, or raises CONVOY_CONFLICT. -/
  | convoyIssue
  /-- FEED_ELEMENT_LOAD (R52). A feed loads its next element into its lq once the queue has room. -/
  | feedElementLoad (k : BitVec 2)
  /-- QUEUE_DEADLOCK (R50). Both halves wait on each other, and the block traps within 64 CU cycles. -/
  | queueDeadlock
  /-- PREEMPTION (R252). A cluster stops issuing, comes to rest and is saved to its contexts. -/
  | preemption
  /-- CLUSTER_PLACEMENT (R234). The scheduler places a waiting cluster, new or resumed, on free slots. -/
  | clusterPlacement (p : PolderNo)
  /-- TIME_SLICE_EXPIRY (R234). A cluster's QSLICE budget expires while a cluster of equal priority waits, and it is pre-empted. -/
  | timeSliceExpiry
  /-- STRIP_REWIND (R262). A poison consumption rewinds the strip to its checkpoint. -/
  | stripRewind (m : Mark)
  /-- USER_INTERRUPT_ENTRY (R221). At a boundary the block enters the user handler, swapping in the shadow registers. -/
  | userInterruptEntry
  /-- BARRIER_PHASE_COMPLETE (R353). Every member has arrived, and the phase completes, releasing waiters. -/
  | barrierPhaseComplete (k : BitVec 3)
  /-- ADAPTER_ROW_FETCH (R129). A deferred MMAD row's adapter data arrive, are GEN-checked and the row is replayed. -/
  | adapterRowFetch (row : BitVec 8)
  /-- CARD_START (R187). An accepted card starts once its overlapping earlier cards have completed. -/
  | cardStart (p : PolderNo) (n : Nat)
  /-- CARD_COMPLETE (R211). A card completes with a status, applies its watermark and sets UISTAT. -/
  | cardComplete (p : PolderNo) (n : Nat)
  /-- NVME_COMPLETION (R219). A completion with a new phase tag is matched by CID, the head doorbell is written and the card completes. -/
  | nvmeCompletion (p : PolderNo) (qp : BitVec 6)
  /-- PACKET_NOP (R232). A NOP packet starts and completes. -/
  | packetNop (p : PolderNo) (q : QueueNo)
  /-- PACKET_LAUNCH (R232). A LAUNCH packet reads its loop table and creates or refuses a task. -/
  | packetLaunch (p : PolderNo) (q : QueueNo)
  /-- PACKET_GRAPH_RUN (R241). A GRAPH_RUN packet starts a run of a graph slot. -/
  | packetGraphRun (p : PolderNo) (q : QueueNo)
  /-- PACKET_WRITE (R232). Writes a value as a release at its scope. -/
  | packetWrite (p : PolderNo) (q : QueueNo)
  /-- PACKET_SIGNAL (R232). Performs an atomic SET or ADD as a release. -/
  | packetSignal (p : PolderNo) (q : QueueNo)
  /-- PACKET_WRITE_SIGNAL (R232). A write, then a signal, within one turn. -/
  | packetWriteSignal (p : PolderNo) (q : QueueNo)
  /-- PACKET_WAIT (R232). Evaluates memory or watermark conditions in order, holding the queue. -/
  | packetWait (p : PolderNo) (q : QueueNo)
  /-- WAIT_CONDITION_MET (R236). A waiting WAIT re-evaluates and, when all conditions are met, acquires and completes. -/
  | waitConditionMet (p : PolderNo) (q : QueueNo)
  /-- PACKET_FENCE (R232). Waits for earlier packets, then releases at its scope. -/
  | packetFence (p : PolderNo) (q : QueueNo)
  /-- TASK_COMPLETE (R195). All blocks have halted and all cards completed; the completion-target write is made and the packet completes. -/
  | taskComplete (p : PolderNo) (h : Nat)
  /-- TASK_END (R251). A task ends by a trap with no resume or by KILL, discarding uncommitted stores. -/
  | taskEnd (p : PolderNo) (h : Nat) (tcause : Word64)
  /-- COMPLETION_ENTRY_WRITE (R237). A completion entry is written once the ring has room. -/
  | completionEntryWrite (p : PolderNo) (q : QueueNo)
  /-- QUIET_INTERVAL_EXPIRY (R238). QUIET × 256 polder cycles pass with an unannounced entry, and the message is sent. -/
  | quietIntervalExpiry (p : PolderNo) (q : QueueNo)
  /-- QUEUE_SLICE_EXPIRY (R236). A queue's command-processor slice expires between packets, and service moves on. -/
  | queueSliceExpiry (p : PolderNo)
  /-- QTAIL_DOORBELL (R226). A write of QTAIL advances the tail and marks the queue pending. -/
  | qtailDoorbell (p : PolderNo) (q : QueueNo) (v : Word64)
  /-- QCTL_WRITE (R227). Sets enable, coalescing and interrupt control; clearing EN stops new packets. -/
  | qctlWrite (p : PolderNo) (q : QueueNo) (v : Word64)
  /-- GRAPH_VALIDATE (R240). Writing VALID = 1 checks the graph and puts it in service or rejects it. -/
  | graphValidate (p : PolderNo) (g : BitVec 6) (v : Word64)
  /-- GTRIG (R241). A write to GTRIG starts or queues a run, applying its patch list. -/
  | gtrig (p : PolderNo) (v : Word64)
  /-- GRAPH_NODE_START (R241). A node starts once all its predecessors have completed, with acquire and region INVAL. -/
  | graphNodeStart (p : PolderNo) (g : BitVec 6) (n : BitVec 12)
  /-- CODE_LOAD (R314). CODECMD LOAD checks an object and takes a code slot with a new GEN. -/
  | codeLoad (p : PolderNo) (v : Word64)
  /-- CODE_UNLOAD (R317). CODECMD UNLOAD marks a slot unloading with UGEN. -/
  | codeUnload (p : PolderNo) (v : Word64)
  /-- CODE_SLOT_FREE (R317). The slot becomes free once every CU and saved context has passed UGEN. -/
  | codeSlotFree (p : PolderNo) (e : BitVec 6)
  /-- FAULT_RECORD_WRITE (R248). A fault record is written once the fault ring has room and is enabled. -/
  | faultRecordWrite (p : PolderNo)
  /-- FQRING_WRITE (R248). A write of FQRING while EN = 0 sets the ring and resets index and phase. -/
  | fqringWrite (p : PolderNo) (v : Word64)
  /-- FQRES_RESUME (R250). Resolution RESUME returns the suspended cluster to the waiting order. -/
  | fqresResume (p : PolderNo) (ctx : BitVec 32)
  /-- FQRES_SKIP (R250). Resolution SKIP continues after the trapping instruction. -/
  | fqresSkip (p : PolderNo) (ctx : BitVec 32)
  /-- FQRES_KILL (R250). Resolution KILL ends the task. -/
  | fqresKill (p : PolderNo) (ctx : BitVec 32)
  /-- PRESET_KEEP (R271). Resets one polder and keeps its HBM. -/
  | presetKeep (p : PolderNo)
  /-- PRESET_SCRUB (R271). Resets one polder and scrubs its HBM. -/
  | presetScrub (p : PolderNo)
  /-- PCTL_WRITE (R266). Sets the partition; a change while enabled resets the polder with scrub. -/
  | pctlWrite (p : PolderNo) (v : Word64)
  /-- SLUICE_ENTRY_WRITE (R268). A write of SLREQ or SLGRANT opens or closes a sluice when the entries match or stop matching. -/
  | sluiceEntryWrite (p : PolderNo) (grant : Bool) (k : BitVec 3) (hi : Bool) (v : Word64)
  /-- SLUICE_CLOSE_COMPLETE (R268). A closing sluice completes once admitted accesses have been performed. -/
  | sluiceCloseComplete (p : PolderNo) (k : BitVec 3)
  /-- OWNER_MAP_WRITE (R265). A write of S2ROOT, CTXPOOL or LMI waits until every block is pre-empted, then takes effect. -/
  | ownerMapWrite (p : PolderNo) (r : OwnerReg) (v : Word64)
  /-- RECHECK_RERUN (R257). A queued instruction reruns in idle lane-group slots and is compared bit for bit. -/
  | recheckRerun (runs : RecheckRuns)
  /-- HANDOVER_SWITCH (R282). At a quiescent boundary a polder switches its bank select and commits. -/
  | handoverSwitch (p : PolderNo)
  /-- CAUSEWAY_REQUEST (R27). A target checks an arriving request and performs it at the home. -/
  | causewayRequest
  /-- CAUSEWAY_RESPONSE (R29). A response reaches its requester and completes the access. -/
  | causewayResponse
  /-- BRINGUP (R284). Power-on or device reset runs the bring-up steps in order. -/
  | bringup (fails : List BringupUnit)
  /-- FULL_RATE_TRANSITION (R285). After step 5 the clocks are raised and the stacks retrained to full rate. -/
  | fullRateTransition (p : PolderNo)
  /-- REGISTER_WRITE (R4). A write to a register without behaviour of its own sets its fields under the access codes. -/
  | registerWrite (fn : FnId) (sp : RegSpace) (off : Nat) (v : Word64)
  /-- RESYNC_COMPLETE (R274). A dissenting copy finishes resynchronising. -/
  | resyncComplete (p : PolderNo) (m : VotedMachine)
  /-- DIE_LINK_RESUME (R277). The retrained module resumes traffic from its replay buffers. -/
  | dieLinkResume (m : BitVec 6)
  /-- CAUSEWAY_RETRAIN (R24). 64 replays within 65,536 cycles pause and retrain a port. -/
  | causewayRetrain (port : BitVec 4)
  /-- TRAP_TAKEN (R247). A trap completes earlier instructions, writes the trap registers, saves the cluster and writes a fault record. -/
  | trapTaken (t : TrapInfo)
  /-- MSIX_UNMASK (R238). An unmasked vector sends its pending message. -/
  | msixUnmask (fn : FnId) (vec : BitVec 4)
  /-- SLUICE_DOWN (R269). An access into a resetting or dead polder ends with SLUICE_DOWN within 4,096 cycles. -/
  | sluiceDown (va : Word64)
  /-- HOCTL_WRITE (R282). Starts a hand-over: verifies and loads a staged firmware image. -/
  | hoctlWrite (v : Word64)
  /-- ATTEST_QUOTE (R281). A DOE request returns a signed quote of the chains. -/
  | attestQuote (fn : FnId) (nonce : List Byte) (mask : BitVec 16)
  /-- ATTEST_LOG (R281). A DOE log request returns a chain's records. -/
  | attestLog (fn : FnId) (chain : Option PolderNo)
  /-- VOTE_DISSENT (R274). A voted copy dissents and starts resynchronisation. -/
  | voteDissent (p : PolderNo) (m : VotedMachine) (copy : BitVec 2)
  /-- CONTROL_MACHINE_CHECK (R275). Compare-mode disagreement resets the polder's voted machines from their tables. -/
  | controlMachineCheck (p : PolderNo)
  /-- DIE_LINK_REPAIR (R277). A module's replay count reaches DLRTH, and traffic pauses for lane test and remap. -/
  | dieLinkRepair (m : BitVec 6) (bad : Nat) (bad2 : Nat)
  /-- CAUSEWAY_FLIT_RECEIVE (R24). A flit is checked, acknowledged, credited and its messages taken or forwarded. -/
  | causewayFlitReceive (port : BitVec 4) (flit : List Byte)
  /-- CAUSEWAY_REPLAY (R24). A replay request makes the sender resend every flit after the acknowledged one. -/
  | causewayReplay (port : BitVec 4) (ack : BitVec 12)
  /-- CAUSEWAY_PORT_DOWN (R24). A port not retrained within 262,144 cycles is down, and its messages fail. -/
  | causewayPortDown (port : BitVec 4)
  /-- CAUSEWAY_TIMEOUT (R29). A request gets no response within 1,048,576 cycles and fails as SLUICE_DOWN. -/
  | causewayTimeout (p : PolderNo) (tag : BitVec 16)
  /-- INBOUND_PCIE_ACCESS (R21). A host or peer access through BAR4 is checked at the dike gates and served at the home L2. -/
  | inboundPcieAccess (fn : FnId) (off : Nat) (op : PcieOp)
  /-- RAIL_LIMIT (R32). The die manager lowers or raises a polder's clock, or stalls issue, to hold its rail limit. -/
  | railLimit (p : PolderNo) (act : RailAction)
  /-- FAILURE (R273). A polder's rail, clock, control or CU, an HBM stack, a half's fabric rail, L2, L3 or vertical link, the die link beyond repair, or the PCIe interface fails at run time, and the state of the affected polders is lost while others see SLUICE_DOWN. -/
  | failure (u : FailedUnit)
  /-- UNCORRECTABLE_ERROR (R147). An uncorrectable ECC error is detected in an HBM, L3 or L2 line or in an on-chip store, and the line or chunk is marked poisoned or on-chip uncorrectable. -/
  | uncorrectableError (pl : ErrorPlace)
  /-- QPTAB_WRITE (R217). System software changes a queue-pair table entry, and any card still incomplete on that pair completes with NVME_STATUS and a status field of zero. -/
  | qptabWrite (p : PolderNo) (e : BitVec 6) (w : BitVec 2) (v : Word64)
  /-- QRING_WRITE (R226). A write of QRING while EN = 0 sets the ring and zeroes head and tail. -/
  | qringWrite (p : PolderNo) (q : QueueNo) (v : Word64)
  /-- QCQ_WRITE (R226). A write of QCQ while EN = 0 sets the completion ring and resets index and phase. -/
  | qcqWrite (p : PolderNo) (q : QueueNo) (v : Word64)
  /-- QCTL_ERR_CLEAR (R229). Writing 1 to ERR resumes a halted queue after its packet. -/
  | qctlErrClear (p : PolderNo) (q : QueueNo)
  deriving DecidableEq, Repr

end Sys2Proof
end

