-- ==== Sys2Proof/Machine/State.lean ====
section
/-! DEFINITION. The state of the device as plain data: everything that INVENTORY.md lists under State, the outcomes of
a step, and the state right after reset. -/

namespace Sys2Proof.Machine

/-! ### Outcomes -/

/-- Why a step can stop with a fault. Traps of the manual are no faults: they are next states (R247). -/
inductive Fault where
  /-- A block instruction or block event is executed and `cur` names no block. Raised by the meanings of the 188
  words and of the block events. Safe: the manual has no such step, since only a block fetches (R43). -/
  | noBlock
  deriving DecidableEq, Repr

/-- Why a step can be refused. -/
inductive Refusal where
  /-- The named instruction has no meaning yet. Raised by an arm of `exec`. Safe. -/
  | notModelled (mnemonic : String)
  deriving DecidableEq, Repr

/-! ### Small data -/

/-- A map from numbers, kept in rising order of its keys with no key twice. -/
abbrev SMap (α : Type) := List (Nat × α)

/-- Bytes by address in canonical form: addresses strictly rising, no entry equal to zero, which is what an unlisted
address reads as (log 2). -/
abbrev Memory := List Host.Cell

/-- A register file (R62). -/
abbrev RegFile := Vector Word64 32

/-- Element types (R66). -/
inductive ElemType where
  | i8 | i16 | i32 | i64 | n8 | n16 | n32 | n64 | f16 | bf16 | f32 | f64 | e4m3 | e5m2 | e2m1
  | mx8e4 | mx8e5 | mx4 | mxi8
  deriving DecidableEq, Repr

/-- Layouts of a tile image (R65, R72). -/
inductive Layout where
  | rowMajor | colMajor | swizzled
  deriving DecidableEq, Repr

/-- A shape record (R65). `g` is the code of the group multiplier. -/
structure ShapeRec where
  reqr : Nat
  reqc : Nat
  gr : Nat
  gc : Nat
  ty : ElemType
  g : BitVec 2
  lay : Layout
  tail : Bool
  deriving DecidableEq, Repr

/-- The record of R65's reset values (R67). -/
def ShapeRec.default : ShapeRec := ⟨0, 0, 1, 16, .f32, 0, .rowMajor, false⟩

/-- A tile (R71, R78, R79). Element (r, c) stands at key r × 16384 + c; a key not listed is zero. The scale of block q
of row r stands at key r × 512 + q (R66), and the mark of chunk j (64 bytes) of row r at key r × 256 + j (R260). A
dead tile lists nothing. -/
structure Tile where
  live : Bool
  dirty : Bool
  hwr : Nat
  hwc : Nat
  elems : SMap Nat
  scales : SMap Nat
  marks : SMap Mark
  deriving DecidableEq, Repr

/-- A dead tile (R62). -/
def Tile.dead : Tile := ⟨false, false, 0, 0, [], [], []⟩

/-- An element in a load or store queue, with its mark (R45, R260). -/
structure QElem where
  bits : Nat
  mark : Option Mark
  deriving DecidableEq, Repr

/-- A load or store queue (R45): its elements, oldest first. `debt` counts elements that a lagging half has already
consumed before the pushing instruction is reached in program order (log 16). -/
structure TQueue where
  elems : List QElem
  debt : Nat
  deriving DecidableEq, Repr

/-- An entry of aq or eq (R45, R260). Branch outcomes (R47) leave at the boundary at which they enter (log 16). -/
structure SEntry where
  val : Word64
  mark : Option Mark
  deriving DecidableEq, Repr

/-- A scalar queue, with the debt of `TQueue`. -/
structure SQueue where
  entries : List SEntry
  debt : Nat
  deriving DecidableEq, Repr

/-- A feed (R51): base, extents, strides; `pos` counts the elements loaded. A fault of the next element is kept until it
is popped (R52); `sizeBad` says that the next element would be loaded at a 4-bit or mx size (R51). -/
structure Feed where
  base : Nat
  ext : List Nat
  stride : List Int
  pos : Nat
  fault : Option (Cause × Nat)
  sizeBad : Bool
  deriving DecidableEq, Repr

/-- The feeds of one load queue (R376). `armed` is false for a launch feed that may not load yet (R52). -/
structure FeedSlot where
  cur : Option Feed
  next : Option Feed
  armed : Bool
  deriving DecidableEq, Repr

/-- A staged span of slabs, kept at its head slab (R116, R119). Element (k, j) of B is at key k × 128 + j, the scale of
rows 32q on of column j at key q × 128 + j; `marks` has the marked column slices (R400). -/
structure Slab where
  ty : ElemType
  k : Nat
  n : Nat
  span : Nat
  elems : SMap Nat
  scales : SMap Nat
  marks : SMap Mark
  /-- Staged since the strip's SHAPE (R119). -/
  fresh : Bool
  deriving DecidableEq, Repr

/-- Physical copies of tiles in the slot's tile store (R76, R77), in bytes: the contents of each tile that was live at the
checkpoint and has not been written in the strip; the checkpointed contents kept beside their tiles' new copies; whether
such contents found no room and were overwritten, which makes the strip non-rewindable; and the bytes of the slot's store
that messages leave (R73, R223). -/
structure Copies where
  held : SMap Nat
  kept : Nat
  lost : Bool
  store : Nat
  deriving DecidableEq, Repr

/-- The part of a block that the checkpoint of R76 holds, together with the tiles (R76) and slabs (R400) that it
restores. -/
structure Core where
  a : RegFile
  s : RegFile
  am : Vector (Option Mark) 32
  sm : Vector (Option Mark) 32
  /-- p1 to p7 as bit sets; p0 is hard-wired (R81). -/
  preds : Vector Nat 8
  recs : Vector ShapeRec 8
  /-- Records of T0-T27, of lq0-lq3 and of sq0-sq3 (R63). -/
  bindT : Vector PredNo 28
  bindL : Vector PredNo 4
  bindS : Vector PredNo 4
  /-- The strip grant in force (R74), after any trim (R157). -/
  gr : Nat
  gc : Nat
  /-- The register number of the strip's SHAPE (R157), none in strip 0. -/
  shapeD : Option RegNo
  fmode : Word64
  fstat : Word64
  sidx : Word64
  tiles : Vector Tile 28
  lq : Vector TQueue 4
  sq : Vector TQueue 4
  aq : SQueue
  eq : SQueue
  feeds : Vector FeedSlot 4
  wmPend : Word64
  slabs : SMap Slab
  copies : Copies
  /-- Arrivals that the program has made at each barrier (R355). -/
  arrived : Vector Nat 8
  deriving DecidableEq, Repr

/-- Where a buffered store goes (R170): the block's shared-store region, or a physical address. -/
inductive Loc where
  | aper (off : Nat)
  | pa (addr : Nat)
  deriving DecidableEq, Repr

/-- A buffered store entry (R170, R172): `size` bytes of `val`, or one nibble of a byte (R420). -/
structure SbEntry where
  va : Nat
  loc : Loc
  size : Nat
  val : Nat
  nibble : Option Bool
  mark : Option Mark
  deriving DecidableEq, Repr

/-- A message of TSEND (R223). -/
structure Message where
  dest : Nat
  tag : Nat
  ty : ElemType
  rows : Nat
  cols : Nat
  elems : SMap Nat
  scales : SMap Nat
  marks : SMap Mark
  deriving DecidableEq, Repr

/-- What the block keeps of a card it issued (R213, R379). `status` is none while it is incomplete. -/
structure CardRec where
  seq : Nat
  status : Option Nat
  bytes : Nat
  nvst : Nat
  nsid : Nat
  qp : Nat
  opc : Option Nat
  deriving DecidableEq, Repr

/-- A Flush that FENCE.st.durable submitted (R379). -/
structure FlushRec where
  nsid : Nat
  qp : Nat
  status : Option Nat
  deriving DecidableEq, Repr

/-- Where a block stands (R254, R255). `halted` keeps the block until its task completes. -/
inductive BlkStatus where
  | waiting | resident | preempted | suspended | halted | ended
  deriving DecidableEq, Repr

/-- Resume points of a trap (R244). -/
inductive Resume where
  | at | after | strip | none
  deriving DecidableEq, Repr

/-- Requesters of a remote access (R29): the instruction at a block's pc; one that the block's other half has reached by going
ahead, by its place in that run (log 16); a feed of the block by its load queue (R52); a card; a packet; or nobody, once who
asked waits no longer. -/
inductive Requester where
  | block (p ctx : Nat)
  | ahead (p ctx k : Nat)
  | feed (p ctx k : Nat)
  | gone (p : Nat)
  | card (p n : Nat)
  | packet (p q : Nat)
  deriving DecidableEq, Repr

/-- A remote operation (R25): read of a length, write of bytes, or atomic with function, size, operand, comparand. -/
inductive RemOp where
  | read (len : Nat)
  | write (bytes : List Byte)
  | atomic (fn : Nat) (dbl : Bool) (v cmp : Nat)
  deriving DecidableEq, Repr

/-- The outcome of a remote request (R29): a status code of R25 and the data. Status 0x5 stands for no response. -/
structure RemResult where
  dom : Nat
  addr : Nat
  op : RemOp
  status : Nat
  data : List Byte
  deriving DecidableEq, Repr

/-- An MMA or MMAD in progress at pc (R129 to R131), its rows as bit sets: `todo` those with an active element, `done` those
whose results are in tacc, with the flags that each gathered; `rows` those that have finished since the instruction last issued,
with the bits and flags of their elements, of them `bad` those with a cause of their own and `gain` the flags of each other one;
and those that fault, with cause and address. `held` are the ids whose lines the instruction holds; `part` is tacc with the
finished rows, as a save leaves it (R131), and `orig` tacc as a trap that writes no row leaves it (R397). -/
structure MmadProg where
  pc : Nat
  todo : Nat
  done : Nat
  flags : SMap Nat
  rows : Nat
  bad : Nat
  gain : SMap Nat
  orig : SMap Tile
  fin : SMap (Nat × Nat)
  faults : SMap (Cause × Nat)
  held : List Nat
  part : SMap Tile
  copies : Copies
  deriving DecidableEq, Repr

/-- A fetch of an adapter that spans steps (R129): the id, the entry once read, and the attempts that the GEN check has
rejected. -/
structure AdTry where
  id : Nat
  entry : Option (List Byte)
  tries : Nat
  deriving DecidableEq, Repr

/-- An entry of the recheck queue (R14, R257): an instruction that has run once, with its word, the cores before and after
that run, the flags that it raised, the members of its convoy that were left, and the adapter ids whose lines it holds until
it retires (R129). -/
structure Recheck where
  pc : Nat
  word : Word32
  before : Core
  after : Core
  flags : Nat
  convoy : Nat
  openW : List Word32
  held : List Nat
  deriving DecidableEq, Repr

/-- How far a saved instruction has come (R253): its progress index, and what it leaves should it go no further: the tiles
and predicates written so far, the elements popped from load queues, and those pushed to store queues. -/
structure Progress where
  index : Nat
  tiles : SMap Tile
  preds : SMap Nat
  pops : SMap Nat
  pushes : SMap (List QElem)
  deriving DecidableEq, Repr

/-- A block (chapter 02, R254). -/
structure Block where
  core : Core
  /-- The checkpoint of R76 and the address after the strip's SHAPE. -/
  ckpt : Core
  ckptPc : Nat
  pc : Nat
  /-- Instructions that have run once and await their rerun, oldest first (R257). -/
  recheck : List Recheck
  /-- Progress of the instruction at pc and of the convoy members after it (R253). `core` itself stands before what the
  instruction has done, but for LDQ, whose pushed row-blocks are in their queue (R387), and MMA and MMAD, whose finished
  rows are in tacc (R131). -/
  prog : List Progress
  /-- Members of the convoy in progress that have still to execute (R57). -/
  convoy : Nat
  /-- Words of the convoy that have been issued, where the word after them could not be fetched: it may join them (R57). -/
  openW : List Word32
  /-- A C bit at this address is ignored, after a SKIP (R250). -/
  skipC : Bool
  sbuf : List SbEntry
  rewindable : Bool
  /-- Sources consumed in this strip, and rewinds taken (R261). -/
  consumed : List Mark
  rewinds : Nat
  stripId : Word64
  wmark : Word64
  tcause : Word64
  tcoord : Word64
  taddr : Word64
  fltpc : Word64
  progix : Word64
  grantc : Word64
  /-- The ceiling that TBIND uses until the next SHAPE (R73, R75): GRANTC as the last SHAPE saw it. -/
  ceiling : Word64
  blkid : Nat
  clrank : Nat
  loopix : Vector Nat 4
  uivec : Word64
  uistat : Word64
  uien : Bool
  shadowA : Vector Word64 7
  shadowS : Vector Word64 7
  shadowAm : Vector (Option Mark) 7
  shadowSm : Vector (Option Mark) 7
  uiret : Nat
  cardSeq : Nat
  cardRecs : List CardRec
  /-- Row reasons of the latest ENGB (R213). -/
  engRows : List Nat
  lastErr : Nat
  fenceSeq : Nat
  covered : Nat
  flushes : List FlushRec
  adtBase : Word64
  /-- Pinned adapter ids with K and N, in order (R131). -/
  pins : List (Nat × Nat × Nat)
  /-- Those that a resumption has still to fetch and pin before the block issues (R131, R351). -/
  repins : List (Nat × Nat × Nat)
  mmad : Option MmadProg
  /-- Rows of the MMAD in progress that have finished or faulted and await the other rows. -/
  mmadRows : Nat
  adTry : Option AdTry
  /-- Ids whose lines the MMAD that has just completed holds, until its recheck entry takes them over (R129). -/
  adHeld : List Nat
  eventFlag : Bool
  shared : Memory
  /-- Marks of 16-byte lines of the region (R260), by line number, with the bytes written since. -/
  sharedMarks : SMap (Mark × Nat)
  sharedTop : Nat
  msgs : List Message
  /-- Arrivals made at each barrier (R353, R355). -/
  arrMade : Vector Nat 8
  remDone : List RemResult
  /-- Answers that have come for feeds, by load queue (R52). -/
  feedDone : List (Nat × RemResult)
  /-- Answers that have come for the other half's run ahead of the waiting instruction, by place; none before it has asked
  (log 16). -/
  ahead : Option (List (Nat × RemResult))
  /-- This is the copy of the block on which its other half goes ahead: what it stores stays buffered (log 16). -/
  runsAhead : Bool
  status : BlkStatus
  resume : Resume
  /-- The instruction at pc could not go on when it was last tried (R42). -/
  waiting : Bool
  /-- The instruction at pc has begun accesses, and completes before the block is at rest (R252) or interrupted (R221). -/
  begun : Bool
  /-- The elements of the store at pc have entered the buffer, and an overflow is still draining (R171). -/
  stored : Bool
  /-- Device elements that the store at pc has performed (R144). -/
  devDone : Nat
  /-- Old values of the elements that the TAMO at pc has performed (R428). -/
  taken : SMap Nat
  /-- PCIe targets written since the last system-scope release (R175). -/
  pcie : List Nat
  /-- The instruction has issued and waits only for its own completion: WFE holding (R467). -/
  holding : Bool
  /-- The other half will make room in a full queue for this instruction (R46, log 16). -/
  room : Bool
  /-- The condition of R50 has arisen at the waiting instruction: QUEUE_DEADLOCK comes next (log 16). -/
  stuck : Bool
  /-- Looks past the waiting instruction that have ended without an answer (R50, log 16). -/
  look : Nat
  /-- Load queues whose elements the waiting instruction needs, with the number it needs (R46). -/
  need : List (Nat × Nat)
  cid : Nat
  place : Option (Nat × Nat)
  deriving DecidableEq, Repr

/-- A block of the device: its polder and context number (R255). -/
structure BlkId where
  p : Nat
  ctx : Nat
  deriving DecidableEq, Repr

/-- A cluster (R38, R40): its members in rank order as context numbers (of blocks already created) or the range of its
blocks. `phases` counts completed phases of each barrier (R353). -/
structure Cluster where
  cid : Nat
  /-- The task: the polder that created it and its number. -/
  creator : Nat
  handle : Nat
  idx : Nat
  /-- Block ids of its members, by rank. -/
  blkids : List Nat
  /-- Context numbers of its members once it has been placed. -/
  ctxs : List Nat
  phases : Vector Nat 8
  resident : Bool
  suspended : Bool
  /-- Place in the order of creation, and in the order of placements (R234). -/
  order : Nat
  placedAt : Nat
  deriving DecidableEq, Repr

/-- A lane function of a kernel (R313). -/
structure LaneFn where
  off : Nat
  len : Nat
  results : Nat
  deriving DecidableEq, Repr

/-- Who created a task or run (R249, R237): a started packet of a host queue by its number, or a node of a graph slot. -/
inductive Origin where
  | packet (q : Nat) (sn : Nat)
  | node (g n : Nat)
  deriving DecidableEq, Repr

/-- A task (R33). -/
structure Task where
  handle : Nat
  origin : Origin
  queue : Nat
  entry : Nat
  textVa : Nat
  slot : Nat
  gen : Nat
  tilesCode : Nat
  feedRec : Nat
  fns : List LaneFn
  root : Nat
  counts : List Nat
  /-- KIND and CHUNK of the four levels (R34). -/
  loops : List (Nat × Nat)
  args : List Word64
  feeds : List (Option Feed)
  prio : Nat
  weight : Nat
  clsz : Nat
  pers : Bool
  scope : Nat
  ctAddr : Nat
  ctVal : Word64
  /-- Blocks of the task, and those already placed once. -/
  nblocks : Nat
  placed : Nat
  halted : Nat
  /-- Set when the task ends under R251: TCAUSE of its first fault record, or of its end. -/
  ended : Option Word64
  faulted : Option Word64
  deriving DecidableEq, Repr

/-- A packet that has started and not completed (R232): its number in the polder's order of starts, ring offset, TYPE,
TAG, CQE, SCOPE, and ALLQ of a FENCE. -/
structure Started where
  sn : Nat
  off : Nat
  ty : Nat
  tag : Nat
  cqe : Bool
  scope : Nat
  allq : Bool
  deriving DecidableEq, Repr

/-- A write or signal of a packet at a place that translation has fixed (R232, R233): PA and VA, with the bytes written or
OP and value of the signal. -/
inductive CpStep where
  | write (pa va : Nat) (bytes : List Byte)
  | signal (pa va op v : Nat)
  deriving DecidableEq, Repr

/-- The packet that the command processor has in hand while the causeways answer (R29, R236): queue, packet and image, the
steps left, whether a step has been performed, and the requests that it waits for. -/
structure CpJob where
  q : Nat
  pkt : Started
  img : List Word64
  steps : List CpStep
  wrote : Bool
  needs : List (Nat × Nat × RemOp)
  deriving DecidableEq, Repr

/-- A host queue (R226, R227) with the command processor's state of it. -/
structure HostQueue where
  qring : Word64
  qtail : Word64
  qhead : Word64
  qcq : Word64
  qcqHead : Word64
  qctl : Word64
  qroot : Word64
  qslice : Word64
  /-- Device write index and phase of the completion ring (R237). -/
  cqIndex : Nat
  cqPhase : Bool
  /-- Completion entries that wait for room, as four dwords with P clear. -/
  cqWaiting : List (List Word64)
  /-- Entries written since the last message (R238). -/
  unannounced : Nat
  started : List Started
  /-- A WAIT that holds the queue: its image and the index of the first condition not yet met (R236). -/
  waitIx : Option (List Word64 × Nat)
  /-- Handle of the task of the latest LAUNCH (R235). -/
  lastTask : Nat
  /-- Bytes that a cleared ERR skips (R229). -/
  skip : Nat
  /-- Remote results of the packet at QHEAD (R29). -/
  remDone : List RemResult
  deriving DecidableEq, Repr

/-- The fault queue (R248). -/
structure FaultQueue where
  fqring : Word64
  fqhead : Word64
  fqctl : Word64
  index : Nat
  phase : Bool
  /-- Records that wait, as eight dwords with P clear. -/
  waiting : List (List Word64)
  deriving DecidableEq, Repr

/-- A graph run (R241): nodes started and completed, as bit sets; patches and completion target; the packet that asked
for it, by queue and number; the nodes of tasks with their handles; the first fault, as status and DETAIL. -/
structure GraphRun where
  number : Nat
  /-- The patch list has been applied. -/
  begun : Bool
  patch : Nat
  npatch : Nat
  ctAddr : Nat
  ctVal : Word64
  origin : Option (Nat × Nat)
  started : Nat
  done : Nat
  /-- Nodes that ended without completing. -/
  failed : Nat
  tasks : List (Nat × Nat)
  fault : Option (Nat × Word64)
  deriving DecidableEq, Repr

/-- A graph slot (R240, R241). -/
structure GraphSlot where
  gdesc : Word64
  ctaddr : Word64
  ctval : Word64
  running : Option GraphRun
  pending : Option GraphRun
  runs : Nat
  /-- WAIT nodes: node and index of the first condition not yet met. -/
  waits : List (Nat × Nat)
  /-- Nodes that write or signal, with their steps left, and LAUNCH nodes whose loop table is being read. -/
  steps : List (Nat × List CpStep)
  deriving DecidableEq, Repr

/-- A kernel of a loaded object (R312, R313). -/
structure Kernel where
  entryOff : Nat
  tilesCode : Nat
  feedRec : Nat
  fns : List LaneFn
  deriving DecidableEq, Repr

/-- States of a code slot (R314). -/
inductive SlotState where
  | free | loaded | unloading
  deriving DecidableEq, Repr

/-- A code slot (R314). -/
structure CodeSlot where
  va : Nat
  gen : Nat
  ugen : Nat
  st : SlotState
  textOff : Nat
  textLen : Nat
  kernels : List Kernel
  /-- CUs that have passed UGEN, as a bit set (R317). -/
  passed : Nat
  deriving DecidableEq, Repr

/-- A run of bytes with its translation: first VA, first PA, length. -/
structure PaRun where
  va : Nat
  pa : Nat
  len : Nat
  deriving DecidableEq, Repr

/-- An accepted card (R209) or a Flush of FENCE.st (R379, `seq` 0), with the translations of its regions (R205). `avoid`
lists PA bytes that valid writes of its batch have written, which its padding leaves alone (R207). -/
structure Card where
  num : Nat
  ctx : Nat
  seq : Nat
  batch : Nat
  row : Nat
  data : Nat
  root : Nat
  rdPa : List PaRun
  wrPa : List PaRun
  avoid : List (Nat × Nat)
  started : Bool
  /-- The NVMe slot that carries the command (R219). -/
  slot : Option Nat
  /-- Block ranges of a started Dataset Management card, as its list gave them (R192, R218): first block and number. -/
  ranges : List (Nat × Nat)
  /-- Remote results that have come back for the card (R29). -/
  rem : List RemResult
  deriving DecidableEq, Repr

/-- An entry of the queue-pair table with the pair's tail, head and phase (R217, R219). -/
structure QueuePair where
  w0 : Word64
  w1 : Word64
  sqdb : Word64
  cqdb : Word64
  tail : Nat
  head : Nat
  phase : Bool
  deriving DecidableEq, Repr

/-- A translation in a TLB slice (R153): CU, slice, stage-1 root, first VA, log2 of its size, PA, permissions, type. -/
structure TlbEntry where
  cu : Nat
  slice : Nat
  root : Nat
  va : Nat
  log : Nat
  pa : Nat
  rd : Bool
  wr : Bool
  x : Bool
  mt : Nat
  deriving DecidableEq, Repr

/-- What a CU's adapter cache has fetched of an adapter id (R128), for extents K and N. -/
structure AdEntry where
  cu : Nat
  base : Nat
  id : Nat
  k : Nat
  n : Nat
  entry : List Byte
  la : List Byte
  lb : List Byte
  deriving DecidableEq, Repr

/-- A line of 256 bytes in a CU's adapter cache (R128), by its tag and its offset in the adapter's data; `pins` are the
contexts that have pinned it. -/
structure AdLine where
  cu : Nat
  base : Nat
  id : Nat
  off : Nat
  pins : List Nat
  deriving DecidableEq, Repr

/-- PSTAT.STATE (R266). -/
inductive PState where
  | off | bringingUp | reduced | full | resetting | dead
  deriving DecidableEq, Repr

/-- The voted state of one machine (R274): the dissenting copy under resynchronisation, none in full vote. -/
abbrev VoteState := Option (BitVec 2)

/-- A sluice that has closed while accesses admitted through it are still to be performed (R268): entry, first PA and
bytes of its window. -/
structure Closing where
  k : Nat
  base : Nat
  bytes : Nat
  deriving DecidableEq, Repr

/-- A polder reset between its start and its end (R271): with scrub or not, the STATE that it goes back to, and the new
PCTL of a change while EN = 1 (R266). -/
structure ResetJob where
  scrub : Bool
  rate : PState
  pctl : Option Word64
  deriving DecidableEq, Repr

/-- A voted firmware core (R243, R369): its registers, address and privilege level, what an exception saves of them, and
whether its exceptions are on. -/
structure FwCore where
  core : Core
  pc : Nat
  priv : Nat
  savedPc : Nat
  savedPriv : Nat
  exceptions : Bool
  /-- Its own memory (log 80): what differs from the free contents that it has at first, bit by bit. -/
  mem : Memory
  deriving DecidableEq, Repr

/-- A polder (chapters 08, 09, 10, 11, 13). -/
structure Polder where
  st : PState
  hbmLow : Bool
  /-- Arithmetic clock in MHz and the issue stall of R32. -/
  clock : Nat
  stalled : Bool
  pctl : Word64
  pcieWin : Vector (Word64 × Word64) 4
  regWin : Vector (Word64 × Word64) 2
  dwin : Vector (Word64 × Word64) 4
  s2root : Word64
  ctxpool : Word64
  lmi : Word64
  mchk : Nat
  dwalk : Nat
  dsched : Nat
  dcp : Nat
  rwalk : Nat
  rsched : Nat
  rcp : Nat
  rchkcnt : Nat
  slreq : Vector (Word64 × Word64) 8
  slgrant : Vector (Word64 × Word64) 8
  /-- SLREQ entries open and down, as bit sets (R265), and the windows whose close is not complete (R268). -/
  slOpen : Nat
  slDown : Nat
  closing : List Closing
  /-- A reset in progress (R271). -/
  resetJob : Option ResetJob
  /-- Writes of S2ROOT, CTXPOOL and LMI that wait until every block is at rest, oldest first (R265). -/
  ownerWrites : List (OwnerReg × Word64)
  qptab : Vector QueuePair 64
  queues : Vector HostQueue 64
  /-- Queue that holds the command processor (R236), and packets started so far. -/
  served : Nat
  nextStart : Nat
  /-- The packet in hand (R236). -/
  cpBusy : Option CpJob
  /-- Queue-pending bits (R243). -/
  qpend : Nat
  fq : FaultQueue
  sched : Memory
  gslots : Vector GraphSlot 64
  code : Vector CodeSlot 64
  coderes : Word64
  pgen : Nat
  nextTask : Nat
  tasks : SMap Task
  nextCid : Nat
  nextOrder : Nat
  nextPlaced : Nat
  clusters : List Cluster
  blocks : SMap Block
  nextCard : Nat
  cards : List Card
  nextBatch : Nat
  tlb : List TlbEntry
  adapters : List AdEntry
  /-- Lines of the adapter caches, the least recently used first (R128). -/
  adLines : List AdLine
  /-- LGC and SLOTU of each CU after repair (R73), and CUs in service. -/
  lgc : Vector Nat 12
  slotu : Vector Nat 12
  votes : Vector VoteState 3
  /-- The firmware cores of the command processor and of the scheduler (R243). -/
  fw : Vector FwCore 2
  hostate : Nat
  svn : Nat
  digest : List Byte
  pendingImage : Option (Nat × List Byte)
  chain : List Byte
  records : List (List Byte)
  deriving DecidableEq, Repr

/-- A causeway port (R23, R24). -/
structure Port where
  up : Bool
  reduced : Bool
  paused : Bool
  nextSeq : Nat
  expSeq : Nat
  ackIn : Nat
  creditQ : Nat
  creditS : Nat
  replay : List (Nat × List Byte)
  replays : Nat
  /-- Messages that wait to be sent, each as the bytes of its slots: request and response channel (R24). -/
  outReq : List (List Byte)
  outRsp : List (List Byte)
  /-- Flits on the wire to the partner. -/
  sent : List (List Byte)
  /-- Slots of a message that is not yet complete. -/
  inMsg : List (List Byte)
  deriving DecidableEq, Repr

/-- An outstanding request of this device (R25, R29). -/
structure OutReq where
  p : Nat
  tag : Nat
  who : Requester
  dom : Nat
  addr : Nat
  op : RemOp
  deriving DecidableEq, Repr

/-- A message (R25): header dwords and data slots, and the port it came in by. -/
structure CwMsg where
  port : Nat
  h0 : Word64
  h1 : Word64
  data : List (List Byte)
  deriving DecidableEq, Repr

/-- A die-link module (R277). -/
structure LinkModule where
  paused : Bool
  /-- Spare lanes used in each direction. -/
  spares0 : Nat
  spares1 : Nat
  half : Bool
  out : Bool
  deriving DecidableEq, Repr

/-- A firmware image in the alternate slot (R278, R282). -/
structure FwImage where
  svn : Nat
  body : List Byte
  key : List Byte
  sig : List Byte
  deriving DecidableEq, Repr

/-- The MSI-X vectors of a function (R19, R238): masked and pending bits of 16 entries. -/
structure Msix where
  masked : Nat
  pending : Nat
  deriving DecidableEq, Repr

/-- What the device has sent to the outside world (R238, R219, R281): messages, doorbells, replies. -/
inductive HostOut where
  | msix (fn : FnId) (vec : Nat)
  | doe (fn : FnId) (bytes : List Byte)
  | pcieRead (fn : FnId) (bytes : List Byte) (poisoned : Bool)
  | pcieUr (fn : FnId)
  | keyExhausted (fn : FnId)
  | zeroRead (target : Nat)
  | regRead (fn : FnId) (sp : RegSpace) (off : Nat) (bytes : List Byte)
  deriving DecidableEq, Repr

/-- Device-wide registers and state (chapters 01 and 11). -/
structure Device where
  domnum : Word64
  routes : SMap Nat
  ports : Vector Port 12
  outstanding : List OutReq
  nextTag : Nat
  arrivedReq : List CwMsg
  arrivedRsp : List CwMsg
  dlrth : Word64
  modules : Vector LinkModule 40
  linkUp : Bool
  pcieUp : Bool
  hoctl : Word64
  halfUp : Vector Bool 2
  stackUp : Vector Bool 8
  /-- Rate of each stack in units of 100 Mb/s per pin, and the rate at which full training leaves it (R18, R284, R285). -/
  stackRate : Vector Nat 8
  stackFinal : Vector Nat 8
  step : Nat
  boot : Nat
  /-- The boot-flash journal: boot, step, unit, result, fallback (R284). -/
  journal : List (Nat × Nat × Nat × Nat × Nat)
  keyIndex : Nat
  chain : List Byte
  records : List (List Byte)
  vfBar4 : Word64
  vfBar4Size : Word64
  vfMse : Bool
  msixPf : Msix
  msixVf : SMap Msix
  /-- PCIe ranges, first bus address and bytes, whose completers answer AtomicOps with Unsupported Request (R179). -/
  noAtomic : List (Nat × Nat)
  staged : Option FwImage
  out : List HostOut
  deriving DecidableEq, Repr

/-- The turns to come: what acts next (log 3). Device events are instructions of the table; `blockEv` gives a block's
event; `hostWrite` is the host writing its own memory; `stage` puts an image into the boot flash's alternate slot.
`regStore` is a store that the device itself has made to a register (R474), in bytes from an offset of one dword;
`hostStore` a host's write of fewer than eight bytes, and `regRead` its read, of a function's register space (R21); `noAtomic` sets the PCIe ranges that refuse AtomicOps (R179); `rest`
brings a block's instruction to rest at progress indices (R252, R253); `firmware` is a word that the firmware core of a
polder's command processor or scheduler executes (R243). -/
inductive Turn where
  | block (id : BlkId)
  | blockEv (id : BlkId) (i : Instr)
  | event (i : Instr)
  | hostWrite (addr : Nat) (bytes : List Byte)
  | stage (img : FwImage)
  | regStore (fn : FnId) (off : Nat) (bytes : List Byte)
  | hostStore (fn : FnId) (sp : RegSpace) (off : Nat) (bytes : List Byte)
  | regRead (fn : FnId) (sp : RegSpace) (off : Nat) (n : Nat)
  | noAtomic (ranges : List (Nat × Nat))
  | rest (id : BlkId) (index : List Nat)
  | firmware (p : PolderNo) (sched : Bool) (w : Word32)
  deriving DecidableEq, Repr

/-- The device, with the model's own fields: `sched` the turns to come, `rr` the round-robin pointer, `cur` the block
that acts. -/
structure State where
  sched : List Turn
  rr : Nat
  cur : Option BlkId
  hbm : Memory
  bus : Memory
  /-- Poisoned lines (R147): line number, the bytes written since as a bit set, and whether the error lies in a cached
  copy alone (R262). -/
  poison : SMap (Nat × Bool)
  polders : Vector Polder 16
  dev : Device
  deriving DecidableEq, Repr

/-! ### Reset -/

/-- Block-start values of a core (R62, R65, R67, R83). -/
def Core.init : Core where
  a := Vector.replicate 32 0
  s := Vector.replicate 32 0
  am := Vector.replicate 32 none
  sm := Vector.replicate 32 none
  preds := Vector.replicate 8 0
  recs := Vector.replicate 8 ShapeRec.default
  bindT := Vector.replicate 28 0
  bindL := Vector.replicate 4 0
  bindS := Vector.replicate 4 0
  gr := 1
  gc := 16
  shapeD := none
  fmode := 0x10
  fstat := 0
  sidx := 0
  tiles := Vector.replicate 28 Tile.dead
  lq := Vector.replicate 4 ⟨[], 0⟩
  sq := Vector.replicate 4 ⟨[], 0⟩
  aq := ⟨[], 0⟩
  eq := ⟨[], 0⟩
  feeds := Vector.replicate 4 ⟨none, none, true⟩
  wmPend := 0
  slabs := []
  copies := ⟨[], 0, false, 0⟩
  arrived := Vector.replicate 8 0

/-- A host queue after reset (R226, R227). -/
def HostQueue.init : HostQueue :=
  { qring := 0, qtail := 0, qhead := 0, qcq := 0, qcqHead := 0, qctl := 0x0000010000000000, qroot := 0,
    qslice := 4000000, cqIndex := 0, cqPhase := true, cqWaiting := [], unannounced := 0, started := [],
    waitIx := none, lastTask := 0, skip := 0, remDone := [] }

/-- A firmware core after reset: every tile a row of 512 bits (R243); the rest is a DESIGN CHOICE (log 80). -/
def FwCore.init : FwCore :=
  { core := { Core.init with tiles := Vector.replicate 28 ⟨true, false, 1, 16, [], [], []⟩ }, pc := 0, priv := 0, savedPc := 0,
    savedPriv := 0, exceptions := true, mem := [] }

/-- A polder after reset (R265, R266, R226, R240, R248, R314). Queue-pair tail, head and phase are a DESIGN CHOICE
(log 7), scheduler memory zero is another (log 5), and so is that no CU is narrowed by repair: LGC and SLOTU are 16 (log 88). -/
def Polder.init : Polder where
  st := .off
  hbmLow := false
  clock := 1800
  stalled := false
  pctl := 0
  pcieWin := Vector.replicate 4 (0, 0)
  regWin := Vector.replicate 2 (0, 0)
  dwin := Vector.replicate 4 (0, 0)
  s2root := 0
  ctxpool := 0
  lmi := 0
  mchk := 0
  dwalk := 0
  dsched := 0
  dcp := 0
  rwalk := 0
  rsched := 0
  rcp := 0
  rchkcnt := 0
  slreq := Vector.replicate 8 (0, 0)
  slgrant := Vector.replicate 8 (0, 0)
  slOpen := 0
  slDown := 0
  closing := []
  resetJob := none
  ownerWrites := []
  qptab := Vector.replicate 64 ⟨0, 0, 0, 0, 0, 0, true⟩
  queues := Vector.replicate 64 HostQueue.init
  served := 0
  nextStart := 0
  cpBusy := none
  qpend := 0
  fq := ⟨0, 0, 0, 0, true, []⟩
  sched := []
  gslots := Vector.replicate 64 ⟨0, 0, 0, none, none, 0, [], []⟩
  code := Vector.replicate 64 ⟨0, 0, 0, .free, 0, 0, [], 0⟩
  coderes := 0
  pgen := 0
  nextTask := 1
  tasks := []
  nextCid := 0
  nextOrder := 0
  nextPlaced := 0
  clusters := []
  blocks := []
  nextCard := 0
  cards := []
  nextBatch := 0
  tlb := []
  adapters := []
  adLines := []
  lgc := Vector.replicate 12 16
  slotu := Vector.replicate 12 16
  votes := Vector.replicate 3 none
  fw := Vector.replicate 2 FwCore.init
  hostate := 0
  svn := 0
  digest := List.replicate 32 0
  pendingImage := none
  chain := List.replicate 32 0
  records := []

/-- A causeway port before training (R23, R26). That sequence numbers start at 0 on both sides is a DESIGN CHOICE (log 84). -/
def Port.init : Port :=
  { up := false, reduced := false, paused := false, nextSeq := 0, expSeq := 0, ackIn := 0, creditQ := 0, creditS := 0,
    replay := [], replays := 0, outReq := [], outRsp := [], sent := [], inMsg := [] }

/-- Device state after reset (R26, R277, R280, R282, R285). -/
def Device.init : Device where
  domnum := 0
  routes := []
  ports := Vector.replicate 12 Port.init
  outstanding := []
  nextTag := 0
  arrivedReq := []
  arrivedRsp := []
  dlrth := 64
  modules := Vector.replicate 40 ⟨false, 0, 0, false, false⟩
  linkUp := false
  pcieUp := true
  hoctl := 0
  halfUp := Vector.replicate 2 false
  stackUp := Vector.replicate 8 false
  stackRate := Vector.replicate 8 0
  stackFinal := Vector.replicate 8 0
  step := 0
  boot := 0
  journal := []
  keyIndex := 0
  chain := List.replicate 32 0
  records := []
  vfBar4 := 0
  vfBar4Size := 0
  vfMse := false
  msixPf := ⟨0xFFFF, 0⟩
  msixVf := []
  noAtomic := []
  staged := none
  out := []

/-- The device right after reset: before bring-up, every register at its reset value, no memory listed, no turn given
(log 1). -/
def State.reset : State :=
  { sched := [], rr := 0, cur := none, hbm := [], bus := [], poison := [],
    polders := Vector.replicate 16 Polder.init, dev := Device.init }

end Sys2Proof.Machine
end

