-- ==== Sys2Proof/Machine/Store.lean ====
section
/-! DEFINITION. Plain data operations that every part of the machine uses: maps from numbers, bit sets, byte order, the
byte memories in their canonical form, and register files. -/

namespace Sys2Proof.Machine

/-! ### Maps and bit sets -/

/-- The value at a key. -/
def mapGet {α : Type} : SMap α → Nat → Option α
  | [], _ => none
  | (j, v) :: t, k => if j = k then some v else mapGet t k

/-- Put a value at a key, keeping the order of keys. -/
def mapPut {α : Type} (m : SMap α) (key : Nat) (val : α) : SMap α :=
  match m with
  | [] => [(key, val)]
  | e :: rest =>
    if e.1 < key then e :: mapPut rest key val
    else (key, val) :: (if e.1 = key then rest else e :: rest)

/-- Remove a key. -/
def mapDel {α : Type} (m : SMap α) (k : Nat) : SMap α := m.filter fun e => e.1 != k

/-- Put or remove. -/
def mapSet {α : Type} (m : SMap α) (k : Nat) : Option α → SMap α
  | some v => mapPut m k v
  | none => mapDel m k

/-- A number at a key, with zero for an absent one. -/
def mapNat (m : SMap Nat) (k : Nat) : Nat := (mapGet m k).getD 0

/-- Put a number, where zero is kept by absence. -/
def mapPutNat (m : SMap Nat) (k v : Nat) : SMap Nat := if v = 0 then mapDel m k else mapPut m k v

/-- Bit i of a number. -/
def bit (x i : Nat) : Bool := x.testBit i

/-- Set or clear bit i. -/
def setBit (x i : Nat) (b : Bool) : Nat :=
  if b then x ||| (1 <<< i) else if x.testBit i then x - (1 <<< i) else x

/-- Bits [hi:lo] of a number. -/
def field (x hi lo : Nat) : Nat := (x >>> lo) % 2 ^ (hi + 1 - lo)

/-- A number with bits [hi:lo] replaced. -/
def withField (x hi lo v : Nat) : Nat := x - (field x hi lo <<< lo) + ((v % 2 ^ (hi + 1 - lo)) <<< lo)

/-- Bits [hi:lo] of a 64-bit register. -/
def fld (x : Word64) (hi lo : Nat) : Nat := field x.toNat hi lo

/-- Bit i of a 64-bit register as a Bool. -/
def flag (x : Word64) (i : Nat) : Bool := x.getLsbD i

/-- A register value under a write that reaches only the bits of `mask` (R4, RW fields). -/
def maskWrite (old new mask : Word64) : Word64 := (old &&& ~~~mask) ||| (new &&& mask)

/-- The two's-complement reading of the low w bits. -/
def toInt (w x : Nat) : Int :=
  let y := x % 2 ^ w
  if w = 0 then 0 else if y.testBit (w - 1) then (y : Int) - (2 ^ w : Nat) else y

/-- An integer modulo 2^w. -/
def ofInt (w : Nat) (x : Int) : Nat := (x % ((2 ^ w : Nat) : Int)).toNat

/-- ceil(a / b). -/
def ceilDiv (total unit : Nat) : Nat := (total + unit - 1) / unit

/-- The numbers from lo on, n of them, ascending. -/
def span (first : Nat) : Nat → List Nat
  | 0 => []
  | more + 1 => first :: span (first + 1) more

/-- 0 to n − 1. -/
def upTo (n : Nat) : List Nat := span 0 n

/-- The lowest element of a list that satisfies a test. -/
def firstIx {α : Type} (p : α → Bool) : List α → Option Nat
  | [] => none
  | x :: t => if p x then some 0 else (firstIx p t).map (· + 1)

/-- A list with its first element that satisfies a test taken out. -/
def dropFirst {α : Type} (p : α → Bool) (l : List α) : List α := l.takeWhile (fun x => !p x) ++ (l.dropWhile fun x => !p x).tail

/-- Place an element in front of the first one that must stand behind it. -/
def placeBy {α : Type} (before : α → α → Bool) (new : α) (l : List α) : List α :=
  l.takeWhile (fun y => !before new y) ++ new :: l.dropWhile fun y => !before new y

/-- Update the list elements that satisfy a test. -/
def mapIf {α : Type} (p : α → Bool) (f : α → α) (l : List α) : List α := l.map fun x => if p x then f x else x

/-! ### Bytes, little-endian (R3) -/

/-- The number that bytes hold, first byte lowest. -/
def leNat : List Byte → Nat
  | [] => 0
  | b :: t => b.toNat + 256 * leNat t

/-- The first n bytes of a number. -/
def leBytes : Nat → Nat → List Byte
  | 0, _ => []
  | n + 1, v => BitVec.ofNat 8 v :: leBytes n (v / 256)

/-- A 64-bit word from bytes. -/
def leWord (bs : List Byte) : Word64 := BitVec.ofNat 64 (leNat bs)

/-! ### Byte memories -/

/-- The byte at an address; an unlisted address reads as zero (log 2). -/
def memByte : Memory → Nat → Byte
  | [], _ => 0
  | (j, v) :: t, a => if j = a then v else memByte t a

/-- Insert or replace a byte that is not zero. -/
def memPut (m : Memory) (addr : Nat) (byte : Byte) : Memory :=
  match m with
  | [] => [(addr, byte)]
  | cell :: rest =>
    if cell.1 < addr then cell :: memPut rest addr byte
    else (addr, byte) :: (if cell.1 = addr then rest else cell :: rest)

/-- Remove an address. -/
def memDel : Memory → Nat → Memory
  | [], _ => []
  | (j, v) :: t, a => if j = a then t else (j, v) :: memDel t a

/-- Write one byte, keeping the canonical form. -/
def memSetByte (m : Memory) (a : Nat) (b : Byte) : Memory := if b = 0 then memDel m a else memPut m a b

/-- n bytes from an address. -/
def memBytes (m : Memory) (a : Nat) : Nat → List Byte
  | 0 => []
  | n + 1 => memByte m a :: memBytes m (a + 1) n

/-- Write bytes from an address, ascending. -/
def memSetBytes (m : Memory) (a : Nat) : List Byte → Memory
  | [] => m
  | b :: t => memSetBytes (memSetByte m a b) (a + 1) t

/-- The little-endian number of n bytes. -/
def memNat (m : Memory) (a n : Nat) : Nat := leNat (memBytes m a n)

/-- Write the low n bytes of a number. -/
def memSetNat (m : Memory) (a n v : Nat) : Memory := memSetBytes m a (leBytes n v)

/-- Remove every address from lo up to, not including, hi. -/
def memClear (m : Memory) (lo hi : Nat) : Memory := m.filter fun e => e.1 < lo || hi ≤ e.1

/-- The canonical form: addresses strictly rising, no byte equal to zero. -/
def Memory.wf (m : Memory) : Bool :=
  match m with
  | [] => true
  | cell :: rest => cell.2 != 0 && (rest.head?.all fun next => decide (cell.1 < next.1)) && Memory.wf rest

/-! ### Vectors -/

/-- Element i of a vector, or a default beyond its end. -/
def vget {α : Type} {n : Nat} (d : α) (v : Vector α n) (i : Nat) : α := v[i]?.getD d

/-- Replace element i; beyond the end nothing changes. -/
def vset {α : Type} {n : Nat} (v : Vector α n) (i : Nat) (x : α) : Vector α n := v.setIfInBounds i x

/-- Register r of a file; register 0 reads as zero (R62). -/
def rget (v : RegFile) (r : RegNo) : Word64 := if r = 0 then 0 else v[r.toNat]'(r.isLt)

/-- Write register r; a write of register 0 is discarded (R62). -/
def rset (v : RegFile) (r : RegNo) (x : Word64) : RegFile := if r = 0 then v else v.set r.toNat x r.isLt

/-- The mark of register r. -/
def rmark (v : Vector (Option Mark) 32) (r : RegNo) : Option Mark := if r = 0 then none else v[r.toNat]'(r.isLt)

/-- Set the mark of register r. -/
def rsetMark (v : Vector (Option Mark) 32) (r : RegNo) (m : Option Mark) : Vector (Option Mark) 32 :=
  if r = 0 then v else v.set r.toNat m r.isLt

end Sys2Proof.Machine
end

