-- ==== Sys2Proof/Machine/Crypto.lean ====
section
/-! DEFINITION. The checksums of R204 and the hash of R278 and R280: CRC32C, CRC64-NVME and SHAKE256. -/

namespace Sys2Proof.Machine

/-! ### Reflected CRCs (R204) -/

/-- One bit of a reflected CRC with the reversed polynomial `p`. -/
def crcBit {w : Nat} (p x : BitVec w) : BitVec w := if x.getLsbD 0 then (x >>> 1) ^^^ p else x >>> 1

/-- One byte. -/
def crcByte {w : Nat} (p x : BitVec w) (b : Byte) : BitVec w :=
  (upTo 8).foldl (fun x _ => crcBit p x) (x ^^^ b.setWidth w)

/-- CRC32C: polynomial 0x1EDC6F41 reversed. -/
def crc32c (bs : List Byte) : Nat :=
  (~~~(bs.foldl (crcByte (0x82F63B78 : BitVec 32)) (BitVec.allOnes 32))).toNat

/-- CRC64-NVME: polynomial 0xAD93D23594C93659 reversed. -/
def crc64nvme (bs : List Byte) : Nat :=
  (~~~(bs.foldl (crcByte (0x9A6C9329AC4BC9B5 : BitVec 64)) (BitVec.allOnes 64))).toNat

/-! ### SHAKE256 -/

/-- One step of the register of eight bits behind the round constants: x^8 + x^6 + x^5 + x^4 + 1 (FIPS 202, 3.2.5). -/
def lfsrStep (r : Nat) : Nat := if 128 ≤ r then (2 * r) ^^^ 0x171 else 2 * r

/-- A round constant from the register's next seven low bits, which stand at bits 0, 1, 3, 7, 15, 31 and 63; and the register
after them. -/
def roundConst (r : Nat) : Word64 × Nat :=
  (upTo 7).foldl (fun (w, r) j => (if r % 2 = 1 then w ||| BitVec.twoPow 64 (2 ^ j - 1) else w, lfsrStep r)) (0, r)

/-- Bit-sliced sheets as a list: lane (x, y) stands at 5y + x. -/
def laneAt (a : List Word64) (x y : Nat) : Word64 := a.getD (5 * (y % 5) + x % 5) 0

/-- The places that rho and pi visit, from (1, 0) on: each lane turns by the next triangular number and moves to the place
after its own (FIPS 202, 3.2.2 and 3.2.3). -/
def rhoWalk : Nat → Nat → Nat → Nat → List (Nat × Nat)
  | 0, _, _, _ => []
  | n + 1, t, x, y => (5 * y + x, t * (t + 1) / 2 % 64) :: rhoWalk n (t + 1) y ((2 * x + 3 * y) % 5)

/-- Rho and pi: the lane at each place of the walk goes, turned, to the next place; lane (0, 0) stays. -/
def rhoPi (a : List Word64) : List Word64 :=
  let w := rhoWalk 25 1 1 0
  (w.zip (w.drop 1)).foldl (fun out e => out.set e.2.1 ((a.getD e.1.1 0).rotateLeft e.1.2)) a

/-- Theta, rho, pi, chi and iota, with the register of the constants. -/
def keccakStep (st : List Word64 × Nat) : List Word64 × Nat :=
  let parity (x : Nat) : Word64 := (upTo 5).foldl (fun p y => p ^^^ laneAt st.1 x y) 0
  let mixed := (upTo 25).map fun i => laneAt st.1 i (i / 5) ^^^ parity (i + 4) ^^^ (parity (i + 1)).rotateLeft 1
  let moved := rhoPi mixed
  let chi := (upTo 25).map fun i => laneAt moved i (i / 5) ^^^ (laneAt moved (i + 2) (i / 5) &&& ~~~(laneAt moved (i + 1) (i / 5)))
  let (k, r) := roundConst st.2
  (chi.modify 0 (· ^^^ k), r)

/-- Keccak-f[1600]: 24 rounds. -/
def keccakF (a : List Word64) : List Word64 := ((upTo 24).foldl (fun st _ => keccakStep st) (a, 1)).1

/-- XOR a block of 136 bytes into a state and permute. -/
def absorb (a : List Word64) (blk : List Byte) : List Word64 :=
  keccakF ((upTo 25).map fun i =>
    a.getD i 0 ^^^ (if i < 17 then leWord ((blk.drop (8 * i)).take 8) else 0))

/-- Absorb whole blocks. -/
def absorbAll : Nat → List Word64 → List Byte → List Word64
  | 0, a, _ => a
  | n + 1, a, m => absorbAll n (absorb a (m.take 136)) (m.drop 136)

/-- The padding of SHAKE: bits 1111, then 10*1. -/
def shakePad (m : List Byte) : List Byte :=
  let k := 136 - m.length % 136
  if k = 1 then m ++ [0x9F] else m ++ 0x1F :: List.replicate (k - 2) 0 ++ [0x80]

/-- SHAKE256 with 256 bits of output. -/
def shake256 (m : List Byte) : List Byte :=
  let p := shakePad m
  let a := absorbAll (p.length / 136) (List.replicate 25 0) p
  (a.take 4).flatMap fun w => leBytes 8 w.toNat

end Sys2Proof.Machine
end

