-- ==== Sys2Proof/Machine/Base.lean ====
section
/-! DEFINITION. Reading and updating the state: polders, blocks, clusters, tasks, partitions, and the bytes of the PCIe bus. -/

namespace Sys2Proof.Machine

/-- The outcome of a step. -/
abbrev Out := Host.Outcome State Fault Refusal

/-! ### Reading and updating -/

/-- Polder p. -/
def getPolder (s : State) (p : Nat) : Polder := vget Polder.init s.polders p

/-- Replace polder p. -/
def setPolder (s : State) (p : Nat) (x : Polder) : State := { s with polders := vset s.polders p x }

/-- Update polder p. -/
def updPolder (s : State) (p : Nat) (f : Polder → Polder) : State := setPolder s p (f (getPolder s p))

/-- Update the device registers. -/
def updDev (s : State) (f : Device → Device) : State := { s with dev := f s.dev }

/-- Bytes at a PCIe bus address; free values once the interface has failed (R273, log 71). -/
def busRead (s : State) (a n : Nat) : List Byte :=
  if s.dev.pcieUp then memBytes s.bus a n else (span a n).map Config.lostByte

/-- A write to a PCIe bus address; it is lost once the interface has failed (R273, log 71). -/
def busWrite (s : State) (a : Nat) (bs : List Byte) : State := if s.dev.pcieUp then { s with bus := memSetBytes s.bus a bs } else s

/-- A block. -/
def getBlock (s : State) (id : BlkId) : Option Block := mapGet (getPolder s id.p).blocks id.ctx

/-- Replace a block. -/
def setBlock (s : State) (id : BlkId) (b : Block) : State :=
  updPolder s id.p fun x => { x with blocks := mapPut x.blocks id.ctx b }

/-- Update a block, if it exists. -/
def updBlock (s : State) (id : BlkId) (f : Block → Block) : State :=
  match getBlock s id with
  | some b => setBlock s id (f b)
  | none => s

/-- The block that acts, for the meaning of a block instruction (R43). -/
def withBlock (s : State) (k : BlkId → Block → Out) : Out :=
  match s.cur with
  | none => .fault .noBlock
  | some id => match getBlock s id with
    | none => .fault .noBlock
    | some b => k id b

/-- The cluster of a block. -/
def clusterOf (s : State) (p cid : Nat) : Option Cluster := (getPolder s p).clusters.find? fun c => c.cid == cid

/-- Update a cluster. -/
def updCluster (s : State) (p cid : Nat) (f : Cluster → Cluster) : State :=
  updPolder s p fun x => { x with clusters := mapIf (fun c => c.cid == cid) f x.clusters }

/-- A task by its creating polder and number. -/
def getTask (s : State) (c h : Nat) : Option Task := mapGet (getPolder s c).tasks h

/-- Update a task. -/
def updTask (s : State) (c h : Nat) (f : Task → Task) : State :=
  updPolder s c fun x => match mapGet x.tasks h with
    | some t => { x with tasks := mapPut x.tasks h (f t) }
    | none => x

/-- The task of a block, with its creating polder. -/
def taskOf (s : State) (id : BlkId) (b : Block) : Option (Nat × Task) :=
  match clusterOf s id.p b.cid with
  | some c => (getTask s c.creator c.handle).map fun t => (c.creator, t)
  | none => none

/-- Enabled partition of a polder: FIRST and SIZE of PCTL (R264, R266), or none while EN = 0. -/
def partition (s : State) (p : Nat) : Option (Nat × Nat) :=
  let x := (getPolder s p).pctl
  if flag x 63 then some (fld x 19 16, fld x 12 8) else none

/-- Two polders of one partition (R264). -/
def samePartition (s : State) (p t : Nat) : Bool :=
  match partition s p with
  | some (f, n) => decide (f ≤ t) && decide (t < f + n) && partition s t == some (f, n)
  | none => p == t

/-- The polders of a partition. -/
def partitionPolders (s : State) (p : Nat) : List Nat :=
  match partition s p with
  | some (f, n) => span f n
  | none => [p]

/-- A polder that gives no access: resetting, dead, off or not yet released (R267, R269). -/
def polderDown (s : State) (p : Nat) : Bool :=
  match (getPolder s p).st with
  | .reduced | .full => false
  | _ => true

end Sys2Proof.Machine
end

