-- ==== Sys2Proof/Machine/Gates.lean ====
section
/-! DEFINITION. The physical map and the dike gates with their windows and sluices (R140 to R142, R267 to R269), and the
marks of memory lines (R147). -/

namespace Sys2Proof.Machine

/-- First VA of the shared-store aperture (R139). -/
def shBase : Nat := 0x007FFFFFFFFC0000
/-- Bytes of one polder's HBM (R140). -/
def polderBytes : Nat := 0x0000000800000000
/-- First PA of the PCIe range (R140). -/
def pcieBase : Nat := 0x0004000000000000

/-! ### The physical map -/

/-- Where a PA leads (R140, R474). -/
inductive PhysTarget where
  | hbm (pa : Nat)
  | bus (addr : Nat)
  | reg (fn : FnId) (off : Nat)
  | remote (dom : Nat) (addr : Nat)
  | nowhere
  deriving DecidableEq, Repr

/-- A PA and the domain number of the device decide the target (R140, R141, R474). -/
def physTarget (s : State) (pa : Nat) : PhysTarget :=
  if pa < 0x8000000000 then .hbm pa
  else if 0x10000000000 ≤ pa ∧ pa < 0x10000400000 then .reg .pf0 (pa - 0x10000000000)
  else if 0x10001000000 ≤ pa ∧ pa < 0x10001800000 then
    .reg (.vf (BitVec.ofNat 7 ((pa - 0x10001000000) / 65536))) ((pa - 0x10001000000) % 65536)
  else if pcieBase ≤ pa ∧ pa < 0x0008000000000000 then .bus (pa - pcieBase)
  else if 0x0008000000000000 ≤ pa ∧ pa < 0x000C000000000000 then
    let dom := field pa 49 39
    let addr := pa % 2 ^ 39
    if flag s.dev.domnum 63 ∧ fld s.dev.domnum 10 0 = dom then .hbm addr else .remote dom addr
  else .nowhere

/-- The PA at which an access is performed here: a window access that names the device's own domain number is served at the
HBM byte itself (R141), so that both names of a byte are one place. -/
def homePa (s : State) (pa : Nat) : Nat :=
  match physTarget s pa with
  | .hbm a => a
  | _ => pa

/-- A sluice entry's window, first byte and length in bytes (R267). -/
def slWindow (e : Word64 × Word64) : Nat × Nat := (fld e.1 51 16 <<< 16, fld e.2 31 0 <<< 16)

/-- A grant names reader r and the window of request e (R268). -/
def grantFor (r : Nat) (e g : Word64 × Word64) : Bool :=
  flag g.1 63 && fld g.1 3 0 == r && fld g.1 51 16 == fld e.1 51 16 && fld g.2 31 0 == fld e.2 31 0

/-- The grant of polder t that matches request e of polder r (R268). -/
def matchingGrant (s : State) (r t : Nat) (e : Word64 × Word64) : Option (Nat × (Word64 × Word64)) :=
  ((upTo 8).zip (getPolder s t).slgrant.toList).find? fun g => grantFor r e g.2

/-- The requests of a polder with their numbers. -/
def requests (x : Polder) : List (Nat × (Word64 × Word64)) := (upTo 8).zip x.slreq.toList

/-- A window of PCIEWIN or REGWIN admits an address (R266). -/
def winAdmits (w : Word64 × Word64) (a : Nat) : Bool :=
  flag w.2 0 && decide (fld w.1 63 16 ≤ a / 65536) && decide (a / 65536 ≤ fld w.2 63 16)

/-- A sluice entry covers a PA. -/
def slCovers (e : Word64 × Word64) (pa : Nat) : Bool :=
  let (b, n) := slWindow e
  decide (b ≤ pa) && decide (pa < b + n)

/-- The explicit sluices of polder p that cover a PA: open or down, with leave to write (R268, R269). -/
def sluicesAt (s : State) (p pa : Nat) : List (Bool × Bool) :=
  let x := getPolder s p
  ((upTo 8).zip x.slreq.toList).filterMap fun (k, e) =>
    if flag e.1 63 && slCovers e pa && (bit x.slOpen k || bit x.slDown k) then
      let t := fld e.1 3 0
      let wr := flag e.1 62 && (match matchingGrant s p t e with
        | some g => flag g.2.1 62
        | none => true)
      some (bit x.slDown k || polderDown s t, wr)
    else none

/-- A PA that translation once admitted lies behind a sluice that has gone down since, and in no open one (R269, R270). -/
def lostSluice (s : State) (p pa : Nat) : Bool :=
  let x := getPolder s p
  let t := pa / polderBytes
  let at_ (bits : Nat) : Bool := (requests x).any fun e => bit bits e.1 && slCovers e.2 pa
  decide (t < 16) && t != p && (polderDown s t || (!samePartition s p t && at_ x.slDown && !at_ x.slOpen))

/-- The dike gates (R142): what a PA of polder p's access meets. -/
def gate (s : State) (p pa : Nat) (wr : Bool) : Except Cause Unit :=
  let x := getPolder s p
  if 0x0008000000000000 ≤ pa ∧ pa < 0x000C000000000000 then
    if flag x.pctl 4 then .ok () else .error .perm
  else match physTarget s pa with
  | .hbm a =>
    let t := a / polderBytes
    if t = p then .ok ()
    else if samePartition s p t then (if polderDown s t then .error .sluiceDown else .ok ())
    else
      let l := (sluicesAt s p a).filter fun e => e.2 || !wr
      if l.isEmpty then .error .perm else if l.all Prod.fst then .error .sluiceDown else .ok ()
  | .bus a => if x.pcieWin.toList.any (winAdmits · a) then .ok () else .error .perm
  | .reg _ _ => if x.regWin.toList.any (winAdmits · pa) then .ok () else .error .perm
  | .remote _ _ | .nowhere => .error .perm

/-! ### Poison of memory lines (R147) -/

/-- A line is marked. -/
def linePoisoned (s : State) (line : Nat) : Bool := (mapGet s.poison line).isSome

/-- Mark a line: none of its bytes has been written since. -/
def poisonLine (s : State) (line : Nat) : State := { s with poison := mapPut s.poison line (0, false) }

/-- Bytes of HBM have been written: count them towards clearing their lines' marks. -/
def unpoison (pz : SMap (Nat × Bool)) (a : Nat) : Nat → SMap (Nat × Bool)
  | 0 => pz
  | n + 1 =>
    let pz' := match mapGet pz (a / 128) with
      | some (bits, cached) =>
        let bits' := setBit bits (a % 128) true
        if bits' = 2 ^ 128 - 1 then mapDel pz (a / 128) else mapPut pz (a / 128) (bits', cached)
      | none => pz
    unpoison pz' (a + 1) n

/-- Write bytes of device HBM at their home. Marked data poison the lines they reach (R260). -/
def hbmWrite (s : State) (a : Nat) (bs : List Byte) (marked : Bool) : State :=
  let s := { s with hbm := memSetBytes s.hbm a bs, poison := unpoison s.poison a bs.length }
  if marked ∧ bs ≠ [] then
    (span (a / 128) ((a + bs.length - 1) / 128 + 1 - a / 128)).foldl poisonLine s
  else s

/-- The first poisoned line among n bytes of HBM. -/
def poisonIn (s : State) (a n : Nat) : Option Nat :=
  if n = 0 then none
  else (span (a / 128) ((a + n - 1) / 128 + 1 - a / 128)).find? (linePoisoned s)

end Sys2Proof.Machine
end

