-- ==== Sys2Proof/Machine/Ops.lean ====
section
/-! DEFINITION. The named operations over the state that all meanings share: finishing, holding and trapping an
instruction; strip rewind; saving a cluster; ending a task; context headers and fault records. -/

namespace Sys2Proof.Machine

/-! ### Trap data -/

/-- Cause codes (R244). -/
def causeCode : Cause → Nat
  | .illegalInstr => 0x01 | .priv => 0x02 | .misalign => 0x03 | .xlate => 0x04 | .perm => 0x05 | .deadRead => 0x06
  | .convoyConflict => 0x07 | .shapeMismatch => 0x08 | .queueDeadlock => 0x09 | .poison => 0x0A | .fpEnabled => 0x0B
  | .suspect => 0x0C | .engineFault => 0x0D | .adapterFault => 0x0F | .sluiceDown => 0x10 | .brk => 0x11
  | .syscall => 0x12 | .storageError => 0x13 | .recheckMismatch => 0x14 | .uncorrectable => 0x15 | .shapeInvalid => 0x16

/-- The strip is rewindable: nothing has made it otherwise, and no checkpointed tile was overwritten for want of room (R76,
R171). -/
def Block.canRewind (b : Block) : Bool := b.rewindable && !b.core.copies.lost

/-- Resume points (R244). `rw` says whether the strip is rewindable, or was rewound by the mismatch. -/
def resumeOf (c : Cause) (rw : Bool) : Resume :=
  match c with
  | .xlate | .perm | .fpEnabled | .suspect | .adapterFault | .sluiceDown => .at
  | .engineFault | .brk | .syscall | .storageError => .after
  | .poison | .recheckMismatch => if rw then .strip else .none
  | _ => .none

/-- Codes of RESUME in a fault record (R249). -/
def resumeCode : Resume → Nat
  | .at => 0 | .after => 1 | .strip => 2 | .none => 3

/-- The cause of lower rank number is reported (R245). -/
def causeRank : Cause → Nat
  | .misalign => 1 | .xlate => 2 | .perm => 3 | .sluiceDown => 4 | .poison => 5 | .uncorrectable => 6 | .deadRead => 7
  | .adapterFault => 8 | .fpEnabled => 9 | .suspect => 10 | _ => 0

/-- TCOORD of an element (R85). -/
def coordOf (opnd row col lin : Nat) : Word64 :=
  BitVec.ofNat 64 (((lin % 2 ^ 24) <<< 40) + ((col % 2 ^ 16) <<< 24) + ((row % 256) <<< 16) + ((opnd % 32) <<< 11) + 1)

/-- A trap that names no element (R85). -/
def plainTrap (c : Cause) (half : Bool) (addr : Nat) : TrapInfo := ⟨c, half, false, 0, BitVec.ofNat 64 addr⟩

/-- A trap that names an element. -/
def elemTrap (c : Cause) (half more : Bool) (coord : Word64) (addr : Nat) : TrapInfo :=
  ⟨c, half, more, coord, BitVec.ofNat 64 addr⟩

/-- TCAUSE (R85). -/
def tcauseOf (t : TrapInfo) : Word64 :=
  BitVec.ofNat 64 (causeCode t.cause + (if t.more then 0x100 else 0) + (if t.half then 0x200 else 0))

/-- Two marks of one source (R261): the PA of the line, or the storage location. -/
def sameSource : Mark → Mark → Bool
  | .line a _, .line b _ => a == b
  | .chip u i, .chip v j => u == v && i == j
  | _, _ => false

/-! ### Ending an instruction -/

/-- Nothing is awaited by the instruction at pc any more, and it has begun nothing. `stored` outlives this, since a drain that
a down sluice has stopped goes on when the block resumes (R270). -/
def Block.quiet (b : Block) : Block :=
  { b with waiting := false, holding := false, room := false, stuck := false, need := [], look := 0, remDone := [], begun := false,
           devDone := 0, taken := [], ahead := none }

/-- The instruction completes and control goes to an address. -/
def goTo (s : State) (id : BlkId) (b : Block) (pc : Nat) : Out :=
  let b' := { b.quiet with pc := pc, prog := b.prog.drop 1, stored := false, convoy := b.convoy - 1,
                            openW := if b.convoy = 0 then [] else b.openW, skipC := false }
  .next (setBlock s id b')

/-- The instruction completes and the next one in order follows. -/
def finish (s : State) (id : BlkId) (b : Block) : Out := goTo s id b (b.pc + 4)

/-- The instruction cannot go on yet: nothing but the wait is recorded (R42). -/
def holdOn (s : State) (id : BlkId) (b : Block) : Out := .next (setBlock s id { b with waiting := true })

/-- The instruction waits for elements of load queues (R46): which, and how many it needs there. -/
def holdNeed (s : State) (id : BlkId) (b : Block) (need : List (Nat × Nat)) : Out :=
  .next (setBlock s id { b with waiting := true, need := need })

/-! ### Context headers (R255) -/

/-- The first byte of a context. -/
def ctxAddr (s : State) (id : BlkId) : Nat := (fld (getPolder s id.p).ctxpool 51 16 <<< 16) + id.ctx * 0x500000

/-- STATE of a context header. -/
def ctxState : BlkStatus → Nat
  | .resident => 0 | .preempted => 1 | .suspended => 2 | .ended => 3 | .halted => 3 | .waiting => 1

/-- USED: the 4 KiB units of its context that a block uses (R255). -/
def ctxUnits (id : BlkId) (b : Block) : Nat := (Config.ctxUsed id.p id.ctx b.stripId.toNat).val + 1

/-- The polder reaches its context: it lies in HBM whose every page the dike gates admit (R255, R267); its own polder's HBM
is always admitted. -/
def ctxReached (s : State) (id : BlkId) : Bool :=
  let a := ctxAddr s id
  decide (a + 0x500000 ≤ 0x8000000000) && ((a / polderBytes == id.p && (a + 0x4FFFFF) / polderBytes == id.p)
    || (upTo 80).all fun k => match gate s id.p (a + 65536 * k) true with
      | .ok _ => true
      | .error _ => false)

/-- Write the header of a block's context (R255), where the gates admit it. -/
def writeHeader (s : State) (id : BlkId) (b : Block) : State :=
  let a := ctxAddr s id
  let h := match clusterOf s id.p b.cid with
    | some c => c.handle
    | none => 0
  let d0 := (id.p <<< 48) + h % 2 ^ 48
  let d1 := ((if b.canRewind then 1 else 0) <<< 34) + (ctxState b.status <<< 32) + b.blkid % 2 ^ 32
  if ctxReached s id then
    hbmWrite s a (leBytes 8 d0 ++ leBytes 8 d1 ++ leBytes 8 b.stripId.toNat ++ leBytes 8 (ctxUnits id b)) false
  else s

/-- A line lies in a context's bytes in use. -/
def ctxLine (a units line : Nat) : Bool := decide (a ≤ line * 128) && decide (line * 128 < a + units * 4096)

/-- All the bytes in use of a context are written, which clears old marks of their lines (R147, R255). -/
def clearContext (s : State) (id : BlkId) (b : Block) : State :=
  if ctxReached s id then { s with poison := s.poison.filter fun e => !ctxLine (ctxAddr s id) (ctxUnits id b) e.1 } else s

/-- Save a block into its context (R255). -/
def writeContext (s : State) (id : BlkId) (b : Block) : State := writeHeader (clearContext s id b) id b

/-! ### Pre-emption (R252 to R254) -/

/-- Saved tiles are restored clean, the checkpoint's too (R79, R254). -/
def cleanTiles (c : Core) : Core := { c with tiles := c.tiles.map fun t => { t with dirty := false } }

/-- An instruction goes no further: what it has done joins the core (R250, R253). -/
def Progress.apply (x : Progress) (c : Core) : Core :=
  { c with tiles := x.tiles.foldl (fun v t => vset v t.1 t.2) c.tiles,
           preds := x.preds.foldl (fun v t => vset v t.1 t.2) c.preds,
           lq := x.pops.foldl (fun v t => vset v t.1 { (vget ⟨[], 0⟩ v t.1) with elems := (vget ⟨[], 0⟩ v t.1).elems.drop t.2 }) c.lq,
           sq := x.pushes.foldl (fun v t => vset v t.1 { (vget ⟨[], 0⟩ v t.1) with elems := (vget ⟨[], 0⟩ v t.1).elems ++ t.2 }) c.sq }

/-- An instruction that has only counted. -/
def Progress.count (n : Nat) : Progress := ⟨n, [], [], [], []⟩

/-- Adapter rows that are not in tacc are given up, and the lines that they hold (R131, R329). -/
def dropRows (b : Block) : Block :=
  { b with mmadRows := 0, adTry := none, adHeld := [],
           mmad := b.mmad.map fun m => { m with rows := 0, bad := 0, gain := [], fin := [], faults := [], held := [], part := [] } }

/-- The union of flags kept by row. -/
def allFlags (l : SMap Nat) : Nat := l.foldl (fun f e => f ||| e.2) 0

/-- The lowest row that an MMA or MMAD has still to do (R131). -/
def MmadProg.lowest (m : MmadProg) : Nat := (((upTo 256).find? fun r => bit m.todo r && !bit m.done r).getD 0)

/-- An MMA or MMAD comes to rest (R131): its finished rows are in tacc, the deferred ones are abandoned. Rows with a cause of
their own are not in tacc and are done again, so that the trap comes as in an uninterrupted run (R109, R397). -/
def restMmad (b : Block) : Block :=
  match b.mmad with
  | none => dropRows b
  | some m =>
    if m.rows = 0 then dropRows b
    else
      let m' := { m with done := m.done ||| (m.rows &&& (2 ^ 256 - 1 - m.bad)), flags := m.gain.foldl (fun l e => mapPut l e.1 e.2) m.flags }
      let c := { b.core with tiles := m.part.foldl (fun v t => vset v t.1 t.2) b.core.tiles, copies := m.copies }
      dropRows { b with core := c, mmad := some m', prog := [Progress.count m'.lowest] }

/-- A block stops and is saved. Every queued rerun completes (R252). A WFE that holds ends here (R467); an STQ that waits has
not issued; an MMAD comes to rest by R131. An instruction that has begun accesses goes on in the block's slot until it
completes, and only then is the block at rest and leaves the slot (R252). Tiles are restored clean (R79). -/
def saveBlock (st : BlkStatus) (b : Block) : Block :=
  let pc := if b.holding then b.pc + 4 else b.pc
  let b1 := if b.begun then b else (restMmad b).quiet
  { b1 with status := st, place := if b.begun then b.place else none, pc := pc, recheck := [], core := cleanTiles b1.core,
            ckpt := cleanTiles b.ckpt, prog := b1.prog.map fun x => { x with tiles := x.tiles.map fun t => (t.1, { t.2 with dirty := false }) } }

/-- A block has asked, itself or for its other half or a feed. -/
def Requester.isOf (w : Requester) (id : BlkId) : Bool :=
  match w with
  | .block p c | .ahead p c _ | .feed p c _ => p == id.p && c == id.ctx
  | .gone _ | .card _ _ | .packet _ _ => false

/-- Answers to what a block has asked for will find nobody: it has stopped waiting for them. -/
def disown (s : State) (id : BlkId) : State :=
  updDev s fun d => { d with outstanding := mapIf (fun o : OutReq => o.who.isOf id) (fun o => { o with who := .gone o.p }) d.outstanding }

/-- A block is put into its context (R255): with nothing begun, it waits for no answer any more. -/
def putSaved (s : State) (id : BlkId) (b : Block) : State :=
  let s1 := writeContext (setBlock s id b) id b
  if b.begun then s1 else disown s1 id

/-- Pre-empt and save every resident block of a cluster (R40, R252); halted members keep their state. -/
def saveCluster (s : State) (p cid : Nat) : State :=
  match clusterOf s p cid with
  | none => s
  | some c =>
    let s := c.ctxs.foldl (fun s x => match getBlock s ⟨p, x⟩ with
      | some b => if b.status == .resident then putSaved s ⟨p, x⟩ (saveBlock .preempted b) else s
      | none => s) s
    updCluster s p cid fun c => { c with resident := false }

/-- A block of an ended task is over: its uncommitted stores are discarded and its slot is free (R251). -/
def endBlock (s : State) (id : BlkId) (b : Block) : State :=
  let b' := { b.quiet with status := .ended, place := none, sbuf := [], msgs := [] }
  disown (writeHeader (setBlock s id b') id b') id

/-- The block's task has ended without completing. -/
def taskOver (s : State) (id : BlkId) (b : Block) : Bool :=
  match taskOf s id b with
  | some (_, t) => t.ended.isSome
  | none => false

/-- A block that has been stopped and has completed what it had begun is at rest: it leaves its slot (R252), and is over where
its task has ended (R251). -/
def comeToRest (s : State) (id : BlkId) : State :=
  match getBlock s id with
  | none => s
  | some b =>
    if b.begun then s
    else match b.status with
    | .preempted => if taskOver s id b then endBlock s id b
        else if b.place.isSome then putSaved s id (saveBlock .preempted b) else s
    | .suspended => if taskOver s id b then endBlock s id b else s
    | .resident | .waiting | .halted | .ended => s

/-! ### The end of a task (R251) -/

/-- Stop every block of a task in one polder, as under pre-emption: one that has begun accesses, such as the commit of a SHAPE,
completes its instruction first (R252, R412); uncommitted stores are discarded, slots are freed, clusters leave. -/
def stopTaskIn (creator handle : Nat) (s : State) (p : Nat) : State :=
  (getPolder s p).clusters.foldl (fun s c =>
    if c.creator == creator && c.handle == handle then
      let s := c.ctxs.foldl (fun s x => match getBlock s ⟨p, x⟩ with
        | some b => if b.status == .halted then s
            else if b.begun then setBlock s ⟨p, x⟩ (saveBlock .preempted b)
            else endBlock s ⟨p, x⟩ b
        | none => s) s
      updCluster s p c.cid fun c => { c with resident := false, suspended := false }
    else s) s

/-- A task ends without completing (R251). Its handle is then that of a completed task (R235). -/
def endTask (s : State) (creator handle : Nat) (tcause : Word64) : State :=
  match getTask s creator handle with
  | none => s
  | some t =>
    if t.ended.isSome then s
    else
      let d := t.faulted.getD tcause
      let s := updTask s creator handle fun t => { t with ended := some d }
      (upTo 16).foldl (stopTaskIn creator handle) s

/-! ### Taking a trap (R247) -/

/-- The fault record of R249, phase bit clear. -/
def faultRecord (s : State) (id : BlkId) (b : Block) (r : Resume) : List Word64 :=
  let (h, q) := match taskOf s id b with
    | some (_, t) => (t.handle, t.queue)
    | none => (0, 0)
  let (cu, slot) := b.place.getD (0, 0)
  let w (n : Nat) : Word64 := BitVec.ofNat 64 n
  [ w ((id.p <<< 48) + h % 2 ^ 48),
    w ((resumeCode r <<< 53) + ((if b.canRewind then 1 else 0) <<< 52) + ((q % 64) <<< 46) + ((slot % 4) <<< 44)
        + ((cu % 16) <<< 40) + b.blkid % 2 ^ 32),
    b.tcause, b.tcoord, b.taddr, b.fltpc,
    w (((id.ctx % 2 ^ 32) <<< 32) + b.progix.toNat % 2 ^ 32),
    w (b.stripId.toNat % 2 ^ 32) ]

/-- A record takes its place at the end of the polder's waiting records (R248). -/
def queueFault (s : State) (p : Nat) (rec : List Word64) : State :=
  updPolder s p fun x => { x with fq := { x.fq with waiting := x.fq.waiting ++ [rec] } }

/-- The elements that the other half has pushed ahead of program order and nobody has popped are discarded (R49). -/
def TQueue.unborrow (q : TQueue) : TQueue :=
  let k := Nat.min q.debt q.elems.length
  ⟨q.elems.take (q.elems.length - k), q.debt - k⟩

/-- The same for a scalar queue. -/
def SQueue.unborrow (q : SQueue) : SQueue :=
  let k := Nat.min q.debt q.entries.length
  ⟨q.entries.take (q.entries.length - k), q.debt - k⟩

/-- The same for every queue of a core. -/
def Core.unborrow (c : Core) : Core :=
  { c with lq := c.lq.map TQueue.unborrow, sq := c.sq.map TQueue.unborrow, aq := c.aq.unborrow, eq := c.eq.unborrow }

/-- TAKING A TRAP, the one operation of every exception (R247): the trap registers are written (R246), the cluster is
pre-empted and saved, the block is suspended, a fault record is queued, and a trap that allows no continuation ends the
task (R251). In this model every earlier instruction has completed and no later one has taken effect. -/
def takeTrapAs (s : State) (id : BlkId) (b : Block) (t : TrapInfo) (progix : Nat) (r : Resume) : State :=
  let b0 := (dropRows b).quiet
  let b1 := { b0 with tcause := tcauseOf t, tcoord := t.coord, taddr := t.addr, fltpc := BitVec.ofNat 64 b.pc,
                      progix := BitVec.ofNat 64 progix, resume := r, recheck := [], prog := b.prog.take 1,
                      core := b.core.unborrow }
  let rec' := faultRecord s id b1 r
  let s1 := saveCluster (setBlock s id b1) id.p b.cid
  let s2 := updBlock s1 id (saveBlock .suspended)
  let s3 := match getBlock s2 id with
    | some b2 => putSaved s2 id b2
    | none => s2
  let s4 := queueFault (updCluster s3 id.p b.cid fun c => { c with suspended := true }) id.p rec'
  match clusterOf s4 id.p b.cid with
  | none => s4
  | some c =>
    let s5 := updTask s4 c.creator c.handle fun k =>
      { k with faulted := some (k.faulted.getD (tcauseOf t)) }
    if r == .none then endTask s5 c.creator c.handle (tcauseOf t) else s5

/-- The progress index of the instruction at pc (R246, R253). -/
def Block.progress (b : Block) : Nat :=
  match b.prog with
  | x :: _ => x.index
  | [] => 0

/-- Take a trap with the resume point of its cause. -/
def takeTrap (s : State) (id : BlkId) (b : Block) (t : TrapInfo) : State :=
  takeTrapAs s id b t b.progress (resumeOf t.cause b.canRewind)

/-- The meaning of a trapping instruction: the next state has taken the trap. -/
def raise (s : State) (id : BlkId) (b : Block) (t : TrapInfo) : Out := .next (takeTrap s id b t)

/-- Raise a cause that names no element, with TADDR. -/
def raiseAt (s : State) (id : BlkId) (b : Block) (c : Cause) (half : Bool) (addr : Nat) : Out :=
  raise s id b (plainTrap c half addr)

/-- TCAUSE.HALF at an instruction that both halves own: a free value (log 20). -/
def jointSide (b : Block) : Bool := Config.jointHalf b.pc

/-! ### Marks and rewind (R260 to R263) -/

/-- A consumption of this source rewinds the strip (R261). -/
def rewindOk (b : Block) (m : Mark) : Bool :=
  b.canRewind && !(b.consumed.any (sameSource m)) && decide (b.rewinds < 4)

/-- The checkpoint is restored, undrained stores are discarded, and the strip starts again (R262). -/
def restoreBlock (b : Block) : Block :=
  { b.quiet with core := b.ckpt, pc := b.ckptPc, recheck := [], prog := [], sbuf := [], stored := false, convoy := 0,
                 openW := [], skipC := false, mmad := none, mmadRows := 0, adTry := none, feedDone := [], runsAhead := false }

/-- The steps of R262 on the block: every mark that the instruction has consumed is remembered (R261). -/
def rewindBlock (b : Block) (ms : List Mark) : Block :=
  { restoreBlock b with consumed := b.consumed ++ ms, rewinds := b.rewinds + 1 }

/-- The trap of R263 for a mark, at an element or none. -/
def markTrap (m : Mark) (half : Bool) (coord : Word64) : TrapInfo :=
  match m with
  | .line _ va => ⟨.poison, half, false, coord, BitVec.ofNat 64 va⟩
  | .chip _ _ => ⟨.uncorrectable, half, false, coord, 0⟩

/-- The consumed line is dropped from L2 and L3: a mark that lay in a cached copy alone is gone (R262). -/
def dropLine (s : State) (m : Mark) : State :=
  match m with
  | .line pa _ => match mapGet s.poison (pa / 128) with
    | some (_, true) => { s with poison := mapDel s.poison (pa / 128) }
    | _ => s
  | .chip _ _ => s

/-- A rewind (R262): the line of every mark that was consumed is dropped. -/
def rewindTo (s : State) (id : BlkId) (b : Block) (ms : List Mark) : State :=
  disown (setBlock (ms.foldl dropLine s) id (rewindBlock b ms)) id

/-- Marks are consumed by one instruction: the first of them is the reported one (R245). The strip rewinds, or POISON or
UNCORRECTABLE is raised (R261 to R263). -/
def consumeMarks (s : State) (id : BlkId) (b : Block) (m : Mark) (ms : List Mark) (half : Bool) (coord : Word64) : Out :=
  if rewindOk b m then .next (rewindTo s id b (m :: ms))
  else raise s id b (markTrap m half coord)

/-- One mark is consumed. -/
def consumeMark (s : State) (id : BlkId) (b : Block) (m : Mark) (half : Bool) (coord : Word64) : Out :=
  consumeMarks s id b m [] half coord

/-- Go on unless scalar operands carry marks (R260): all of them are consumed at once. -/
def unlessMarked (s : State) (id : BlkId) (b : Block) (half : Bool) (ms : List (Option Mark)) (k : Out) : Out :=
  match ms.filterMap (fun m => m) with
  | m :: l => consumeMarks s id b m l half 0
  | [] => k

/-- The strip becomes non-rewindable (R171). -/
def nonRewindable (b : Block) : Block := { b with rewindable := false }

/-! ### Registers of a block -/

/-- Reg(side, n) of R340: side true is the a-file. -/
def regGet (c : Core) (side : Bool) (r : RegNo) : Word64 := if side then rget c.a r else rget c.s r

/-- SetReg(side, n, v), which also clears the register's mark. -/
def regSet (c : Core) (side : Bool) (r : RegNo) (x : Word64) : Core :=
  if side then { c with a := rset c.a r x, am := rsetMark c.am r none }
  else { c with s := rset c.s r x, sm := rsetMark c.sm r none }

/-- Give a register a mark with its value (R260). -/
def regSetMarked (c : Core) (side : Bool) (r : RegNo) (x : Word64) (m : Option Mark) : Core :=
  if side then { c with a := rset c.a r x, am := rsetMark c.am r m }
  else { c with s := rset c.s r x, sm := rsetMark c.sm r m }

/-- The mark of a register. -/
def regMark (c : Core) (side : Bool) (r : RegNo) : Option Mark := if side then rmark c.am r else rmark c.sm r

/-- An instruction is forbidden in a user-interrupt handler (R221). -/
def inHandler (b : Block) : Bool := flag b.uistat 2

/-- ILLEGAL_INSTR in a handler, or go on (R221). -/
def notInHandler (s : State) (id : BlkId) (b : Block) (half : Bool) (k : Out) : Out :=
  if inHandler b then raiseAt s id b .illegalInstr half 0 else k

end Sys2Proof.Machine
end

