-- ==== Sys2Proof/Machine/Regs.lean ====
section
/-! DEFINITION. Reading the device registers through a function's BAR0 (R21): host queues, graph slots, fault queue,
owner map, code slots, management blocks, hand-over, die link, bring-up and causeways. -/

namespace Sys2Proof.Machine

/-- The function that owns the polder-wide registers of polder p. -/
def vfPolder (v : Nat) : Nat := v / 8

/-- PINFO (R265). -/
def pinfo (s : State) (p : Nat) : Word64 :=
  let (f, n) := (partition s p).getD (p, 1)
  let other := if p % 2 = 0 then p + 1 else p - 1
  let shr := (partition s other).isSome && partition s other != partition s p
  BitVec.ofNat 64 ((if shr then 1 <<< 20 else 0) + (f <<< 16) + (n <<< 8) + p)

/-- PSTAT.STATE codes (R266). -/
def pstateCode : PState → Nat
  | .off => 0 | .bringingUp => 1 | .reduced => 2 | .full => 3 | .resetting => 4 | .dead => 5

/-- PSTAT (R266). -/
def pstat (x : Polder) : Word64 := BitVec.ofNat 64 (pstateCode x.st + if x.hbmLow then 0x100 else 0)

/-- FQSTAT (R248): suspended contexts that await resolution, and records that wait. -/
def fqstat (x : Polder) : Word64 :=
  let n := (x.blocks.filter fun e => e.2.status == .suspended && e.2.resume != .none).length
  BitVec.ofNat 64 (n % 65536 + (x.fq.waiting.length % 65536) * 65536)

/-- VOTEDIS and VOTERES (R276). -/
def votedis (x : Polder) : Word64 :=
  BitVec.ofNat 64 ((x.mchk <<< 48) + (x.dwalk <<< 32) + (x.dsched <<< 16) + x.dcp)
/-- VOTERES in VOTEDIS order. -/
def voteres (x : Polder) : Word64 := BitVec.ofNat 64 ((x.rwalk <<< 32) + (x.rsched <<< 16) + x.rcp)

/-- Grant g of polder t serves an open sluice. -/
def grantOpen (s : State) (t : Nat) (g : Word64 × Word64) : Bool :=
  let r := fld g.1 3 0
  let x := getPolder s r
  (requests x).any fun e => bit x.slOpen e.1 && fld e.2.1 3 0 == t && grantFor r e.2 g

/-- SLSTAT (R265). -/
def slstat (s : State) (p : Nat) : Word64 :=
  let x := getPolder s p
  let g := ((upTo 8).zip x.slgrant.toList).foldl (fun (n : Nat) e => setBit n e.1 (grantOpen s p e.2)) 0
  BitVec.ofNat 64 (x.slOpen + (x.slDown <<< 8) + (g <<< 16))

/-- STATE codes of CODETAB (R314). -/
def slotCode : SlotState → Nat
  | .free => 0 | .loaded => 1 | .unloading => 2

/-- The dwords of CODETAB entry e (R314). -/
def codetab (x : Polder) (e : Nat) (hi : Bool) : Word64 :=
  let c := vget ⟨0, 0, 0, .free, 0, 0, [], 0⟩ x.code e
  if hi then BitVec.ofNat 64 ((c.gen <<< 48) + (c.ugen <<< 32) + slotCode c.st) else BitVec.ofNat 64 c.va

/-- One of the two dwords of a pair. -/
def pairGet (x : Word64 × Word64) (hi : Bool) : Word64 := if hi then x.2 else x.1

/-- A host-queue register (R226). -/
def readQueue (q : HostQueue) : Nat → Word64
  | 0x00 => q.qring | 0x08 => q.qtail | 0x10 => q.qhead | 0x18 => q.qcq | 0x20 => q.qcqHead | 0x28 => q.qctl
  | 0x30 => q.qroot | 0x38 => q.qslice | _ => 0

/-- Bits of a queue-pair table dword that are not reserved (R217). -/
def qpMask : Nat → Word64
  | 0 => 0x000FFFFFFFFFFFFF
  | 1 => 0x000FFFFFFFFFFF01
  | _ => 0xFFFFFFFFFFFFFFFF

/-- A dword of a queue-pair table entry (R217) as it was written: its reserved bits count for EN (log 72). -/
def qpWord (q : QueuePair) : Nat → Word64
  | 0 => q.w0 | 1 => q.w1 | 2 => q.sqdb | _ => q.cqdb

/-- The registers that function 8p alone shows (R21): graph slots, fault queue, owner map, code slots, QPTAB. -/
def readOwner (s : State) (p off : Nat) : Word64 :=
  let x := getPolder s p
  if 0x2000 ≤ off ∧ off < 0x2800 then
    let g := vget ⟨0, 0, 0, none, none, 0, [], []⟩ x.gslots ((off - 0x2000) / 0x20)
    match off % 0x20 with
    | 0x00 => g.gdesc | 0x08 => g.ctaddr | 0x10 => g.ctval | _ => 0
  else if 0x4100 ≤ off ∧ off < 0x4180 then
    pairGet (vget (0, 0) x.slreq ((off - 0x4100) / 16)) (off % 16 == 8)
  else if 0x4200 ≤ off ∧ off < 0x4280 then
    pairGet (vget (0, 0) x.slgrant ((off - 0x4200) / 16)) (off % 16 == 8)
  else if 0x4800 ≤ off ∧ off < 0x4C00 then codetab x ((off - 0x4800) / 16) (off % 16 == 8)
  else if 0x5000 ≤ off ∧ off < 0x5800 then
    qpWord (vget ⟨0, 0, 0, 0, 0, 0, true⟩ x.qptab ((off - 0x5000) / 32)) ((off % 32) / 8) &&& qpMask ((off % 32) / 8)
  else match off with
    | 0x3000 => x.fq.fqring | 0x3008 => x.fq.fqhead | 0x3010 => x.fq.fqctl | 0x3020 => fqstat x
    | 0x4000 => pinfo s p | 0x4008 => x.s2root | 0x4010 => x.ctxpool | 0x4018 => x.lmi
    | 0x4020 => votedis x | 0x4028 => voteres x | 0x4030 => BitVec.ofNat 64 x.rchkcnt
    | 0x4300 => slstat s p | 0x4408 => x.coderes | 0x4410 => BitVec.ofNat 64 x.pgen
    | _ => 0

/-- HOSTAT (R282). -/
def hostat (s : State) : Word64 :=
  BitVec.ofNat 64 ((upTo 16).foldl (fun a p => a + ((getPolder s p).hostate <<< (4 * p))) 0)

/-- DLSTAT (R277). -/
def dlstat (d : Device) : Word64 :=
  let out := (d.modules.toList.filter fun m => m.out).length
  let half := (d.modules.toList.zip (upTo 40)).foldl (fun a e => a + if e.1.half then 1 <<< e.2 else 0) 0
  BitVec.ofNat 64 ((out <<< 40) + half)

/-- CWSTAT (R26). -/
def cwstat (d : Device) : Word64 :=
  BitVec.ofNat 64 ((d.ports.toList.zip (upTo 12)).foldl
    (fun a e => a + (if e.1.up then 1 <<< e.2 else 0) + (if e.1.reduced then 1 <<< (16 + e.2) else 0)) 0)

/-- BRSTAT (R285). -/
def brstat (d : Device) : Word64 := BitVec.ofNat 64 (d.step + (d.boot <<< 32))

/-- Four ROUTE registers of 16 bits from register d on (R26). -/
def routes4 (d : Device) (n : Nat) : Word64 :=
  BitVec.ofNat 64 (mapNat d.routes n + (mapNat d.routes (n + 1) <<< 16) + (mapNat d.routes (n + 2) <<< 32)
    + (mapNat d.routes (n + 3) <<< 48))

/-- A polder management block (R266). -/
def readMgmt (x : Polder) (o : Nat) : Word64 :=
  if 0x20 ≤ o ∧ o < 0x60 then pairGet (vget (0, 0) x.pcieWin ((o - 0x20) / 16)) (o % 16 == 8)
  else if 0x60 ≤ o ∧ o < 0x80 then pairGet (vget (0, 0) x.regWin ((o - 0x60) / 16)) (o % 16 == 8)
  else if 0x80 ≤ o ∧ o < 0xC0 then pairGet (vget (0, 0) x.dwin ((o - 0x80) / 16)) (o % 16 == 8)
  else match o with
    | 0x00 => x.pctl | 0x10 => pstat x | _ => 0

/-- Physical function 0's BAR0 (R21). -/
def readPf (s : State) (off : Nat) : Word64 :=
  if 0x100000 ≤ off ∧ off < 0x110000 then readMgmt (getPolder s ((off - 0x100000) / 0x1000)) (off % 0x1000)
  else if 0x211000 ≤ off ∧ off < 0x212000 then routes4 s.dev ((off - 0x211000) / 2)
  else match off with
    | 0x200000 => s.dev.hoctl | 0x200008 => hostat s | 0x200010 => s.dev.dlrth | 0x200018 => dlstat s.dev
    | 0x200020 => brstat s.dev | 0x210000 => s.dev.domnum | 0x210008 => cwstat s.dev
    | _ => 0

/-- A virtual function's BAR0 (R21). -/
def readVf (s : State) (v off : Nat) : Word64 :=
  if 0x1000 ≤ off ∧ off < 0x1200 then
    readQueue (vget HostQueue.init (getPolder s (vfPolder v)).queues (8 * (v % 8) + (off - 0x1000) / 0x40)) (off % 0x40)
  else if v % 8 = 0 then readOwner s (vfPolder v) off
  else 0

/-- The 64-bit register at an offset that is a multiple of 8. -/
def readReg (s : State) (fn : FnId) (off : Nat) : Word64 :=
  match fn with
  | .pf0 => readPf s off
  | .vf v => readVf s v.toNat off

/-- A function's configuration, at the offsets of `writeConfig` (log 8). -/
def readConfig (s : State) (fn : FnId) (off : Nat) : Word64 :=
  let m := match fn with
    | .pf0 => s.dev.msixPf
    | .vf v => (mapGet s.dev.msixVf v.toNat).getD ⟨0xFFFF, 0⟩
  if 0x100 ≤ off ∧ off < 0x200 ∧ off % 16 = 0 then (if bit m.masked ((off - 0x100) / 16) then 1 else 0)
  else match fn, off with
    | .pf0, 0x00 => s.dev.vfBar4
    | .pf0, 0x08 => s.dev.vfBar4Size
    | .pf0, 0x10 => if s.dev.vfMse then 1 else 0
    | _, _ => 0

/-- Bytes of BAR0, each from the register that holds it. -/
def readRegBytes (s : State) (fn : FnId) (off n : Nat) : List Byte :=
  (span off n).map fun o => BitVec.ofNat 8 (field (readReg s fn (o - o % 8)).toNat (8 * (o % 8) + 7) (8 * (o % 8)))

/-- Bytes of a register space that a host reads (R21). -/
def readSpace (s : State) (fn : FnId) (sp : RegSpace) (off n : Nat) : List Byte :=
  match sp, fn with
  | .bar0, _ => readRegBytes s fn off n
  | .bar2, .vf v => memBytes (getPolder s (vfPolder v.toNat)).sched off n
  | .bar2, .pf0 => List.replicate n 0
  | .config, _ => (span off n).map fun o => BitVec.ofNat 8 (field (readConfig s fn (o - o % 8)).toNat (8 * (o % 8) + 7) (8 * (o % 8)))

end Sys2Proof.Machine
end

