-- ==== Sys2Proof/Machine/Xlate.lean ====
section
/-! DEFINITION. Physical reads and writes with poison (R147), the two stages of translation (R148 to R151) and the TLB
slices (R153). -/

namespace Sys2Proof.Machine

/-! ### Physical reads and writes -/

/-- A request that must cross the causeways before an access can complete (R29). -/
abbrev RemNeed := Nat × Nat × RemOp

/-- What a physical read or atomic gives: bytes with a poison flag, a failure, or a wait for the causeways. -/
inductive PhysRes where
  | ok (bytes : List Byte) (poisoned : Bool)
  | fail (c : Cause)
  | need (r : RemNeed)
  deriving DecidableEq, Repr

/-- The cause of a remote outcome (R29). -/
def remCause (status : Nat) : Cause := if status = 1 then .perm else .sluiceDown

/-- A result that has come back for a request. -/
def remFind (rs : List RemResult) (dom addr : Nat) (op : RemOp) : Option RemResult :=
  rs.find? fun r => r.dom == dom && r.addr == addr && decide (r.op = op)

/-- A remote operation: use its result, or ask for it. While DOMNUM.V = 0 it fails as UNREACHABLE (R26). -/
def remDo (s : State) (rs : List RemResult) (dom addr : Nat) (op : RemOp) : PhysRes :=
  if flag s.dev.domnum 63 then
    match remFind rs dom addr op with
    | some r => if r.status = 0 then .ok r.data false else if r.status = 2 then .ok r.data true
        else .fail (remCause r.status)
    | none => .need (dom, addr, op)
  else .fail .sluiceDown

/-- Read n bytes at a PA that translation has admitted. -/
def physRead (s : State) (rs : List RemResult) (pa n : Nat) : PhysRes :=
  match physTarget s pa with
  | .hbm a => if polderDown s (a / polderBytes) then .fail .sluiceDown
      else .ok (memBytes s.hbm a n) (poisonIn s a n).isSome
  | .bus a => .ok (busRead s a n) false
  | .reg fn off => .ok (readRegBytes s fn off n) false
  | .remote dom a => remDo s rs dom a (.read n)
  | .nowhere => .fail .perm

/-- Stores to registers that this step has made are still to be performed (R474). -/
def regStoresDue (s : State) : Bool := s.sched.head?.any fun t => match t with
  | .regStore _ _ _ => true
  | _ => false

/-- A PA is a device register. -/
def isRegister (s : State) (pa : Nat) : Bool :=
  match physTarget s pa with
  | .reg _ _ => true
  | _ => false

/-- The turns that a store to registers gives (R474): one for each aligned dword that its bytes reach. -/
def regWriteTurns (fn : FnId) (off : Nat) (bs : List Byte) : List Turn :=
  (span (off / 8) ((off + bs.length + 7) / 8 - off / 8)).map fun w =>
    let a := Nat.max off (8 * w)
    .regStore fn a ((bs.drop (a - off)).take (8 * (w + 1) - a))

/-- A store to a register of this device. -/
def Turn.isRegStore : Turn → Bool
  | .regStore _ _ _ => true
  | _ => false

/-- Stores to registers come before every other turn, each after the ones made before it. -/
def addRegStores (sched new : List Turn) : List Turn :=
  sched.takeWhile Turn.isRegStore ++ new ++ sched.dropWhile Turn.isRegStore

/-- What a physical write gives. -/
inductive WriteRes where
  | ok (s : State)
  | fail (c : Cause)
  | need (r : RemNeed)
  deriving DecidableEq, Repr

/-- Write bytes at a PA that translation has admitted. -/
def physWrite (s : State) (rs : List RemResult) (pa : Nat) (bs : List Byte) (marked : Bool) : WriteRes :=
  match physTarget s pa with
  | .hbm a => if polderDown s (a / polderBytes) then .fail .sluiceDown else .ok (hbmWrite s a bs marked)
  | .bus a => .ok (busWrite s a bs)
  | .reg fn off => .ok { s with sched := addRegStores s.sched (regWriteTurns fn off bs) }
  | .remote dom a => match remDo s rs dom a (.write bs) with
    | .ok _ _ => .ok s
    | .fail c => .fail c
    | .need r => .need r
  | .nowhere => .fail .perm

/-! ### Translation -/

/-- The permissions an access needs (R150). -/
structure Need where
  rd : Bool
  wr : Bool
  x : Bool
  deriving DecidableEq, Repr

/-- Load, store, atomic and fetch (R150). -/
def needRd : Need := ⟨true, false, false⟩
/-- Store. -/
def needWr : Need := ⟨false, true, false⟩
/-- Atomic. -/
def needRw : Need := ⟨true, true, false⟩
/-- Instruction fetch. -/
def needX : Need := ⟨false, false, true⟩

/-- An intermediate result of a walk: output address, permissions, memory type, log2 of the size mapped. -/
structure Xl where
  pa : Nat
  rd : Bool
  wr : Bool
  x : Bool
  mt : Nat
  log : Nat
  deriving DecidableEq, Repr

/-- One 8-byte descriptor read of the walker, from HBM that the gates admit (R150). -/
def readDesc (s : State) (p pa : Nat) : Except Cause Nat :=
  if pa < 0x8000000000 then
    match gate s p pa false with
    | .ok _ => .ok (memNat s.hbm pa 8)
    | .error _ => .error .perm
  else .error .perm

/-- The checks of R149 on a descriptor at a level; `true` when it points to a table. -/
def checkDesc (d level : Nat) : Except Cause Bool :=
  if !bit d 0 then .error .xlate
  else if field d 55 52 ≠ 0 ∨ field d 15 9 ≠ 0 ∨ bit d 5 then .error .xlate
  else if level < 2 ∧ bit d 8 then .error .xlate
  else if level = 1 then
    if bit d 1 then .ok true
    else if field d 28 16 ≠ 0 ∨ field d 7 6 = 3 then .error .xlate else .ok false
  else if !bit d 1 then .error .xlate
  else if level = 0 then .ok true
  else if field d 7 6 = 3 then .error .xlate else .ok false

/-- A leaf descriptor applied to an address. -/
def leaf (d log va : Nat) : Xl :=
  { pa := (field d 51 16 <<< 16) + va % 2 ^ log, rd := bit d 2, wr := bit d 3, x := bit d 4, mt := field d 7 6, log := log }

/-- Index of a level (R148). -/
def levelIx (va : Nat) : Nat → Nat
  | 0 => field va 54 42
  | 1 => field va 41 29
  | _ => field va 28 16

/-- A walk over three levels; `rd` reads the descriptor at an address of the stage. -/
def walkFrom (rd : Nat → Except Cause Nat) (va : Nat) : Nat → Nat → Nat → Except Cause (Nat × Nat × Nat)
  | 0, _, _ => .error .xlate
  | fuel + 1, level, table => do
    let a := table + 8 * levelIx va level
    let d ← rd a
    let more ← checkDesc d level
    if more then walkFrom rd va fuel (level + 1) (field d 51 16 <<< 16)
    else pure (d, level, a)

/-- The group of 32 descriptors behind a contiguous hint forms one 2 MiB translation (R151). -/
def groupOk (rd : Nat → Except Cause Nat) (a d : Nat) : Bool :=
  let base := a - a % 256
  let first := (field d 51 16) - (a % 256) / 8
  decide ((a % 256) / 8 ≤ field d 51 16) && decide (first % 32 = 0) && (upTo 32).all fun i => match rd (base + 8 * i) with
    | .ok e => e == withField d 51 16 (first + i)
    | .error _ => false

/-- The translation that a finished walk gives. -/
def walkResult (rd : Nat → Except Cause Nat) (va : Nat) (r : Nat × Nat × Nat) : Xl :=
  let (d, level, a) := r
  if level = 1 then leaf d 29 va
  else if bit d 8 ∧ groupOk rd a d then { leaf d 16 va with log := 21 }
  else leaf d 16 va

/-- Stage 2 (R148): off while S2ROOT names no root. -/
def stage2 (s : State) (p ipa : Nat) : Except Cause Xl :=
  let root := fld (getPolder s p).s2root 51 16 <<< 16
  if root = 0 then .ok ⟨ipa, true, true, true, 0, 52⟩
  else do
    let rd := readDesc s p
    let r ← walkFrom rd ipa 3 0 root
    pure (walkResult rd ipa r)

/-- A stage-1 descriptor read: the table address is an IPA, and its stage-2 page needs RD (R150). -/
def readDesc1 (s : State) (p ipa : Nat) : Except Cause Nat := do
  let x ← stage2 s p ipa
  if x.rd then readDesc s p x.pa else .error .perm

/-- The stronger memory type (R144). -/
def strongerMt (a b : Nat) : Nat := if a = 2 ∨ b = 2 then 2 else if a = 1 ∨ b = 1 then 1 else 0

/-- A full walk of both stages for a VA below 2^55. -/
def walk (s : State) (p root va : Nat) : Except Cause Xl := do
  let rd := readDesc1 s p
  let r ← walkFrom rd va 3 0 root
  let x1 := walkResult rd va r
  let x2 ← stage2 s p x1.pa
  pure ⟨x2.pa, x1.rd && x2.rd, x1.wr && x2.wr, x1.x && x2.x, strongerMt x1.mt x2.mt, Nat.min x1.log x2.log⟩

/-- Who accesses memory: polder, stage-1 root, the CU whose TLB serves it (none for engines and the command processor),
and the causeway results at hand. -/
structure Acc where
  p : Nat
  root : Nat
  cu : Option Nat
  rem : List RemResult
  deriving DecidableEq, Repr

/-- TLB slice of a VA (R153). -/
def tlbSlice (va : Nat) : Nat := field va 19 16 ^^^ field va 23 20 ^^^ field va 27 24

/-- A TLB entry that translates a VA. -/
def tlbHit (s : State) (c : Acc) (va : Nat) : Option TlbEntry :=
  match c.cu with
  | none => none
  | some cu => (getPolder s c.p).tlb.find? fun e =>
      e.cu == cu && e.slice == tlbSlice va && e.root == c.root && decide (e.va ≤ va) && decide (va < e.va + 2 ^ e.log)

/-- Translate a VA (R148 to R154): by the TLB slice of its page, or by a walk. The aperture and everything above it is
unmapped here (R138, R139): the access half takes the aperture out before it comes here. -/
def xlateVa (s : State) (c : Acc) (va : Nat) : Except Cause Xl :=
  if shBase ≤ va then .error .xlate
  else match tlbHit s c va with
    | some e => .ok ⟨e.pa + (va - e.va), e.rd, e.wr, e.x, e.mt, e.log⟩
    | none => walk s c.p c.root va

/-- The permission part of the probe (R150). -/
def permits (n : Need) (x : Xl) : Bool := (!n.rd || x.rd) && (!n.wr || x.wr) && (!n.x || x.x)

/-- The probe of one address outside the aperture (R158): translation, permission, gates; then the place itself (R141). -/
def probe (s : State) (c : Acc) (n : Need) (va : Nat) : Except Cause Xl :=
  match xlateVa s c va with
  | .error e => .error e
  | .ok x =>
    if permits n x then
      match gate s c.p x.pa n.wr with
      | .ok _ => .ok { x with pa := homePa s x.pa }
      | .error e => .error e
    else .error .perm

/-- Keep the last n elements of those that satisfy a test: a slice of 128 entries, oldest out (log 10). -/
def trimSlice (cu sl : Nat) (t : List TlbEntry) : List TlbEntry :=
  if (t.filter fun e => e.cu == cu && e.slice == sl).length > 128 then
    match firstIx (fun e : TlbEntry => e.cu == cu && e.slice == sl) t with
    | some i => t.eraseIdx i
    | none => t
  else t

/-- Fill the TLB slice of a VA after a successful walk (R153). -/
def tlbFill (s : State) (c : Acc) (va : Nat) : State :=
  match c.cu with
  | none => s
  | some cu =>
    if shBase ≤ va then s
    else match tlbHit s c va, walk s c.p c.root va with
      | none, .ok x =>
        let log := x.log
        let e : TlbEntry := ⟨cu, tlbSlice va, c.root, va - va % 2 ^ log, log, x.pa - va % 2 ^ log, x.rd, x.wr, x.x, x.mt⟩
        updPolder s c.p fun y => { y with tlb := trimSlice cu (tlbSlice va) (y.tlb ++ [e]) }
      | _, _ => s

/-- Fill for many addresses; pages seen once are enough. -/
def tlbFillAll (s : State) (c : Acc) (vas : List Nat) : State := vas.foldl (fun s va => tlbFill s c va) s

/-- PA runs of a VA interval, one for each page it touches (R205): VA, PA and length; none where a page does not
translate. -/
def paRuns (s : State) (c : Acc) : Nat → Nat → Nat → List PaRun
  | 0, _, _ => []
  | fuel + 1, va, n =>
    if n = 0 then []
    else
      let k := Nat.min n (65536 - va % 65536)
      match xlateVa s c va with
      | .ok x => ⟨va, homePa s x.pa, k⟩ :: paRuns s c fuel (va + k) (n - k)
      | .error _ => paRuns s c fuel (va + k) (n - k)

/-- Pages that an interval touches, as fuel for walks over it. -/
def pageCount (va n : Nat) : Nat := (va % 65536 + n) / 65536 + 1

end Sys2Proof.Machine
end

