-- ==== Sys2Proof/Machine/Causeway.lean ====
section
/-! DEFINITION. The sending side of the causeways (R23 to R29): messages, routing, flits, and the requests of this
device's requesters. -/

namespace Sys2Proof.Machine

/-! ### Messages (R25) -/

/-- First header dword. -/
def cwHead0 (addr ddom sdom : Nat) : Nat := ((addr % 2 ^ 39) <<< 25) + ((ddom % 2048) <<< 14) + ((sdom % 2048) <<< 3)

/-- Second header dword. -/
def cwHead1 (tag spol opc status afn : Nat) (asz : Bool) (lenm1 : Nat) : Nat :=
  ((tag % 65536) <<< 48) + ((spol % 16) <<< 44) + ((opc % 16) <<< 40) + ((status % 16) <<< 36) + ((afn % 16) <<< 32)
    + (if asz then 1 <<< 31 else 0) + ((lenm1 % 128) <<< 16)

/-- Pad bytes to whole 16-byte slots. -/
def padSlots (bs : List Byte) : List Byte := bs ++ List.replicate ((16 - bs.length % 16) % 16) 0

/-- The bytes of a request message. -/
def requestBytes (s : State) (p tag dom addr : Nat) (op : RemOp) : List Byte :=
  let h0 := cwHead0 addr dom (fld s.dev.domnum 10 0)
  let (h1, data) := match op with
    | .read n => (cwHead1 tag p 0x1 0 0 false (n - 1), [])
    | .write bs => (cwHead1 tag p 0x2 0 0 false (bs.length - 1), bs)
    | .atomic fn dbl v c => (cwHead1 tag p 0x3 0 fn dbl 0, leBytes 8 v ++ leBytes 8 (if fn = 10 then c else 0))
  leBytes 8 h0 ++ leBytes 8 h1 ++ padSlots data

/-! ### Flits (R23, R24) -/

/-- A flit: sequence number, ACK, type, credits returned, slots. -/
def flitBytes (seq ack ftype crq crs : Nat) (slots : List Byte) : List Byte :=
  let d := ((seq % 4096) <<< 52) + ((ack % 4096) <<< 40) + ((ftype % 16) <<< 36) + ((crq % 256) <<< 28) + ((crs % 256) <<< 20)
  let body := leBytes 8 d ++ (slots ++ List.replicate (240 - slots.length) 0)
  body ++ leBytes 8 (crc64nvme body)

/-- The latest sequence number sent, or taken from the partner, before the next one; 4,095 where there is none yet, which is
a DESIGN CHOICE (log 84). -/
def lastSeq (n : Nat) : Nat := (n + 4095) % 4096

/-- Take whole messages for one flit, within its slots and the channel's credits. -/
def takeMsgs : Nat → Nat → List (List Byte) → List Byte × List (List Byte)
  | _, _, [] => ([], [])
  | room, credit, m :: t =>
    let k := m.length / 16
    if k ≤ room ∧ k ≤ credit then
      let (bs, rest) := takeMsgs (room - k) (credit - k) t
      (m ++ bs, rest)
    else ([], m :: t)

/-- Send one message flit, if something can be sent (R24). Responses go first. -/
def sendFlit (x : Port) : Option Port :=
  if !x.up || x.paused || decide (512 ≤ x.replay.length) then none
  else
    let (r, rsp) := takeMsgs 15 x.creditS x.outRsp
    let (q, req) := takeMsgs (15 - r.length / 16) x.creditQ x.outReq
    if r.isEmpty && q.isEmpty then none
    else
      let f := flitBytes x.nextSeq (lastSeq x.expSeq) 1 0 0 (r ++ q)
      some { x with outRsp := rsp, outReq := req, creditS := x.creditS - r.length / 16,
                    creditQ := x.creditQ - q.length / 16, nextSeq := (x.nextSeq + 1) % 4096,
                    replay := x.replay ++ [(x.nextSeq, f)], sent := x.sent ++ [f] }

/-- Send all that can be sent. -/
def pump : Nat → Port → Port
  | 0, x => x
  | n + 1, x => match sendFlit x with
    | some y => pump n y
    | none => x

/-- Pump a port until it has nothing it can send. -/
def pumpPort (x : Port) : Port := pump (x.outReq.length + x.outRsp.length) x

/-- Traffic passes between two halves: they are one, or the die link joins them (R9). -/
def halvesJoined (d : Device) (h k : Nat) : Bool := h == k || d.linkUp

/-- The half of a port: six on each (R8). -/
def portHalf (n : Nat) : Nat := n / 6

/-- The port that carries a half's messages for a domain (R9, R26): the one that ROUTE names, if it is up and the half reaches
it. -/
def routePort (d : Device) (half dom : Nat) : Option Nat :=
  let r := mapNat d.routes dom
  if bit r 15 ∧ r % 16 < 12 ∧ (vget Port.init d.ports (r % 16)).up ∧ halvesJoined d half (portHalf (r % 16)) then some (r % 16)
  else none

/-- Put a message on a port's channel. -/
def enqueue (d : Device) (n : Nat) (isReq : Bool) (m : List Byte) : Device :=
  let x := vget Port.init d.ports n
  let x := if isReq then { x with outReq := x.outReq ++ [m] } else { x with outRsp := x.outRsp ++ [m] }
  { d with ports := vset d.ports n (pumpPort x) }

/-! ### Requests of this device (R28, R29) -/

/-- A result reaches its requester. -/
def deliverResult (s : State) (who : Requester) (r : RemResult) : State :=
  match who with
  | .block p ctx => updBlock s ⟨p, ctx⟩ fun b => { b with remDone := b.remDone ++ [r], waiting := false }
  | .ahead p ctx k => updBlock s ⟨p, ctx⟩ fun b => { b with ahead := b.ahead.map (· ++ [(k, r)]), waiting := false }
  | .feed p ctx k => updBlock s ⟨p, ctx⟩ fun b => { b with feedDone := b.feedDone ++ [(k, r)] }
  | .gone _ => s
  | .card p n => updPolder s p fun x =>
      { x with cards := mapIf (fun c => c.num == n) (fun c => { c with rem := c.rem ++ [r] }) x.cards }
  | .packet p q => updPolder s p fun x =>
      let h := vget HostQueue.init x.queues q
      { x with queues := vset x.queues q { h with remDone := h.remDone ++ [r] } }

/-- The polder of a requester. -/
def requesterPolder : Requester → Nat
  | .block p _ | .ahead p _ _ | .feed p _ _ | .gone p | .card p _ | .packet p _ => p

/-- A tag that no outstanding request of a polder has (R25), from n on. -/
def freeTag (l : List OutReq) (p : Nat) : Nat → Nat → Nat
  | 0, n => n % 65536
  | k + 1, n => if l.any fun o => o.p == p && o.tag == n % 65536 then freeTag l p k (n + 1) else n % 65536

/-- A request is sent, or answered as UNREACHABLE where there is no route or no domain number (R26). -/
def sendRequest (s : State) (who : Requester) (need : RemNeed) : State :=
  let (dom, addr, op) := need
  let p := requesterPolder who
  match (if flag s.dev.domnum 63 then routePort s.dev (p / 8) dom else none) with
  | none => deliverResult s who ⟨dom, addr, op, 4, []⟩
  | some n =>
    let tag := freeTag s.dev.outstanding p s.dev.outstanding.length s.dev.nextTag
    let m := requestBytes s p tag dom addr op
    let d := { s.dev with nextTag := (tag + 1) % 65536, outstanding := s.dev.outstanding ++ [⟨p, tag, who, dom, addr, op⟩] }
    { s with dev := enqueue d n true m }

/-- Send those of the needed requests that are not outstanding yet. -/
def askFrom : List OutReq → List RemNeed → Requester → State → State
  | _, [], _, s => s
  | av, n :: t, who, s =>
    let same (o : OutReq) : Bool := decide (o.who = who) && o.dom == n.1 && o.addr == n.2.1 && decide (o.op = n.2.2)
    if av.any same then askFrom (dropFirst same av) t who s
    else askFrom av t who (sendRequest s who n)

/-- Ask for the needed requests. -/
def askAll (s : State) (who : Requester) (needs : List RemNeed) : State := askFrom s.dev.outstanding needs who s

/-- Match needs with results that have come back, each result once; the needs that lack one. -/
def settle : List RemResult → List RemNeed → List (Option RemResult) × List RemNeed
  | _, [] => ([], [])
  | rs, n :: t =>
    let same (r : RemResult) : Bool := r.dom == n.1 && r.addr == n.2.1 && decide (r.op = n.2.2)
    match rs.find? same with
    | some r =>
      let (l, miss) := settle (dropFirst same rs) t
      (some r :: l, miss)
    | none =>
      let (l, miss) := settle rs t
      (none :: l, n :: miss)

end Sys2Proof.Machine
end

