-- ==== Sys2Proof/Machine/Flags.lean ====
section
/-! DEFINITION. Number formats, rounding and flags (R86 to R109): every floating result is formed exactly on integers and
rounded once by `roundTo`. -/

namespace Sys2Proof.Machine

/-! ### Flags (R84, R106), as bits of FSTAT -/

def fNV : Nat := 1
def fDZ : Nat := 2
def fOF : Nat := 4
def fUF : Nat := 8
def fNX : Nat := 16
def fSAT : Nat := 32
def fSUS : Nat := 64

/-! ### Formats (R88) -/

/-- A floating format. `top` is the largest finite magnitude as mantissa and exponent of two; `ieee` says that the top
exponent holds infinities and NaNs; `narrow` marks the 8- and 4-bit formats, which FZ never reaches (R94). -/
structure Fmt where
  width : Nat
  mbits : Nat
  bias : Nat
  topM : Nat
  topE : Int
  ieee : Bool
  narrow : Bool
  canon : Nat
  deriving DecidableEq, Repr

def fmtF64 : Fmt := ⟨64, 52, 1023, 2 ^ 53 - 1, 971, true, false, 0x7FF8000000000000⟩
def fmtF32 : Fmt := ⟨32, 23, 127, 2 ^ 24 - 1, 104, true, false, 0x7FC00000⟩
def fmtF16 : Fmt := ⟨16, 10, 15, 2 ^ 11 - 1, 5, true, false, 0x7E00⟩
def fmtBf16 : Fmt := ⟨16, 7, 127, 2 ^ 8 - 1, 120, true, false, 0x7FC0⟩
def fmtE4m3 : Fmt := ⟨8, 3, 7, 14, 5, false, true, 0x7F⟩
def fmtE5m2 : Fmt := ⟨8, 2, 15, 7, 13, true, true, 0x7E⟩
def fmtE2m1 : Fmt := ⟨4, 1, 1, 3, 1, false, true, 0⟩

/-- A value read from its encoding: NaN (signalling or not), infinity, or ± m × 2^e. -/
inductive FVal where
  | nan (sig : Bool)
  | inf (neg : Bool)
  | fin (neg : Bool) (m : Nat) (e : Int)
  deriving DecidableEq, Repr

/-- The largest exponent field of a format. -/
def Fmt.emax (f : Fmt) : Nat := 2 ^ (f.width - 1 - f.mbits) - 1

/-- Exponent of the least subnormal. -/
def Fmt.lsb (f : Fmt) : Int := 1 - (f.bias : Int) - f.mbits

/-- e4m3 has NaN at all ones only; e2m1 has none (R88). -/
def Fmt.isNaN (f : Fmt) (x : Nat) : Bool :=
  if f.ieee then field x (f.width - 2) f.mbits == f.emax && x % 2 ^ f.mbits != 0
  else f.width == 8 && x % 128 == 127

/-- Read an encoding. With `fz` a subnormal operand of a wide format reads as a zero of its sign (R94). -/
def Fmt.val (f : Fmt) (fz : Bool) (x : Nat) : FVal :=
  let neg := bit x (f.width - 1)
  let e := field x (f.width - 2) f.mbits
  let m := x % 2 ^ f.mbits
  if f.isNaN x then .nan (f.ieee && !bit x (f.mbits - 1))
  else if f.ieee ∧ e = f.emax then .inf neg
  else if e = 0 then (if fz ∧ !f.narrow then .fin neg 0 f.lsb else .fin neg m f.lsb)
  else .fin neg (2 ^ f.mbits + m) (f.lsb + e - 1)

/-- The sign bit of a format. -/
def Fmt.signBit (f : Fmt) (neg : Bool) : Nat := if neg then 2 ^ (f.width - 1) else 0

/-- A zero. -/
def Fmt.zero (f : Fmt) (neg : Bool) : Nat := f.signBit neg

/-- An infinity of a format that has one. -/
def Fmt.infBits (f : Fmt) (neg : Bool) : Nat := f.signBit neg + f.emax * 2 ^ f.mbits

/-- Encode ± m × 2^q for m below 2^(mbits + 1) at an exponent the format has: q is the exponent of the last place. -/
def Fmt.enc (f : Fmt) (neg : Bool) (m : Nat) (q : Int) : Nat :=
  if m < 2 ^ f.mbits then f.signBit neg + m
  else f.signBit neg + (q - f.lsb + 1).toNat * 2 ^ f.mbits + (m - 2 ^ f.mbits)

/-- The largest finite value. -/
def Fmt.top (f : Fmt) (neg : Bool) : Nat := f.enc neg f.topM f.topE

/-! ### Rounding (R92 to R95) -/

/-- The rounding of one result: a mode of R92, or stochastic with the bits of R95. -/
inductive RMode where
  | rne | rtz | rup | rdn
  | sr (bits : Nat)
  deriving DecidableEq, Repr

/-- What governs a rounding. -/
structure FEnv where
  mode : RMode
  fz : Bool
  sat8 : Bool
  deriving DecidableEq, Repr

/-- The modes of FMODE (R83). -/
def rmodeOf (fm : Word64) : RMode :=
  match fld fm 2 1 with
  | 0 => .rne | 1 => .rtz | 2 => .rup | _ => .rdn

/-- The rounding environment of FMODE. -/
def fenv (fm : Word64) : FEnv := ⟨rmodeOf fm, flag fm 3, flag fm 4⟩

/-- A result: encoding and flags. -/
abbrev FRes := Nat × Nat

/-- Number of bits of m. -/
def bitLen (m : Nat) : Nat := if m = 0 then 0 else m.log2 + 1

/-- ma × 2^ea ≤ mb × 2^eb. -/
def leScaled (ma : Nat) (ea : Int) (mb : Nat) (eb : Int) : Bool :=
  if ea ≤ eb then decide (ma ≤ mb * 2 ^ (eb - ea).toNat) else decide (ma * 2 ^ (ea - eb).toNat ≤ mb)

/-- Drop `sh` low bits of m: quotient, remainder, and whether the remainder is over, at, or under half. -/
def roundUp (mode : RMode) (neg : Bool) (k r sh : Nat) (sticky : Bool) : Bool :=
  let inexact := r ≠ 0 ∨ sticky
  match mode with
  | .rne => let h := 2 ^ (sh - 1)
    sh ≠ 0 ∧ (h < r ∨ (r = h ∧ (sticky ∨ k % 2 = 1)))
  | .rtz => false
  | .rup => inexact ∧ neg = false
  | .rdn => inexact ∧ neg = true
  | .sr bits => inexact ∧ 2 ^ 32 ≤ r * 2 ^ 32 / 2 ^ sh + bits

/-- An overflow goes to infinity rather than to the largest finite value (R93, R95). -/
def ovfInf (mode : RMode) (neg : Bool) : Bool :=
  match mode with
  | .rne => true | .rtz => false | .rup => !neg | .rdn => neg | .sr _ => true

/-- The outcome of an overflow by destination (R93). -/
def overflow (f : Fmt) (env : FEnv) (neg : Bool) : FRes :=
  if f.width = 4 then (f.top neg, fSAT + fNX)
  else if f.width = 8 ∧ env.sat8 then (f.top neg, fSAT + fNX)
  else if ovfInf env.mode neg then ((if f.ieee then f.infBits neg else f.signBit false + f.canon), fOF + fNX)
  else (f.top neg, fOF + fNX)

/-- Round ± (m + δ) × 2^e once to a format, with 0 < δ < 1 when `sticky` (R92 to R95). m is not zero. Above
the largest finite value both neighbours of a stochastic source have the exponent range unbounded (DEDUCED, log 90). -/
def roundTo (f : Fmt) (env : FEnv) (neg : Bool) (m : Nat) (e : Int) (sticky : Bool) : FRes :=
  let q0 := e + bitLen m - (f.mbits + 1)
  let q := if q0 < f.lsb then f.lsb else q0
  let sh := (q - e).toNat
  let m := if q < e then m * 2 ^ (e - q).toNat else m
  let k := m / 2 ^ sh
  let r := m % 2 ^ sh
  let inexact := r ≠ 0 ∨ sticky
  let k1 := if roundUp env.mode neg k r sh sticky then k + 1 else k
  let (k2, q2) := if k1 = 2 ^ (f.mbits + 1) then (2 ^ f.mbits, q + 1) else (k1, q)
  if !leScaled k2 q2 f.topM f.topE then overflow f env neg
  else
    let nx := if inexact then fNX else 0
    if k2 = 0 then (f.zero neg, nx)
    else if k2 < 2 ^ f.mbits then
      if env.fz ∧ !f.narrow then (f.zero neg, fUF + fNX)
      else (f.enc neg k2 q2, nx + (if inexact then fUF else 0))
    else (f.enc neg k2 q2, nx)

/-- A NaN result, with NV when asked (R89, R98). -/
def nanRes (f : Fmt) (nv : Bool) : FRes := (f.canon, if nv then fNV else 0)

/-- An infinite result that is no overflow: e4m3 gives its NaN and NV, e2m1 its largest value (R93, R98). -/
def infRes (f : Fmt) (neg : Bool) (fl : Nat) : FRes :=
  if f.ieee then (f.infBits neg, fl)
  else if f.width = 4 then (f.top neg, fl ||| (fSAT + fNX))
  else (f.canon, fl ||| fNV)

/-- The sign of an exact zero sum (R92). -/
def zeroSign (env : FEnv) (a b : Bool) : Bool := if a = b then a else env.mode = .rdn

/-- Deliver an exact value ± m × 2^e. `zneg` is the sign if it is zero. -/
def deliver (f : Fmt) (env : FEnv) (neg : Bool) (m : Nat) (e : Int) (zneg : Bool) : FRes :=
  if m = 0 then (f.zero zneg, 0) else roundTo f env neg m e false

/-- Some operand is a signalling NaN. -/
def anySig (vs : List FVal) : Bool := vs.any fun v => match v with
  | .nan true => true
  | _ => false
/-- Some operand is a NaN. -/
def anyNan (vs : List FVal) : Bool := vs.any fun v => match v with
  | .nan _ => true
  | _ => false

/-- An exact signed sum: integer mantissa at exponent e. -/
def alignSum (na : Bool) (ma : Nat) (ea : Int) (nb : Bool) (mb : Nat) (eb : Int) : Int × Int :=
  let e := if ea ≤ eb then ea else eb
  let x : Int := (ma * 2 ^ (ea - e).toNat : Nat)
  let y : Int := (mb * 2 ^ (eb - e).toNat : Nat)
  ((if na then -x else x) + (if nb then -y else y), e)

/-- Sum of two values that are no NaN, rounded once (R92, R96, R98). -/
def sumVals (f : Fmt) (env : FEnv) (x y : FVal) : FRes :=
  match x, y with
  | .inf a, .inf b => if a = b then infRes f a 0 else nanRes f true
  | .inf a, _ => infRes f a 0
  | _, .inf b => infRes f b 0
  | .fin na ma ea, .fin nb mb eb =>
    let (s, e) := alignSum na ma ea nb mb eb
    let z := if ma = 0 ∧ mb = 0 then zeroSign env na nb else env.mode = .rdn
    deliver f env (s < 0) s.natAbs e z
  | _, _ => nanRes f false

/-- Negate a value. -/
def negVal : FVal → FVal
  | .nan s => .nan s
  | .inf n => .inf (!n)
  | .fin n m e => .fin (!n) m e

/-- The exact product; none for 0 × ∞. The operands are no NaN. -/
def mulVals : FVal → FVal → Option FVal
  | .inf a, .inf b => some (.inf (a != b))
  | .inf a, .fin b m _ => if m = 0 then none else some (.inf (a != b))
  | .fin a m _, .inf b => if m = 0 then none else some (.inf (a != b))
  | .fin a m e, .fin b n g => some (.fin (a != b) (m * n) (e + g))
  | v, _ => some v

/-- FADD, TADD. -/
def fAdd (f : Fmt) (env : FEnv) (x y : FVal) : FRes :=
  if anyNan [x, y] then nanRes f (anySig [x, y]) else sumVals f env x y

/-- FSUB, TSUB. -/
def fSub (f : Fmt) (env : FEnv) (x y : FVal) : FRes := fAdd f env x (negVal y)

/-- FMUL, TMUL. -/
def fMul (f : Fmt) (env : FEnv) (x y : FVal) : FRes :=
  if anyNan [x, y] then nanRes f (anySig [x, y])
  else match mulVals x y with
    | none => nanRes f true
    | some (.fin n m e) => deliver f env n m e n
    | some (.inf n) => infRes f n 0
    | some (.nan _) => nanRes f false

/-- x × y + c with one rounding (R96, R444): 0 × ∞ raises NV whatever c holds. -/
def fFma (f : Fmt) (env : FEnv) (x y c : FVal) : FRes :=
  if anyNan [x, y] then nanRes f (anySig [x, y, c])
  else match mulVals x y with
    | none => nanRes f true
    | some p => if anyNan [c] then nanRes f (anySig [c]) else sumVals f env p c

/-- FDIV, TDIV (R98). -/
def fDiv (f : Fmt) (env : FEnv) (x y : FVal) : FRes :=
  if anyNan [x, y] then nanRes f (anySig [x, y])
  else match x, y with
    | .inf _, .inf _ => nanRes f true
    | .inf a, .fin b _ _ => infRes f (a != b) 0
    | .fin a _ _, .inf b => (f.zero (a != b), 0)
    | .fin a m e, .fin b n g =>
      if n = 0 then (if m = 0 then nanRes f true else infRes f (a != b) fDZ)
      else if m = 0 then (f.zero (a != b), 0)
      else
        let s := 70 + bitLen n
        let q := m * 2 ^ s / n
        roundTo f env (a != b) q (e - g - s) (m * 2 ^ s % n ≠ 0)
    | _, _ => nanRes f false

/-- The integer square root, bit by bit from 2^n. -/
def isqrtFrom (x : Nat) : Nat → Nat → Nat
  | 0, r => r
  | n + 1, r => let r' := r + 2 ^ n
    isqrtFrom x n (if r' * r' ≤ x then r' else r)

/-- floor(√x). -/
def isqrt (x : Nat) : Nat := isqrtFrom x (bitLen x / 2 + 1) 0

/-- FSQRT, TSQRT (R98). -/
def fSqrt (f : Fmt) (env : FEnv) (x : FVal) : FRes :=
  match x with
  | .nan s => nanRes f s
  | .inf n => if n then nanRes f true else infRes f false 0
  | .fin n m e =>
    if m = 0 then (f.zero n, 0)
    else if n then nanRes f true
    else
      let (m, e) := if e % 2 = 0 then (m, e) else (2 * m, e - 1)
      let big := m * 2 ^ 140
      let r := isqrt big
      roundTo f env false r (e / 2 - 70) (r * r ≠ big)

/-- TRSQ (R98, R441). -/
def fRsq (f : Fmt) (env : FEnv) (x : FVal) : FRes :=
  match x with
  | .nan s => nanRes f s
  | .inf n => if n then nanRes f true else (f.zero false, 0)
  | .fin n m e =>
    if m = 0 then infRes f n fDZ
    else if n then nanRes f true
    else
      let (m, e) := if e % 2 = 0 then (m, e) else (2 * m, e - 1)
      let t := 70 + bitLen m
      let r := isqrt (2 ^ (2 * t) / m)
      roundTo f env false r (-(e / 2) - t) (m * (r * r) ≠ 2 ^ (2 * t))

/-- TRCP (R98, R441). -/
def fRcp (f : Fmt) (env : FEnv) (x : FVal) : FRes :=
  match x with
  | .nan s => nanRes f s
  | .inf n => (f.zero n, 0)
  | .fin _ _ _ => fDiv f env (.fin false 1 0) x

/-! ### 2^x and log2 x, in fixed point with 320 fraction bits (R96, R441) -/

/-- Fraction bits of the series below. -/
def seriesBits : Nat := 320

/-- Σ over k from i on of 2^320 / (k × 2^k), n terms. -/
def ln2Sum : Nat → Nat → Nat
  | 0, _ => 0
  | n + 1, k => 2 ^ seriesBits / (k * 2 ^ k) + ln2Sum n (k + 1)

/-- ln 2 in fixed point. -/
def ln2Fix : Nat := ln2Sum 320 1

/-- The exponential series of a fixed-point y: the sum of y^k / k!, from term `t` of index k on. -/
def expSum (y : Nat) : Nat → Nat → Nat → Nat
  | 0, _, _ => 0
  | n + 1, k, t => t + expSum y n (k + 1) (t * y / 2 ^ seriesBits / (k + 1))

/-- 2^f for a fixed-point f below 1. -/
def exp2Fix (fr : Nat) : Nat := expSum (fr * ln2Fix / 2 ^ seriesBits) 80 0 (2 ^ seriesBits)

/-- Σ of z^(2k+1) / (2k+1): the series of artanh. -/
def atanhSum (z2 : Nat) : Nat → Nat → Nat → Nat
  | 0, _, _ => 0
  | n + 1, k, t => t / k + atanhSum z2 n (k + 2) (t * z2 / 2 ^ seriesBits)

/-- log2 of m / 2^b for 2^b ≤ m < 2^(b+1), in fixed point. -/
def log2Fix (m b : Nat) : Nat :=
  let z := (m - 2 ^ b) * 2 ^ seriesBits / (m + 2 ^ b)
  2 * atanhSum (z * z / 2 ^ seriesBits) 110 1 z * 2 ^ seriesBits / ln2Fix

/-- TEXP2 (R98, R441). A value that is no integer has an irrational power, so its rounding is never exact. -/
def fExp2 (f : Fmt) (env : FEnv) (x : FVal) : FRes :=
  match x with
  | .nan s => nanRes f s
  | .inf n => if n then (f.zero false, 0) else infRes f false 0
  | .fin n m e =>
    if m = 0 then roundTo f env false 1 0 false
    else if e + bitLen m ≤ -100 then
      if n then roundTo f env false (2 ^ 100 - 1) (-100) true else roundTo f env false (2 ^ 100) (-100) true
    else if 20 ≤ e + bitLen m then
      if n then roundTo f env false 1 (-200000) true else roundTo f env false 1 200000 true
    else
      let v : Int := if 0 ≤ e then ((m * 2 ^ (e.toNat + seriesBits) : Nat) : Int)
        else ((m * 2 ^ seriesBits / 2 ^ (-e).toNat : Nat) : Int)
      let v := if n then -v else v
      let i := v / ((2 ^ seriesBits : Nat) : Int)
      let fr := (v % ((2 ^ seriesBits : Nat) : Int)).toNat
      if fr = 0 then roundTo f env false 1 i false
      else roundTo f env false (exp2Fix fr) (i - seriesBits) true

/-- TLOG2 (R98, R441). -/
def fLog2 (f : Fmt) (env : FEnv) (x : FVal) : FRes :=
  match x with
  | .nan s => nanRes f s
  | .inf n => if n then nanRes f true else infRes f false 0
  | .fin n m e =>
    if m = 0 then infRes f true fDZ
    else if n then nanRes f true
    else
      let b := bitLen m - 1
      let i : Int := e + b
      if m = 2 ^ b then deliver f env (i < 0) i.natAbs 0 false
      else
        let v : Int := i * ((2 ^ seriesBits : Nat) : Int) + (log2Fix m b : Nat)
        roundTo f env (v < 0) v.natAbs (-(seriesBits : Int)) true

/-! ### Comparisons, minimum and maximum -/

/-- Order of two values that are no NaN; −0 and +0 are equal. -/
def ltVal : FVal → FVal → Bool
  | .inf a, .inf b => a && !b
  | .inf a, _ => a
  | _, .inf b => !b
  | .fin na ma ea, .fin nb mb eb => decide ((alignSum na ma ea (!nb) mb eb).1 < 0)
  | _, _ => false

/-- Sign of a value. -/
def signOf : FVal → Bool
  | .fin n _ _ => n
  | .inf n => n
  | .nan _ => false

/-- Value order in which −0 lies below +0 (R98). -/
def ltMinMax (x y : FVal) : Bool :=
  ltVal x y || (!ltVal y x && signOf x && !signOf y)

/-- A value of a format in its own encoding: exact. -/
def recode (f : Fmt) (env : FEnv) (v : FVal) : Nat :=
  match v with
  | .nan _ => f.canon
  | .inf n => if f.ieee then f.infBits n else f.canon
  | .fin n m e => (deliver f { env with mode := .rne } n m e n).1

/-- TMIN, TMAX, FMIN, FMAX (R98). -/
def fMinMax (f : Fmt) (env : FEnv) (isMax : Bool) (x y : FVal) : FRes :=
  if anySig [x, y] then nanRes f true
  else match x, y with
    | .nan _, .nan _ => nanRes f false
    | .nan _, v => (recode f env v, 0)
    | v, .nan _ => (recode f env v, 0)
    | _, _ =>
      let lt := ltMinMax x y
      (recode f env (if lt != isMax then x else y), 0)

/-- TCMP, FCMP (R98): outcome and flags. -/
def fCompare (cc : CmpOp) (x y : FVal) : Bool × Nat :=
  let nan := anyNan [x, y]
  let sig := anySig [x, y]
  let lt := ltVal x y
  let gt := ltVal y x
  match cc with
  | .eq => (!nan && !lt && !gt, if sig then fNV else 0)
  | .ne => (nan || lt || gt, if sig then fNV else 0)
  | .lt => (!nan && lt, if nan then fNV else 0)
  | .le => (!nan && !gt, if nan then fNV else 0)
  | .gt => (!nan && gt, if nan then fNV else 0)
  | .ge => (!nan && !lt, if nan then fNV else 0)

/-! ### Conversions (R100) -/

/-- Floating to floating. -/
def fToF (f : Fmt) (env : FEnv) (x : FVal) : FRes :=
  match x with
  | .nan s => if f.width = 4 then (0, fNV) else nanRes f s
  | .inf n => infRes f n 0
  | .fin n m e => deliver f env n m e n

/-- The largest and smallest integer of a width and signedness. -/
def intRange (w : Nat) (signed : Bool) : Int × Int :=
  if signed then (-((2 ^ (w - 1) : Nat) : Int), ((2 ^ (w - 1) : Nat) : Int) - 1) else (0, ((2 ^ w : Nat) : Int) - 1)

/-- Round ± m × 2^e to an integer, with whether it was inexact. -/
def roundInt (mode : RMode) (neg : Bool) (m : Nat) (e : Int) : Int × Bool :=
  if 0 ≤ e then
    let v : Int := (m * 2 ^ e.toNat : Nat)
    (if neg then -v else v, false)
  else
    let sh := (-e).toNat
    let k := m / 2 ^ sh
    let r := m % 2 ^ sh
    let k1 : Int := (if roundUp mode neg k r sh false then k + 1 else k : Nat)
    (if neg then -k1 else k1, r ≠ 0)

/-- Floating to integer. -/
def fToInt (w : Nat) (signed : Bool) (env : FEnv) (x : FVal) : FRes :=
  let (lo, hi) := intRange w signed
  match x with
  | .nan _ => (0, fNV)
  | .inf n => (ofInt w (if n then lo else hi), fNV)
  | .fin n m e =>
    let (v, nx) := roundInt env.mode n m e
    if v < lo then (ofInt w lo, fNV) else if hi < v then (ofInt w hi, fNV)
    else (ofInt w v, if nx then fNX else 0)

/-- Integer to floating. -/
def intToF (f : Fmt) (env : FEnv) (v : Int) : FRes := deliver f env (v < 0) v.natAbs 0 false

/-- Integer to integer, saturating. -/
def intToInt (w : Nat) (signed : Bool) (v : Int) : FRes :=
  let (lo, hi) := intRange w signed
  if v < lo then (ofInt w lo, fSAT + fNX) else if hi < v then (ofInt w hi, fSAT + fNX) else (ofInt w v, 0)

/-- FCLASS (R297): one bit for each class, from −∞ to the quiet NaN. -/
def fClass (f : Fmt) (x : Nat) : Nat :=
  let sub := field x (f.width - 2) f.mbits == 0 && x % 2 ^ f.mbits != 0
  match f.val false x with
  | .inf true => 1
  | .fin true m _ => if m = 0 then 8 else if sub then 4 else 2
  | .fin false m _ => if m = 0 then 16 else if sub then 32 else 64
  | .inf false => 128
  | .nan true => 256
  | .nan false => 512

/-! ### Stochastic bits (R95) -/

/-- SrBits(i). -/
def srBits (blkid : Nat) (stripId : Word64) (fmode : Word64) (i : Nat) : Nat :=
  let v : Word64 := (BitVec.ofNat 64 blkid <<< 32) ||| (stripId &&& 0xFFFFFFFF)
  let v := v ^^^ ((fmode >>> 32) * 0x9E3779B97F4A7C15)
  let v := v + BitVec.ofNat 64 i * 0xD1B54A32D192ED03
  let v := (v ^^^ (v >>> 30)) * 0xBF58476D1CE4E5B9
  let v := (v ^^^ (v >>> 27)) * 0x94D049BB133111EB
  let v := v ^^^ (v >>> 31)
  fld v 63 32

/-! ### Sums in blocks (R101) -/

/-- The exact sum of products of a block: whether a NaN, invalid operation, or infinity of a sign arose, and the finite
sum as an integer at an exponent. `neg0` says that every product was −0, so that a zero sum keeps that sign (R92). -/
structure BlockSum where
  nan : Bool
  nv : Bool
  pinf : Bool
  ninf : Bool
  neg0 : Bool
  m : Int
  e : Int
  deriving DecidableEq, Repr

/-- The empty sum. -/
def BlockSum.zero : BlockSum := ⟨false, false, false, false, true, 0, 0⟩

/-- Add one exact product. -/
def BlockSum.add (s : BlockSum) (x y : FVal) : BlockSum :=
  if anyNan [x, y] then { s with nan := true, nv := s.nv || anySig [x, y] }
  else match mulVals x y with
    | none => { s with nan := true, nv := true }
    | some (.inf n) => if n then { s with ninf := true } else { s with pinf := true }
    | some (.fin n m e) =>
      let z := s.neg0 && n && m == 0
      if m = 0 then { s with neg0 := z }
      else if s.m = 0 then { s with neg0 := z, m := if n then -(m : Int) else m, e := e }
      else
        let (t, e') := alignSum (s.m < 0) s.m.natAbs s.e n m e
        { s with neg0 := z, m := t, e := e' }
    | some (.nan _) => { s with nan := true }

/-- acc ← round(acc + S) (R101). -/
def addBlock (f : Fmt) (env : FEnv) (acc : FVal) (s : BlockSum) : FRes :=
  let sig := anySig [acc]
  if s.nan || (s.pinf && s.ninf) then nanRes f (sig || s.nv || (s.pinf && s.ninf))
  else if anyNan [acc] then nanRes f (sig || s.nv)
  else
    let v : FVal := if s.pinf then .inf false else if s.ninf then .inf true
      else .fin (decide (s.m < 0) || (s.neg0 && s.m == 0)) s.m.natAbs s.e
    sumVals f env acc v

end Sys2Proof.Machine
end

