-- ==== Sys2Proof/Machine/Operands.lean ====
section
/-! DEFINITION. Operand forms: element types (R66), shape records and the grant (R65 to R74), tile and queue operands
(R46, R63, R64, R69, R70), predicates (R81), tile writes (R70, R71, R78), queue pushes and pops (R45, R46), and the
choice of the reported fault of an instruction (R245). -/

namespace Sys2Proof.Machine

/-! ### Element types (R66) -/

/-- Type codes. -/
def typeCode : ElemType → Nat
  | .i8 => 0x01 | .i16 => 0x02 | .i32 => 0x03 | .i64 => 0x04 | .n8 => 0x05 | .n16 => 0x06 | .n32 => 0x07 | .n64 => 0x08
  | .f16 => 0x09 | .bf16 => 0x0A | .f32 => 0x0B | .f64 => 0x0C | .e4m3 => 0x0D | .e5m2 => 0x0E | .e2m1 => 0x0F
  | .mx8e4 => 0x10 | .mx8e5 => 0x11 | .mx4 => 0x12 | .mxi8 => 0x13

/-- The type of a code; 0x00 and 0x14 to 0x1F are reserved. -/
def typeOfCode : Nat → Option ElemType
  | 0x01 => some .i8 | 0x02 => some .i16 | 0x03 => some .i32 | 0x04 => some .i64 | 0x05 => some .n8 | 0x06 => some .n16
  | 0x07 => some .n32 | 0x08 => some .n64 | 0x09 => some .f16 | 0x0A => some .bf16 | 0x0B => some .f32
  | 0x0C => some .f64 | 0x0D => some .e4m3 | 0x0E => some .e5m2 | 0x0F => some .e2m1 | 0x10 => some .mx8e4
  | 0x11 => some .mx8e5 | 0x12 => some .mx4 | 0x13 => some .mxi8 | _ => none

/-- Bits that an element takes in a row. -/
def typeWidth : ElemType → Nat
  | .i8 | .n8 | .e4m3 | .e5m2 | .mx8e4 | .mx8e5 | .mxi8 => 8
  | .i16 | .n16 | .f16 | .bf16 => 16
  | .i32 | .n32 | .f32 => 32
  | .i64 | .n64 | .f64 => 64
  | .e2m1 | .mx4 => 4

/-- Signed integer types. -/
def isSigned : ElemType → Bool
  | .i8 | .i16 | .i32 | .i64 => true
  | _ => false

/-- Integer types (R86). -/
def isInt : ElemType → Bool
  | .i8 | .i16 | .i32 | .i64 | .n8 | .n16 | .n32 | .n64 => true
  | _ => false

/-- Microscaling types (R66). -/
def isMx : ElemType → Bool
  | .mx8e4 | .mx8e5 | .mx4 | .mxi8 => true
  | _ => false

/-- The floating format of a type, if it has one (R88). -/
def fmtOf : ElemType → Option Fmt
  | .f16 => some fmtF16 | .bf16 => some fmtBf16 | .f32 => some fmtF32 | .f64 => some fmtF64
  | .e4m3 => some fmtE4m3 | .e5m2 => some fmtE5m2 | .e2m1 => some fmtE2m1 | _ => none

/-- The floating types of tile arithmetic (R97). -/
def isFp : ElemType → Bool
  | .f16 | .bf16 | .f32 | .f64 | .e4m3 | .e5m2 => true
  | _ => false

/-- The types of TADD (R97). -/
def isNum (t : ElemType) : Bool := isInt t || isFp t

/-- An element of an integer type as an integer. -/
def intVal (t : ElemType) (x : Nat) : Int := if isSigned t then toInt (typeWidth t) x else (x : Int)

/-! ### Shape records (R65, R67) -/

/-- Codes of LAY. -/
def layCode : Layout → Nat
  | .rowMajor => 0 | .colMajor => 1 | .swizzled => 2

/-- The 64 bits of a record. -/
def recWord (h : ShapeRec) : Word64 :=
  BitVec.ofNat 64 ((h.reqr <<< 55) + (h.reqc <<< 40) + (h.gr <<< 31) + (h.gc <<< 16) + (typeCode h.ty <<< 11)
    + (h.g.toNat <<< 9) + (layCode h.lay <<< 7) + (if h.tail then 64 else 0))

/-- The record of an image, with no grant yet; none where R67 refuses it. -/
def recOfWord (w : Word64) : Option ShapeRec :=
  match typeOfCode (fld w 15 11) with
  | none => none
  | some ty =>
    let lay? := match fld w 8 7 with
      | 0 => some Layout.rowMajor | 1 => some .colMajor | 2 => some .swizzled | _ => none
    match lay? with
    | none => none
    | some lay =>
      if fld w 5 0 ≠ 0 ∨ 256 < fld w 63 55 ∨ 16384 < fld w 54 40 then none
      else some ⟨fld w 63 55, fld w 54 40, 0, 0, ty, BitVec.ofNat 2 (fld w 10 9), lay, flag w 6⟩

/-- Group multiplier. -/
def groupSize (h : ShapeRec) : Nat := 2 ^ h.g.toNat

/-- Rows of an operand: g × GR (R64). -/
def recRows (h : ShapeRec) : Nat := groupSize h * h.gr

/-- Elements of an operand: g × GR × GC. -/
def recElems (h : ShapeRec) : Nat := recRows h * h.gc

/-! ### The grant (R73, R74) -/

/-- GRANTC.TILEB. -/
def grantTileB (g : Word64) : Nat := fld g 51 32
/-- GRANTC.MAXROWB. -/
def grantMaxRow (g : Word64) : Nat := 2 ^ fld g 11 8
/-- The declared tile count. -/
def declared (g : Word64) : Nat :=
  match fld g 13 12 with
  | 0 => 4 | 1 => 8 | 2 => 16 | _ => 28

/-- The smallest power of two that is not below n. -/
def pow2Ceil (n : Nat) : Nat := if n ≤ 1 then 1 else 2 ^ ((n - 1).log2 + 1)

/-- RowBytes(c, w). -/
def rowBytes (c w : Nat) : Nat := Nat.max 64 (pow2Ceil (c * w)) / 8

/-- FixedCols(h). -/
def fixedCols (g : Word64) (h : ShapeRec) : Nat := Nat.min h.reqc (grantMaxRow g / typeWidth h.ty)

/-- RowCap(h, c). -/
def rowCap (g : Word64) (h : ShapeRec) (c : Nat) : Nat :=
  if c = 0 then 0 else Nat.min 256 (Nat.min (grantTileB g / rowBytes c (typeWidth h.ty)) (65536 / c))

/-- Record N. -/
def recN (c : Core) (n : PredNo) : ShapeRec := c.recs[n.toNat]'n.isLt

/-- The record numbers that some tile name or queue is bound to. -/
def boundRecs (c : Core) : List PredNo := c.bindT.toList ++ c.bindL.toList ++ c.bindS.toList

/-- A record under a strip grant. -/
def regrant (g : Word64) (gr gc : Nat) (h : ShapeRec) : ShapeRec :=
  let c := if h.reqc = 0 then gc else fixedCols g h
  { h with gc := c, gr := if h.reqr = 0 then gr else Nat.min h.reqr (rowCap g h c) }

/-- The strip grant for a request (R74). -/
def stripGrant (g : Word64) (c : Core) (rq cq : Nat) : Nat × Nat :=
  let used := boundRecs c
  let ws := (used.filter fun n => (recN c n).reqc == 0).map fun n => typeWidth (recN c n).ty
  let wmax := if ws.isEmpty then 32 else ws.foldl Nat.max 0
  let gc := Nat.min cq (grantMaxRow g / wmax)
  let gr := (used.filter fun n => (recN c n).reqr == 0).foldl (fun gr n =>
    let h := recN c n
    let k := if h.reqc = 0 then gc else fixedCols g h
    if k > 0 then Nat.min gr (rowCap g h k) else gr) (Nat.min rq 256)
  if gr = 0 ∨ gc = 0 then (0, 0) else (gr, gc)

/-! ### Names, records and groups (R63, R64) -/

/-- The record number of a tile name, or of a load queue in a source field. -/
def srcBind (c : Core) (t : TileCode) : PredNo :=
  if t.toNat < 28 then vget 0 c.bindT t.toNat else vget 0 c.bindL (t.toNat - 28)

/-- The record number of a tile name, or of a store queue in a destination field. -/
def dstBind (c : Core) (t : TileCode) : PredNo :=
  if t.toNat < 28 then vget 0 c.bindT t.toNat else vget 0 c.bindS (t.toNat - 28)

/-- The record of a source operand. -/
def srcRec (c : Core) (t : TileCode) : ShapeRec := recN c (srcBind c t)
/-- The record of a destination operand. -/
def dstRec (c : Core) (t : TileCode) : ShapeRec := recN c (dstBind c t)

/-- A tile or group that R64 and R69 allow. -/
def tileOk (g : Word64) (c : Core) (n : Nat) : Bool :=
  let b := vget 0 c.bindT n
  let k := groupSize (recN c b)
  n % k == 0 && decide (n + k ≤ 28) && decide (n + k ≤ declared g) && (span n k).all fun j => vget 0 c.bindT j == b

/-- A source operand that R64 and R69 allow: a tile, or a queue whose record has g = 1. -/
def srcOk (g : Word64) (c : Core) (t : TileCode) : Bool :=
  if t.toNat < 28 then tileOk g c t.toNat else groupSize (srcRec c t) == 1

/-- A destination operand that they allow. -/
def dstOk (g : Word64) (c : Core) (t : TileCode) : Bool :=
  if t.toNat < 28 then tileOk g c t.toNat else groupSize (dstRec c t) == 1

/-- Agreement in GC and g × GR. -/
def sameExtent (x y : ShapeRec) : Bool := x.gc == y.gc && recRows x == recRows y

/-- Agreement under R69. -/
def agree (x y : ShapeRec) : Bool := decide (x.ty = y.ty) && sameExtent x y

/-! ### Predicates (R81) -/

/-- Bit i of a predicate; p0 reads as one at every index. -/
def predBit (c : Core) (p : PredNo) (i : Nat) : Bool :=
  if p = 0 then true else bit (c.preds[p.toNat]'p.isLt) i

/-- Element i is active under a guard. -/
def isActive (c : Core) (g : Guard) (i : Nat) : Bool := predBit c g.pg i != g.pn

/-- The active indices below n, ascending. -/
def activeIx (c : Core) (g : Guard) (n : Nat) : List Nat := (upTo n).filter (isActive c g)

/-- A predicate's linear range exceeds 65,536 where R81 forbids it. -/
def predTooLong (g : Guard) (n : Nat) (writes : Bool) : Bool := decide (65536 < n) && (g.pg != 0 || writes)

/-- A bit set from the indices of its ones. -/
def bitsOf (l : List Nat) : Nat := l.foldl (fun a i => a ||| 1 <<< i) 0

/-- Write a predicate; a write of p0 is discarded (R62). -/
def setPred (c : Core) (p : PredNo) (x : Nat) : Core :=
  if p = 0 then c else { c with preds := c.preds.set p.toNat x p.isLt }

/-! ### Source operands -/

/-- A source operand as an instruction reads it: elements, marks and deadness by linear index, scales by row and block. -/
structure Src where
  code : Nat
  rc : ShapeRec
  get : Nat → Nat
  mark : Nat → Option Mark
  dead : Nat → Bool
  scale : Nat → Nat → Nat

/-- The tile that holds a row of a group operand, and the row in it (R64). -/
def memberOf (h : ShapeRec) (n r : Nat) : Nat × Nat := (n + r / h.gr, r % h.gr)

/-- Tile n. -/
def getTile (c : Core) (n : Nat) : Tile := vget Tile.dead c.tiles n

/-- The chunk of a column (R260). -/
def chunkOf (t : ElemType) (col : Nat) : Nat := col * typeWidth t / 512

/-- Element (r, c) of a tile. -/
def Tile.elem (t : Tile) (r c : Nat) : Nat := mapNat t.elems (r * 16384 + c)

/-- The tile operand at n under a record. -/
def tileSrcAs (c : Core) (h : ShapeRec) (n : Nat) : Src where
  code := n
  rc := h
  get i := let (k, r) := memberOf h n (i / h.gc)
    (getTile c k).elem r (i % h.gc)
  mark i := let (k, r) := memberOf h n (i / h.gc)
    mapGet (getTile c k).marks (r * 256 + chunkOf h.ty (i % h.gc))
  dead i := !(getTile c (memberOf h n (i / h.gc)).1).live
  scale r q := let (k, r') := memberOf h n r
    mapNat (getTile c k).scales (r' * 512 + q)

/-- The tile operand at n. -/
def tileSrc (c : Core) (n : Nat) : Src := tileSrcAs c (recN c (vget 0 c.bindT n)) n

/-- Elements of chunk j of a row that the grant holds. -/
def chunkCount (h : ShapeRec) (j : Nat) : Nat :=
  let k := 512 / typeWidth h.ty
  Nat.min h.gc (k * (j + 1)) - k * j

/-- The mark of the 64-byte chunk that holds element i of popped row-blocks (R260). -/
def queueMark (h : ShapeRec) (es : List QElem) (i : Nat) : Option Mark :=
  let j := chunkOf h.ty (i % h.gc)
  ((es.drop (i / h.gc * h.gc + 512 / typeWidth h.ty * j)).take (chunkCount h j)).findSome? QElem.mark

/-- Row-blocks popped from a load queue as an operand. -/
def queueSrc (code : Nat) (h : ShapeRec) (es : List QElem) : Src where
  code := code
  rc := h
  get i := match es[i]? with
    | some e => e.bits
    | none => 0
  mark i := queueMark h es i
  dead _ := false
  scale _ _ := 0

/-- Take the source operands in order, popping each named queue once (R46); none while a queue holds too little. -/
def takeSrcs (c : Core) : List TileCode → List (TileCode × Src) → Option (Core × List Src)
  | [], _ => some (c, [])
  | t :: ts, done =>
    if t.toNat < 28 then (takeSrcs c ts done).map fun (c', l) => (c', tileSrc c t.toNat :: l)
    else match done.find? fun e => e.1 == t with
      | some (_, x) => (takeSrcs c ts done).map fun (c', l) => (c', x :: l)
      | none =>
        let h := srcRec c t
        let q := vget ⟨[], 0⟩ c.lq (t.toNat - 28)
        let n := recElems h
        if n ≤ q.elems.length then
          let x := queueSrc t.toNat h (q.elems.take n)
          let c1 := { c with lq := vset c.lq (t.toNat - 28) { q with elems := q.elems.drop n } }
          (takeSrcs c1 ts ((t, x) :: done)).map fun (c', l) => (c', x :: l)
        else none

/-- What the named queues must hold for `takeSrcs`. -/
def srcNeed (c : Core) (ts : List TileCode) : List (Nat × Nat) :=
  ts.filterMap fun t => if t.toNat < 28 then none else some (t.toNat - 28, recElems (srcRec c t))

/-! ### The reported fault of an instruction (R245) -/

/-- A cause that an element has; `mark` is the consumed mark of POISON and UNCORRECTABLE. -/
structure Hit where
  lin : Nat
  cause : Cause
  mark : Option Mark
  coord : Word64
  addr : Nat
  deriving DecidableEq, Repr

/-- TCOORD of element i of an operand (R85). -/
def coordAt (h : ShapeRec) (code i : Nat) : Word64 :=
  let r := i / h.gc
  if code < 28 then
    let (k, r') := memberOf h code r
    coordOf k r' (i % h.gc) i
  else coordOf code r (i % h.gc) i

/-- The cause of a mark (R263). -/
def markCause : Mark → Cause
  | .line _ _ => .poison
  | .chip _ _ => .uncorrectable

/-- TADDR of a mark. -/
def markAddr : Mark → Nat
  | .line _ va => va
  | .chip _ _ => 0

/-- An element of an operand is dead. -/
def deadHit (x : Src) (i : Nat) : Hit := ⟨i, .deadRead, none, coordAt x.rc x.code i, 0⟩

/-- An element of an operand carries a mark that is consumed. -/
def markHit (x : Src) (i : Nat) (m : Mark) : Hit := ⟨i, markCause m, some m, coordAt x.rc x.code i, markAddr m⟩

/-- One cause comes before another: lower element, then lower rank. -/
def hitBefore (x y : Hit) : Bool :=
  decide (x.lin < y.lin) || (x.lin == y.lin && decide (causeRank x.cause < causeRank y.cause))

/-- The first of some causes. -/
def firstHit : List Hit → Option Hit
  | [] => none
  | h :: t => match firstHit t with
    | none => some h
    | some h' => if hitBefore h' h then some h' else some h

/-- The reported cause and TCAUSE.MORE. -/
def pickHit (l : List Hit) : Option (Hit × Bool) :=
  (firstHit l).map fun h => (h, l.any fun x => x.lin != h.lin || decide (causeRank h.cause < causeRank x.cause))

/-- OR flags into FSTAT (R84). -/
def orFlags (c : Core) (f : Nat) : Core := { c with fstat := c.fstat ||| BitVec.ofNat 64 f }

/-- The end of an instruction that has gathered its causes: rewind, trap, or go on. FP_ENABLED and SUSPECT leave the
instruction's flags in FSTAT (R108). -/
def conclude (s : State) (id : BlkId) (b : Block) (half : Bool) (hits : List Hit) (flags : Nat) (k : Out) : Out :=
  match pickHit hits with
  | none => k
  | some (h, more) =>
    match h.mark with
    | some m => if rewindOk b m then .next (rewindTo s id b (hits.filterMap Hit.mark))
        else raise s id b { markTrap m half h.coord with more := more }
    | none =>
      let b' := if h.cause = .fpEnabled ∨ h.cause = .suspect then { b with core := orFlags b.core flags } else b
      raise s id b' (elemTrap h.cause half more h.coord h.addr)

/-! ### Results and destinations -/

/-- A result for element `lin` of the destination, with the mark it carries and the flags it raised. -/
structure Res where
  lin : Nat
  val : Nat
  mark : Option Mark
  flags : Nat
  deriving DecidableEq, Repr

/-- The union of flags (R108). -/
def unionFlags (rs : List Res) : Nat := rs.foldl (fun f r => f ||| r.flags) 0

/-- The FP_ENABLED or SUSPECT causes of the results (R108), at the named operand. -/
def fpHits (fmode : Word64) (h : ShapeRec) (code : Nat) (rs : List Res) : List Hit :=
  let te := fld fmode 14 8
  let on := unionFlags rs &&& te
  if on = 0 then []
  else
    let cause : Cause := if on = fSUS then .suspect else .fpEnabled
    (rs.filter fun r => r.flags &&& te != 0).map fun r => ⟨r.lin, cause, none, coordAt h code r.lin, 0⟩

/-- The marks of a tile after a write (R260): a chunk takes the first mark of what was written into it, loses its mark
when all of it was written, and else keeps it. -/
def chunkMarks (h : ShapeRec) (ws : List (Nat × Nat × Nat × Option Mark)) (old : SMap Mark) : SMap Mark :=
  let keys := (ws.map fun w => w.1 * 256 + chunkOf h.ty w.2.1).eraseDups
  keys.foldl (fun m k =>
    let here := ws.filter fun w => w.1 * 256 + chunkOf h.ty w.2.1 == k
    match here.findSome? fun w => w.2.2.2 with
    | some x => mapPut m k x
    | none => if here.length < chunkCount h (k % 256) then m else mapDel m k) old

/-- The tail of a destination reads as zero under TAIL = 1 (R70). -/
def clearTail (h : ShapeRec) (t : Tile) : Tile :=
  { t with
    elems := t.elems.filter fun e => decide (e.1 / 16384 < h.gr) && decide (e.1 % 16384 < h.gc)
    scales := t.scales.filter fun e => decide (e.1 / 512 < h.gr) && decide (e.1 % 512 * 32 < h.gc)
    marks := t.marks.filter fun e => decide (e.1 / 256 < h.gr) && decide (e.1 % 256 * 512 < h.gc * typeWidth h.ty) }

/-- Write elements (row, column, bits, mark) and scales (row, block, code) of one tile. Every tile that a write reaches
becomes live and dirty, and its high-water mark rises (R71, R78). With `keep` the tail stays whatever TAIL says
(R156). -/
def writeMember (h : ShapeRec) (keep : Bool) (ws : List (Nat × Nat × Nat × Option Mark)) (sc : List (Nat × Nat × Nat))
    (t : Tile) : Tile :=
  let t := if t.live then t else Tile.dead
  let t := if h.tail ∧ !keep then { clearTail h t with hwr := h.gr, hwc := h.gc } else t
  { live := true, dirty := true, hwr := Nat.max t.hwr h.gr, hwc := Nat.max t.hwc h.gc,
    elems := ws.foldl (fun m w => mapPutNat m (w.1 * 16384 + w.2.1) w.2.2.1) t.elems,
    scales := sc.foldl (fun m x => mapPutNat m (x.1 * 512 + x.2.1) x.2.2) t.scales,
    marks := chunkMarks h ws t.marks }

/-! ### Physical copies of tiles (R76, R77) -/

/-- Bytes of n rows of c columns in tile store (R72, R74). -/
def storeBytes (ty : ElemType) (n c : Nat) : Nat := n * rowBytes c (typeWidth ty)

/-- Bytes of a tile at the grant of its record. -/
def tileBytes (c : Core) (k : Nat) : Nat :=
  let h := recN c (vget 0 c.bindT k)
  storeBytes h.ty h.gr h.gc

/-- Bytes in use once tile k is live: live tiles at the grant, checkpointed contents of tiles that have died since, and
those kept beside new copies. -/
def storeUsed (c : Core) (k : Nat) : Nat :=
  (upTo 28).foldl (fun n j => n + (if j = k ∨ (getTile c j).live then tileBytes c j else mapNat c.copies.held j)) c.copies.kept

/-- The copy that a tile's first write in the strip takes when the tile was live at the checkpoint (R77); without room the
write goes in place (R76). -/
def claimCopy (c : Core) (k : Nat) : Core :=
  match mapGet c.copies.held k with
  | none => c
  | some n =>
    let q := { c.copies with held := mapDel c.copies.held k, kept := c.copies.kept + n }
    let c1 := { c with copies := q }
    if storeUsed c1 k ≤ q.store then c1
    else { c with copies := { q with kept := c.copies.kept, lost := true } }

/-- Write a tile. -/
def setTile (c : Core) (k : Nat) (t : Tile) : Core := { claimCopy c k with tiles := vset c.tiles k t }

/-- The strip's grant is 0 × 0: no tile element changes, and no row-block is popped or pushed, whatever the records hold
(R74). -/
def emptyStrip (c : Core) : Bool := c.gr == 0

/-- Write the tiles of an operand from n on under a record, member j with `f j`. -/
def writeTiles (c : Core) (n : Nat) (h : ShapeRec) (f : Nat → Tile) : Core :=
  if emptyStrip c then c else (upTo (groupSize h)).foldl (fun c j => setTile c (n + j) (f j)) c

/-- Write results and scales (operand row, block, code) of a tile or group; with no active element nothing is
written (log 50). Otherwise every member of a group counts as written, also one in which no element is active (DESIGN CHOICE,
log 100). -/
def writeTile (c : Core) (n : Nat) (h : ShapeRec) (keep : Bool) (rs : List Res) (sc : List (Nat × Nat × Nat)) : Core :=
  if rs.isEmpty then c
  else writeTiles c n h fun j =>
      let mine := (rs.filter fun r => r.lin / h.gc / h.gr == j).map fun r => (r.lin / h.gc % h.gr, r.lin % h.gc, r.val, r.mark)
      let msc := (sc.filter fun x => x.1 / h.gr == j).map fun x => (x.1 % h.gr, x.2.1, x.2.2)
      writeMember h keep mine msc (getTile c (n + j))

/-- The elements of row-blocks: n from index i on, zero where there is no result (R70). -/
def spread : Nat → Nat → List Res → List (Nat × Option Mark)
  | 0, _, _ => []
  | n + 1, i, [] => (0, none) :: spread n (i + 1) []
  | n + 1, i, r :: t => if r.lin = i then (r.val, r.mark) :: spread n (i + 1) t else (0, none) :: spread n (i + 1) (r :: t)

/-- Row-blocks as queue elements: a chunk takes the first mark of its elements (R260). -/
def rowBlocks (h : ShapeRec) (rs : List Res) : List QElem :=
  let key (i : Nat) : Nat := (i / h.gc) * 256 + chunkOf h.ty (i % h.gc)
  let marked := (rs.filter fun r => r.mark.isSome).map fun r => (key r.lin, r.mark)
  (spread (recElems h) 0 rs).zip (upTo (recElems h)) |>.map fun (e, i) =>
    ⟨e.1, match marked.find? fun x => x.1 == key i with
      | some (_, m) => m
      | none => none⟩

/-- Push elements; those that the other half has already taken are dropped (log 16). -/
def TQueue.push (q : TQueue) (es : List QElem) : TQueue :=
  let d := Nat.min q.debt es.length
  ⟨q.elems ++ es.drop d, q.debt - d⟩

/-- A queue has room for n elements at a granted width of gc (R45). After the grant has shrunk a queue may hold less than its
capacity by under one row-block: then the push of a row-block waits until the whole of it fits (DESIGN CHOICE, log 98). -/
def TQueue.room (q : TQueue) (n gc : Nat) : Bool := decide (n ≤ q.debt) || decide (q.elems.length + (n - q.debt) ≤ 8 * gc)

/-- The destination can take its row-blocks now (R46). -/
def dstRoom (b : Block) (t : TileCode) : Bool :=
  if t.toNat < 28 then true
  else
    let h := dstRec b.core t
    b.room || (vget ⟨[], 0⟩ b.core.sq (t.toNat - 28)).room (recElems h) h.gc

/-- Deliver results to a tile or a store queue. -/
def writeDst (c : Core) (t : TileCode) (rs : List Res) (sc : List (Nat × Nat × Nat)) : Core :=
  let h := dstRec c t
  if t.toNat < 28 then writeTile c t.toNat h false rs sc
  else { c with sq := vset c.sq (t.toNat - 28) ((vget ⟨[], 0⟩ c.sq (t.toNat - 28)).push (rowBlocks h rs)) }

/-! ### The common course of an execute-half tile instruction -/

/-- What the elements of an instruction come to: causes; the flags that its results raise, each with the number of leading
source elements that the result needs; and the change of the core if there is no cause. -/
structure Plan where
  hits : List Hit
  raised : List (Nat × Nat)
  apply : Core → Core

/-- The flags of results that need so many elements. -/
def flagsUpTo (lim : Nat) (l : List (Nat × Nat)) : Nat := l.foldl (fun f r => if r.1 ≤ lim then f ||| r.2 else f) 0

/-- The union of a plan's flags (R108). -/
def Plan.flags (p : Plan) : Nat := p.raised.foldl (fun f r => f ||| r.2) 0

/-- The flags of results that each need the source elements up to their own. -/
def raisedBy (rs : List Res) : List (Nat × Nat) := rs.map fun r => (r.lin + 1, r.flags)

/-- An issue-time cause of shape (R245): SHAPE_INVALID before SHAPE_MISMATCH. -/
def shapeCause (invalid mismatch : Bool) : Option Cause :=
  if invalid then some .shapeInvalid else if mismatch then some .shapeMismatch else none

/-- The current feed of load queue k. -/
def feedAt (c : Core) (k : Nat) : Option Feed := (vget ⟨none, none, true⟩ c.feeds k).cur

/-- The elements that operand t lacks in its load queue. -/
def lacking (c : Core) (t : TileCode) : Nat :=
  if t.toNat < 28 then 0 else recElems (srcRec c t) - (vget ⟨[], 0⟩ c.lq (t.toNat - 28)).elems.length

/-- An operand pops an empty queue whose feed has stopped before an element of a size it may not load (R51). -/
def feedMismatch (c : Core) (ts : List TileCode) : Bool :=
  ts.any fun t => decide (28 ≤ t.toNat) && (vget ⟨[], 0⟩ c.lq (t.toNat - 28)).elems.isEmpty
    && (feedAt c (t.toNat - 28)).any Feed.sizeBad

/-- Every queue that lacks elements has a feed whose next element faults (R52): the core with zeros in their place, the
causes, and the core whose feeds will load those elements again. -/
def feedStops (c : Core) : List TileCode → Core → List Hit → Core → Option (Core × List Hit × Core)
  | [], pad, hits, again => some (pad, hits, again)
  | t :: ts, pad, hits, again =>
    let n := lacking pad t
    if n = 0 then feedStops c ts pad hits again
    else
      let k := t.toNat - 28
      match feedAt c k with
      | some f => match f.fault with
        | some (cause, va) =>
          let q := vget ⟨[], 0⟩ pad.lq k
          let i := q.elems.length
          let pad' := { pad with lq := vset pad.lq k { q with elems := q.elems ++ List.replicate n ⟨0, none⟩ } }
          let slot := vget ⟨none, none, true⟩ again.feeds k
          let again' := { again with feeds := vset again.feeds k { slot with cur := some { f with fault := none } } }
          feedStops c ts pad' (hits ++ [⟨i, cause, none, coordAt (srcRec c t) t.toNat i, va⟩]) again'
        | none => none
      | none => none

/-- An instruction whose queue operands lack elements: SHAPE_MISMATCH, the trap of a feed's element unless an earlier
element has a cause of its own (R52), or a wait. -/
def stalledPop (s : State) (id : BlkId) (b : Block) (srcs : List TileCode) (body : Core → List Src → Plan) : Out :=
  if feedMismatch b.core srcs then raiseAt s id b .shapeMismatch false 0
  else match feedStops b.core srcs b.core [] b.core with
    | none => holdNeed s id b (srcNeed b.core srcs)
    | some (pad, stops, again) => match takeSrcs pad srcs [] with
      | none => holdNeed s id b (srcNeed b.core srcs)
      | some (c, xs) =>
        let p := body c xs
        let lim := stops.foldl (fun m h => Nat.min m h.lin) (2 ^ 24)
        let early := p.hits.filter fun h => decide (h.lin < lim) && (decide (h.cause ≠ .fpEnabled ∧ h.cause ≠ .suspect)
          || p.raised.any fun r => decide (h.lin < r.1 ∧ r.1 ≤ lim))
        let b' := if early = [] then { b with core := again } else b
        conclude s id b' false (early ++ stops) (flagsUpTo lim p.raised) (holdNeed s id b (srcNeed b.core srcs))

/-- An empty strip leaves an instruction with a queue operand nothing to do (R74). -/
def idleQueue (c : Core) (srcs : List TileCode) (dst : Option TileCode) : Bool :=
  emptyStrip c && (srcs.any (fun t => decide (28 ≤ t.toNat)) || dst.any fun t => decide (28 ≤ t.toNat))

/-- Issue-time causes, waits for queues, element causes, and completion. `dst` is the destination that may need room; `idle`
is what the instruction writes beside elements where an empty strip leaves it none. -/
def tileOp (s : State) (id : BlkId) (b : Block) (chk : Option Cause) (srcs : List TileCode) (dst : Option TileCode)
    (body : Core → List Src → Plan) (idle : Core → Core := fun c => c) : Out :=
  notInHandler s id b false
    (match chk with
    | some c => raiseAt s id b c false 0
    | none =>
      if idleQueue b.core srcs dst then finish s id { b with core := idle b.core }
      else match takeSrcs b.core srcs [] with
      | none => stalledPop s id b srcs body
      | some (c, xs) =>
        if dst.all (dstRoom b) then
          let p := body c xs
          conclude s id b false p.hits p.flags
            (finish s id { b with core := orFlags (p.apply c) p.flags })
        else holdOn s id b)

/-- DR = 1: a dead read raises DEAD_READ (R78). -/
def deadReads (c : Core) : Bool := flag c.fmode 6

/-- The dead reads and consumed marks of the elements that an instruction reads: pairs of a linear index and the
operands read there. -/
def readHits (c : Core) (reads : List (Nat × List (Src × Nat))) (consume : Bool) : List Hit :=
  reads.flatMap fun (i, xs) =>
    (if deadReads c then (xs.filter fun x => x.1.dead x.2).map fun x => { deadHit x.1 x.2 with lin := i } else [])
      ++ (if consume then xs.filterMap fun x => (x.1.mark x.2).map fun m => { markHit x.1 x.2 m with lin := i } else [])

/-- An elementwise instruction: for every active element all operands are read and consumed, and `f` gives bits and
flags. -/
def elementPlan (c : Core) (g : Guard) (td : TileCode) (xs : List Src) (f : Nat → List Nat → Nat × Nat) : Plan :=
  let h := dstRec c td
  let act := activeIx c g (recElems h)
  let hits := readHits c (act.map fun i => (i, xs.map fun x => (x, i))) true
  let rs := act.map fun i =>
    let (v, fl) := f i (xs.map fun x => x.get i)
    (⟨i, v, none, fl⟩ : Res)
  let ok := rs.filter fun r => !(hits.any fun k => k.lin == r.lin)
  ⟨hits ++ fpHits c.fmode h td.toNat ok, raisedBy rs, fun c => writeDst c td rs []⟩

end Sys2Proof.Machine
end

