-- ==== Sys2Proof/Machine/Mem.lean ====
section
/-! DEFINITION. Memory as a block accesses it: probes (R138, R139, R158, R159), loads with the block's own buffered
stores (R169), the strip buffer and its drains (R170 to R173, R188, R270), stores, and atomics at the home (R179,
R347). -/

namespace Sys2Proof.Machine

/-! ### Addresses and probes -/

/-- Where a probed address leads: an offset of the block's shared-store region, or a PA with its memory type. -/
inductive Where where
  | aper (off : Nat)
  | phys (pa mt : Nat)
  deriving DecidableEq, Repr

/-- The accessor that a block is (R148): its polder, its task's root, its CU. -/
def blockAcc (s : State) (id : BlkId) (b : Block) : Acc where
  p := id.p
  root := match taskOf s id b with
    | some (_, t) => t.root
    | none => 0
  cu := b.place.map Prod.fst
  rem := b.remDone

/-- The probe of one address, alignment apart (R138, R139, R158). -/
def probeAt (s : State) (c : Acc) (n : Need) (va : Nat) : Except Cause Where :=
  if 2 ^ 55 ≤ va then .error .xlate
  else if shBase ≤ va then .ok (.aper (va - shBase))
  else match probe s c n va with
    | .ok x => .ok (.phys x.pa x.mt)
    | .error e => .error e

/-- The probe of a tile element: MISALIGN outranks the rest (R155, R159, R245). -/
def elemProbe (s : State) (c : Acc) (n : Need) (va size : Nat) : Except Cause Where :=
  if va % size ≠ 0 then .error .misalign else probeAt s c n va

/-- The probe of a scalar access, in the order of R385 and R414. -/
def scalarProbe (s : State) (c : Acc) (n : Need) (va size : Nat) : Except Cause Where :=
  if 2 ^ 55 ≤ va then .error .xlate else if va % size ≠ 0 then .error .misalign else probeAt s c n va

/-- Device memory (R144). -/
def Where.device : Where → Bool
  | .aper _ => false
  | .phys _ mt => mt == 2

/-- The byte location k bytes on. -/
def Where.loc : Where → Nat → Loc
  | .aper off, k => .aper (off + k)
  | .phys pa _, k => .pa (pa + k)

/-- The remote target of a place, if it is one. -/
def remoteOf (s : State) (w : Where) : Option (Nat × Nat) :=
  match w with
  | .aper _ => none
  | .phys pa _ => match physTarget s pa with
    | .remote dom a => some (dom, a)
    | _ => none

/-! ### The block's own buffered stores (R169) -/

/-- Offset of a location inside a buffered entry. -/
def entryOff (e : SbEntry) (l : Loc) : Option Nat :=
  match e.loc, l with
  | .aper o, .aper a => if o ≤ a ∧ a < o + e.size then some (a - o) else none
  | .pa o, .pa a => if o ≤ a ∧ a < o + e.size then some (a - o) else none
  | _, _ => none

/-- A byte as the buffered entries leave it: value, mark, and which nibbles they give. -/
def overlayByte (sb : List SbEntry) (l : Loc) (base : Byte) : Byte × Option Mark × Nat :=
  sb.foldl (fun (v, m, cov) e => match entryOff e l with
    | none => (v, m, cov)
    | some k => match e.nibble with
      | none => (BitVec.ofNat 8 (e.val / 256 ^ k), e.mark, 3)
      | some true => ((v &&& 0x0F) ||| (BitVec.ofNat 8 (16 * e.val)), e.mark.or m, cov ||| 2)
      | some false => ((v &&& 0xF0) ||| (BitVec.ofNat 8 (e.val % 16)), e.mark.or m, cov ||| 1)) (base, none, 0)

/-- Every byte comes from the buffer. -/
def wholly (sb : List SbEntry) (w : Where) (n : Nat) : Bool :=
  (upTo n).all fun k => (overlayByte sb (w.loc k) 0).2.2 == 3

/-- Marks of the region's lines that n bytes touch (R260). -/
def sharedMark (b : Block) (off n : Nat) : Option Mark :=
  (upTo n).findSome? fun k => (mapGet b.sharedMarks ((off + k) / 16)).map Prod.fst

/-- The mark of a memory line (R261). -/
def lineMark (pa va : Nat) : Mark := .line (pa - pa % 128) (va - va % 128)

/-- The mark that marked data take when they are stored: the line they are stored to is a new source (R261). A line of the
shared store, which no PA names, stands under its VA (log 94). -/
def storedMark (w : Where) (va : Nat) : Mark :=
  match w with
  | .aper off => .line (shBase + off - off % 16) (shBase + off - off % 16)
  | .phys pa _ => lineMark pa va

/-! ### Loads -/

/-- One element to load: its VA, place and size in bytes. -/
structure LoadEl where
  va : Nat
  at_ : Where
  size : Nat
  deriving DecidableEq, Repr

/-- A value loaded, with its mark. -/
abbrev Loaded := Nat × Option Mark

/-- The bytes under an element, before the block's own stores; `res` is the causeway's answer for a remote one. -/
def baseBytes (s : State) (b : Block) (e : LoadEl) (res : Option RemResult) : Except Cause (List Byte × Option Mark) :=
  match e.at_ with
  | .aper off => .ok (memBytes b.shared off e.size, sharedMark b off e.size)
  | .phys pa _ => match physTarget s pa with
    | .remote _ _ => match res with
      | some r => if r.status = 0 then .ok (r.data, none)
          else if r.status = 2 then .ok (r.data, some (lineMark pa e.va)) else .error (remCause r.status)
      | none => .error .sluiceDown
    | _ => match physRead s [] pa e.size with
      | .ok bs poisoned => .ok (bs, if poisoned then some (lineMark pa e.va) else none)
      | .fail c => .error c
      | .need _ => .error .sluiceDown

/-- Load one element (R169). -/
def loadEl (s : State) (b : Block) (e : LoadEl) (res : Option RemResult) : Except Cause Loaded :=
  let mix (base : List Byte) : List (Byte × Option Mark × Nat) :=
    (upTo e.size).map fun k => overlayByte b.sbuf (e.at_.loc k) (base.getD k 0)
  let out (l : List (Byte × Option Mark × Nat)) (m : Option Mark) : Loaded :=
    (leNat (l.map fun x => x.1), m.or (l.findSome? fun x => x.2.1))
  if wholly b.sbuf e.at_ e.size then .ok (out (mix []) none)
  else match baseBytes s b e res with
    | .ok (bs, m) => .ok (out (mix bs) m)
    | .error c => .error c

/-- What loading some elements gives: values, a wait for the causeways, or the elements that fail. -/
inductive LoadRes where
  | done (vals : List Loaded)
  | wait (needs : List RemNeed)
  | fails (l : List (Nat × Cause))
  deriving DecidableEq, Repr

/-- The request of an element, if it needs one. -/
def loadNeed (s : State) (b : Block) (e : LoadEl) : Option RemNeed :=
  if wholly b.sbuf e.at_ e.size then none
  else (remoteOf s e.at_).map fun (dom, a) => (dom, a, RemOp.read e.size)

/-- Pair each element with its causeway result. -/
def withResults : List (LoadEl × Option RemNeed) → List (Option RemResult) → List (LoadEl × Option RemResult)
  | [], _ => []
  | (e, none) :: t, rs => (e, none) :: withResults t rs
  | (e, some _) :: t, r :: rs => (e, r) :: withResults t rs
  | (e, some _) :: t, [] => (e, none) :: withResults t []

/-- One of the places is a register, and stores to registers are still to be performed: an access waits for them (R474). -/
def awaitsRegisters (s : State) (ws : List Where) : Bool :=
  regStoresDue s && ws.any fun w => match w with
    | .aper _ => false
    | .phys pa _ => isRegister s pa

/-- Load elements in order. -/
def loadEls (s : State) (b : Block) (els : List LoadEl) : LoadRes :=
  let ns := els.map fun e => (e, loadNeed s b e)
  let (rs, miss) := settle b.remDone (ns.filterMap Prod.snd)
  if miss ≠ [] ∨ awaitsRegisters s (els.map LoadEl.at_) = true then .wait miss
  else
    let l := (withResults ns rs).map fun (e, r) => loadEl s b e r
    let bad := (l.zip (upTo l.length)).filterMap fun (x, i) => match x with
      | .ok _ => none
      | .error c => some (i, c)
    if bad ≠ [] then .fails bad
    else .done (l.filterMap fun x => match x with
      | .ok v => some v
      | .error _ => none)

/-! ### The shared-store region (R139) -/

/-- Write bytes of the region, with the mark that the data carry. A marked line is clean again once each of its bytes
has been written. -/
def setShared (b : Block) (off : Nat) (bs : List Byte) (m : Option Mark) : Block :=
  let marks := (upTo bs.length).foldl (fun ms k =>
    let ln := (off + k) / 16
    match m, mapGet ms ln with
    | some x, _ => mapPut ms ln (x, 0)
    | none, some (x, w) =>
      let w' := setBit w ((off + k) % 16) true
      if w' = 65535 then mapDel ms ln else mapPut ms ln (x, w')
    | none, none => ms) b.sharedMarks
  { b with shared := memSetBytes b.shared off bs, sharedMarks := marks, sharedTop := Nat.max b.sharedTop (off + bs.length) }

/-! ### Draining (R171, R172) -/

/-- The outcome of a drain: done; a wait (R188, R29); or a stop at an entry that fails (R270). -/
inductive DrainOut where
  | done (s : State) (b : Block)
  | wait (s : State) (b : Block) (needs : List RemNeed)
  | down (s : State) (b : Block) (va : Nat) (c : Cause)

/-- Two byte intervals overlap. -/
def overlaps (a n c m : Nat) : Bool := decide (a < c + m) && decide (c < a + n) && n != 0 && m != 0

/-- An incomplete card of the block touches these PA bytes (R188). -/
def cardHolds (s : State) (id : BlkId) (pa n : Nat) : Bool :=
  (getPolder s id.p).cards.any fun c => c.ctx == id.ctx && (c.rdPa ++ c.wrPa).any fun r => overlaps r.pa r.len pa n

/-- The byte that a nibble store leaves (R420). -/
def nibbleByte (hi : Bool) (val : Nat) (old : Byte) : Byte :=
  if hi then (old &&& 0x0F) ||| BitVec.ofNat 8 (16 * val) else (old &&& 0xF0) ||| BitVec.ofNat 8 (val % 16)

/-- The block forgets what the causeways have answered about a remote address. -/
def dropAnswers (b : Block) (dom a : Nat) : Block := { b with remDone := b.remDone.filter fun r => !(r.dom == dom && r.addr == a) }

/-- The answer to the latest compare-and-swap at a remote address. -/
def casAnswer (b : Block) (dom a : Nat) : Option RemResult :=
  b.remDone.find? fun r => r.dom == dom && r.addr == a && (match r.op with
    | .atomic _ _ _ _ => true
    | _ => false)

/-- A half byte at a remote home (R420): a read of its aligned four bytes, and compare-and-swap until that has found what
it was given (R25, log 68). A poisoned line, on which no compare-and-swap is performed, takes a write of the byte. -/
def remoteNibble (s : State) (b : Block) (e : SbEntry) (hi : Bool) (dom addr : Nat) : DrainOut :=
  let k := 8 * (addr % 4)
  let a := addr - addr % 4
  let cas (old : Nat) : RemOp :=
    .atomic 10 false (withField old (k + 7) k (nibbleByte hi e.val (BitVec.ofNat 8 (field old (k + 7) k))).toNat) old
  match casAnswer b dom a with
  | some r =>
    let old := leNat (r.data.take 4)
    if r.status = 2 then .wait s (dropAnswers b dom a) [(dom, a, .read 4)]
    else if r.status ≠ 0 then .down s b e.va (remCause r.status)
    else if r.op = cas old then .done s (dropAnswers b dom a)
    else .wait s (dropAnswers b dom a) [(dom, a, cas old)]
  | none => match remDo s b.remDone dom a (.read 4) with
    | .ok bs true => match remDo s b.remDone dom addr (.write [nibbleByte hi e.val (bs.getD (addr % 4) 0)]) with
      | .ok _ _ => .done s (dropAnswers (dropAnswers b dom a) dom addr)
      | .fail c => .down s b e.va c
      | .need r => .wait s b [r]
    | .ok bs false => .wait s b [(dom, a, cas (leNat bs))]
    | .fail c => .down s b e.va c
    | .need r => .wait s b [r]

/-- A write to the PCIe space counts for the next system-scope release (R175). -/
def notePcie (s : State) (pa : Nat) (b : Block) : Block :=
  match physTarget s pa with
  | .bus a => { b with pcie := b.pcie ++ [Config.pcieTarget a] }
  | _ => b

/-- Write bytes of an entry at a PA. -/
def performBytes (s : State) (b : Block) (e : SbEntry) (pa : Nat) (bs : List Byte) : DrainOut :=
  match physWrite s b.remDone pa bs e.mark.isSome with
  | .ok s' => match physTarget s pa with
    | .remote dom a => .done s' (dropAnswers b dom a)
    | _ => .done s' (notePcie s pa b)
  | .fail c => .down s b e.va c
  | .need r => .wait s b [r]

/-- Perform one element's write. -/
def performAt (s : State) (id : BlkId) (b : Block) (e : SbEntry) : DrainOut :=
  match e.loc with
  | .aper off =>
    let bs := match e.nibble with
      | none => leBytes e.size e.val
      | some hi => [nibbleByte hi e.val (memByte b.shared off)]
    .done s (setShared b off bs e.mark)
  | .pa pa =>
    if lostSluice s id.p pa then .down s b e.va .sluiceDown
    else match e.nibble with
      | none => performBytes s b e pa (leBytes e.size e.val)
      | some hi => match physTarget s pa with
        | .remote dom a => remoteNibble s b e hi dom a
        | _ => if regStoresDue s && isRegister s pa then .wait s b [] else match physRead s [] pa 1 with
          | .ok bs _ => performBytes s b e pa [nibbleByte hi e.val (bs.getD 0 0)]
          | .fail c => .down s b e.va c
          | .need r => .wait s b [r]

/-- Perform one buffered entry; an incomplete card of the block that touches its bytes comes first (R188). -/
def performEntry (s : State) (id : BlkId) (b : Block) (e : SbEntry) : DrainOut :=
  match e.loc with
  | .aper _ => performAt s id b e
  | .pa pa => if cardHolds s id pa e.size then .wait s b [] else performAt s id b e

/-- Perform entries in order; `keep` are the entries that stay buffered behind them. -/
def drainSome : List SbEntry → List SbEntry → State → BlkId → Block → DrainOut
  | [], keep, s, _, b => .done s { b with sbuf := keep }
  | e :: t, keep, s, id, b =>
    match performEntry s id b e with
    | .done s' b' => drainSome t keep s' id b'
    | .wait s' b' r => .wait s' { b' with sbuf := e :: t ++ keep } r
    | .down s' b' va c => .down s' { b' with sbuf := e :: t ++ keep } va c

/-- An early drain that has performed an entry makes the strip non-rewindable (R171). -/
def early (b0 b : Block) : Block := if b.sbuf.length < b0.sbuf.length then nonRewindable b else b

/-- An early drain of the first n entries. A half that goes ahead of the block leaves them to the block (log 16). -/
def earlyDrain (s : State) (id : BlkId) (b : Block) (n : Nat) : DrainOut :=
  if b.runsAhead then .done s b
  else match drainSome (b.sbuf.take n) (b.sbuf.drop n) s id b with
  | .done s' b' => .done s' (early b b')
  | .wait s' b' r => .wait s' (early b b') r
  | .down s' b' va c => .down s' (early b b') va c

/-- The whole buffer drains early; every earlier access of the block has then been performed. -/
def release (s : State) (id : BlkId) (b : Block) : DrainOut := earlyDrain s id b b.sbuf.length

/-- A zero-length read goes to each of some PCIe targets (R175). Its completion comes at once, as every answer of the bus
does in the model (log 67). -/
def zeroReads (s : State) (ts : List Nat) : State := updDev s fun d => { d with out := d.out ++ ts.eraseDups.map HostOut.zeroRead }

/-- A release at a scope (R175). -/
def releaseAt (s : State) (id : BlkId) (b : Block) (sc : Scope) : DrainOut :=
  match release s id b with
  | .done s' b' =>
    if sc = .sys ∧ b'.pcie ≠ [] then .done (zeroReads s' b'.pcie) { b' with pcie := [] } else .done s' b'
  | r => r

/-- The requester that a block is. -/
def blockReq (id : BlkId) : Requester := .block id.p id.ctx

/-- The instruction waits, with requests to send (R29). It has begun its accesses, so that it will complete before its
block is at rest (R252). -/
def holdAsk (s : State) (id : BlkId) (b : Block) (needs : List RemNeed) : Out :=
  .next (askAll (setBlock s id { b with waiting := true, begun := true }) (blockReq id) needs)

/-- A fetch awaits the causeways: nothing of the instruction has begun. -/
def holdFetch (s : State) (id : BlkId) (b : Block) (r : RemNeed) : Out :=
  .next (askAll (setBlock s id { b with waiting := true }) (blockReq id) [r])

/-- Go on after a drain, wait, or trap at the drain point (R270). -/
def afterDrain (id : BlkId) (r : DrainOut) (k : State → Block → Out) : Out :=
  match r with
  | .done s b => k s b
  | .wait s b needs => holdAsk s id b needs
  | .down s b va c => raiseAt s id b c true va

/-- A place overlaps a buffered byte. -/
def hitsBuffer (sb : List SbEntry) (w : Where) (n : Nat) : Bool :=
  sb.any fun e => match e.loc, w with
    | .aper o, .aper a => overlaps o e.size a n
    | .pa o, .phys a _ => overlaps o e.size a n
    | _, _ => false

/-- The drain that an unbuffered access of these places causes (R171). -/
def overlapDrain (s : State) (id : BlkId) (b : Block) (ws : List (Where × Nat)) : DrainOut :=
  if ws.any fun w => hitsBuffer b.sbuf w.1 w.2 then release s id b else .done s b

/-! ### Stores (R170 to R172, R158) -/

/-- One element to store: its index, VA, place, size, bits, half byte, mark. -/
structure StoreEl where
  ix : Nat
  va : Nat
  at_ : Where
  size : Nat
  val : Nat
  nibble : Option Bool
  mark : Option Mark
  deriving DecidableEq, Repr

/-- An entry and the next one are the two halves of one byte. -/
def sameByte (e : SbEntry) (t : List SbEntry) : Bool :=
  match t with
  | f :: _ => e.nibble.isSome && f.nibble.isSome && e.nibble != f.nibble && decide (e.loc = f.loc)
  | [] => false

/-- Bytes that entries hold; the two halves of a byte that follow one another hold it once (DEDUCED, log 92). -/
def bufBytes : List SbEntry → Nat
  | [] => 0
  | e :: t => bufBytes t + if sameByte e t then 0 else e.size

/-- Capacity of the strip buffer (R170). -/
def bufCap : Nat := 262144

/-- Number of leading entries to perform until the rest fits. -/
def overflowCount : List SbEntry → Nat
  | [] => 0
  | e :: t => if bufBytes (e :: t) ≤ bufCap then 0 else 1 + overflowCount t

/-- The buffered entry of an element, whose mark is a new source (R261). -/
def StoreEl.entry (e : StoreEl) : SbEntry := ⟨e.va, e.at_.loc 0, e.size, e.val, e.nibble, e.mark.map fun _ => storedMark e.at_ e.va⟩

/-- The entries of a store that is larger than the buffer stand in it: the leading ones drain until the rest fits. -/
def drainOverflow (s : State) (id : BlkId) (b : Block) : DrainOut := earlyDrain s id b (overflowCount b.sbuf)

/-- Put entries into the strip buffer: on overflow everything before drains first, and a store larger than the buffer
drains in parts (R171). -/
def bufferAll (s : State) (id : BlkId) (b : Block) (es : List SbEntry) : DrainOut :=
  if b.runsAhead ∨ bufBytes b.sbuf + bufBytes es ≤ bufCap then .done s { b with sbuf := b.sbuf ++ es }
  else match release s id b with
    | .done s' b' => drainOverflow s' id { b' with sbuf := es, stored := true }
    | r => r

/-- What a store gives: a drain's outcome, or the device element that fails. -/
inductive StoreOut where
  | ok (r : DrainOut)
  | fails (s : State) (b : Block) (l : List (Nat × Cause))

/-- Elements in ascending index, those of one index in the order given. -/
def ascending (l : List StoreEl) : List StoreEl := l.foldr (placeBy fun x y => decide (x.ix ≤ y.ix)) []

/-- Perform device elements in the order given; `devDone` counts those that have been performed. -/
def performDevice : List StoreEl → State → BlkId → Block → StoreOut
  | [], s, _, b => .ok (.done s b)
  | e :: t, s, id, b => match performAt s id b e.entry with
    | .done s' b' => performDevice t s' id (nonRewindable { b' with devDone := b'.devDone + 1 })
    | .wait s' b' r => .ok (.wait s' b' r)
    | .down s' b' _ c => .fails s' b' [(e.ix, c)]

/-- Store probed elements, given in commit order: device elements are performed at once, in ascending index (R144), after
the drain that their footprint may cause (R171); the others enter the buffer. A half that goes ahead leaves device elements to
the block (log 16). -/
def storeEls (s : State) (id : BlkId) (b : Block) (els : List StoreEl) : StoreOut :=
  let dev := ascending (els.filter fun e => e.at_.device)
  let norm := (els.filter fun e => !e.at_.device).map StoreEl.entry
  if b.runsAhead then .ok (bufferAll s id b norm)
  else if b.stored then .ok (drainOverflow s id b)
  else match overlapDrain s id b (dev.map fun e => (e.at_, e.size)) with
    | .done s1 b1 => match performDevice (dev.drop b1.devDone) s1 id b1 with
      | .ok (.done s2 b2) => .ok (bufferAll s2 id b2 norm)
      | r => r
    | r => .ok r

/-- Go on after a store, with the meaning of a failing device element. -/
def afterStore (id : BlkId) (r : StoreOut) (bad : State → Block → List (Nat × Cause) → Out) (k : State → Block → Out) : Out :=
  match r with
  | .ok x => afterDrain id x k
  | .fails s b l => bad s b l

/-- Device loads make the strip non-rewindable (R171). -/
def afterLoad (els : List LoadEl) (b : Block) : Block :=
  if els.any fun e => e.at_.device then nonRewindable b else b

/-- The drain before loads of device memory that overlap a buffered byte (R171). -/
def loadDrain (s : State) (id : BlkId) (b : Block) (els : List LoadEl) : DrainOut :=
  overlapDrain s id b ((els.filter fun e => e.at_.device).map fun e => (e.at_, e.size))

/-! ### Atomics (R179, R347) -/

/-- FAddAtomic (R347): RNE, subnormals kept, no flag. -/
def fAddAtomic (dbl : Bool) (x y : Nat) : Nat :=
  let f := if dbl then fmtF64 else fmtF32
  (fAdd f ⟨.rne, false, true⟩ (f.val false x) (f.val false y)).1

/-- The new value of a fetch-and-operate (R347), by the funct code of R346. -/
def amoNew (fn : Nat) (dbl : Bool) (old v : Nat) : Nat :=
  let w := if dbl then 64 else 32
  match fn with
  | 0 => (old + v) % 2 ^ w
  | 1 => old &&& v
  | 2 => old ||| v
  | 3 => old ^^^ v
  | 4 => if toInt w old ≤ toInt w v then old else v
  | 5 => if toInt w old ≤ toInt w v then v else old
  | 6 => Nat.min old v
  | 7 => Nat.max old v
  | 8 => v
  | _ => fAddAtomic dbl old v

/-- What the location holds afterwards; none where a compare-and-swap (funct 10) does not match (R350). -/
def amoWrite (fn : Nat) (dbl : Bool) (old v cmp : Nat) : Option Nat :=
  if fn = 10 then (if old = cmp then some v else none) else some (amoNew fn dbl old v)

/-- What an atomic gives. -/
inductive AmoRes where
  | ok (s : State) (b : Block) (old : Nat)
  | fail (c : Cause)

/-- PCIe space takes FetchAdd, Swap and CAS alone (R179). -/
def amoAllowed (s : State) (w : Where) (fn : Nat) : Bool :=
  match w with
  | .aper _ => true
  | .phys pa _ => match physTarget s pa with
    | .bus _ => fn == 0 || fn == 8 || fn == 10
    | _ => true

/-- The completer of a bus address answers AtomicOps with Unsupported Request (R179). -/
def refusesAtomics (s : State) (pa : Nat) : Bool :=
  match physTarget s pa with
  | .bus a => s.dev.noAtomic.any fun r => decide (r.1 ≤ a) && decide (a < r.1 + r.2)
  | _ => false

/-- The mark of an atomic's location, for the local places and for a remote answer with POISON. -/
def amoMark (s : State) (b : Block) (w : Where) (va size : Nat) (res : Option RemResult) : Option Mark :=
  match w with
  | .aper off => sharedMark b off size
  | .phys pa _ => match physTarget s pa with
    | .hbm a => if (poisonIn s a size).isSome then some (lineMark pa va) else none
    | .remote _ _ => match res with
      | some r => if r.status = 2 then some (lineMark pa va) else none
      | none => none
    | _ => none

/-- Perform an atomic at its home. -/
def amoDo (s : State) (b : Block) (w : Where) (fn : Nat) (dbl : Bool) (v cmp : Nat) (res : Option RemResult) : AmoRes :=
  let n := if dbl then 8 else 4
  match w with
  | .aper off =>
    let old := memNat b.shared off n
    match amoWrite fn dbl old v cmp with
    | some x => .ok s (setShared b off (leBytes n x) none) old
    | none => .ok s b old
  | .phys pa _ =>
    match physTarget s pa with
    | .remote _ _ => match res with
      | some r => if r.status = 0 then .ok s b (leNat (r.data.take n)) else .fail (remCause r.status)
      | none => .fail .sluiceDown
    | _ => if refusesAtomics s pa then .fail .perm else match physRead s [] pa n with
      | .ok bs _ =>
        let old := leNat bs
        match amoWrite fn dbl old v cmp with
        | some x => match physWrite s [] pa (leBytes n x) false with
          | .ok s' => .ok s' (notePcie s pa b) old
          | .fail c => .fail c
          | .need _ => .fail .sluiceDown
        | none => .ok s b old
      | .fail c => .fail c
      | .need _ => .fail .sluiceDown

/-- The request of an atomic, if it is remote. -/
def amoNeed (s : State) (w : Where) (fn : Nat) (dbl : Bool) (v cmp : Nat) : Option RemNeed :=
  (remoteOf s w).map fun (dom, a) => (dom, a, RemOp.atomic fn dbl v cmp)

end Sys2Proof.Machine
end

