-- ==== Sys2Proof/Machine/Region.lean ====
section
/-! DEFINITION. Regions of memory: whole VA intervals read or written piece by piece, by a block with its own stores
(R169), and by engines, the command processor and adapter fetches from performed memory (R150, R158). -/

namespace Sys2Proof.Machine

/-! ### Pieces -/

/-- Cut an interval at the 128-byte lines (R147): address and size of each piece. -/
def pieceFrom : Nat → Nat → Nat → List (Nat × Nat)
  | 0, _, _ => []
  | fuel + 1, va, n =>
    if n = 0 then []
    else
      let k := Nat.min n (128 - va % 128)
      (va, k) :: pieceFrom fuel (va + k) (n - k)

/-- The pieces of an interval. -/
def pieces128 (va n : Nat) : List (Nat × Nat) := pieceFrom (n / 128 + 2) va n

/-- The failing address is lower. -/
def lowerFault (x y : Cause × Nat) : Cause × Nat := if x.2 ≤ y.2 then x else y

/-- The fault at the lowest address. -/
def lowestFault : List (Cause × Nat) → Option (Cause × Nat)
  | [] => none
  | x :: t => some (t.foldl lowerFault x)

/-! ### By a block -/

/-- The place k bytes on. -/
def Where.add : Where → Nat → Where
  | .aper off, k => .aper (off + k)
  | .phys pa mt, k => .phys (pa + k) mt

/-- A piece of an interval with the number of its elements, by their size in bits. -/
def counted (width : Nat) (l : List (Nat × Nat)) : List (Nat × Nat × Nat) := l.map fun (va, k) => (va, k, 8 * k / width)

/-- A piece of a device page is read or written element by element, each an access of its own size (R144). -/
def byElement (size : Nat) (e : LoadEl) : List LoadEl :=
  if e.at_.device ∧ 0 < size then (upTo (e.size / size)).map fun k => ⟨e.va + k * size, e.at_.add (k * size), size⟩ else [e]

/-- Probe pieces as a block's access: every piece with its place, device pages by elements of a size, or the lowest-addressed
fault with TCAUSE.MORE, which other elements that fault set (R118, R155, R158, log 95). -/
def probePieces (s : State) (c : Acc) (n : Need) (size : Nat) (l : List (Nat × Nat × Nat)) : Except ((Cause × Nat) × Bool) (List LoadEl) :=
  let r := l.map fun (va, k, els) => match probeAt s c n va with
    | .ok w => (none, byElement size ⟨va, w, k⟩)
    | .error e => (some ((e, va), els), [])
  let bad := r.filterMap Prod.fst
  match lowestFault (bad.map Prod.fst) with
  | some f => .error (f, decide (1 < bad.foldl (fun m x => m + x.2) 0))
  | none => .ok (r.flatMap Prod.snd)

/-- Raise the fault of an interval, which names no element. -/
def raiseSpan (s : State) (id : BlkId) (b : Block) (f : (Cause × Nat) × Bool) : Out :=
  raise s id b { plainTrap f.1.1 true f.1.2 with more := f.2 }

/-- Fill the TLB for accesses that were translated (R153). -/
def fillEls (s : State) (c : Acc) (els : List LoadEl) : State :=
  tlbFillAll s c (els.filterMap fun e => match e.at_ with
    | .aper _ => none
    | .phys _ _ => some e.va)

/-- What reading an interval gives: bytes and the mark of each piece by its first offset; a wait; a fault. -/
inductive SpanRes where
  | ok (bytes : List Byte) (marks : List (Nat × Nat × Mark))
  | wait (needs : List RemNeed)
  | fail (f : (Cause × Nat) × Bool)
  deriving DecidableEq, Repr

/-- Join loaded pieces. -/
def joinPieces : List LoadEl → List Loaded → Nat → List Byte × List (Nat × Nat × Mark)
  | e :: es, (v, m) :: vs, off =>
    let (bs, ms) := joinPieces es vs (off + e.size)
    (leBytes e.size v ++ bs, match m with
      | some x => (off, e.size, x) :: ms
      | none => ms)
  | _, _, _ => ([], [])

/-- Load probed pieces (R169); `count` gives the elements of a piece by its bytes. -/
def loadPieces (s : State) (b : Block) (count : Nat → Nat) (els : List LoadEl) : SpanRes :=
  match loadEls s b els with
  | .done vs => let (bs, ms) := joinPieces els vs 0
    .ok bs ms
  | .wait r => .wait r
  | .fails l => match lowestFault (l.map fun (i, c) => (c, (els[i]?.map LoadEl.va).getD 0)) with
    | some f => .fail (f, decide (1 < l.foldl (fun m x => m + count ((els[x.1]?.map LoadEl.size).getD 0)) 0))
    | none => .wait []

/-- The first mark over an interval of offsets. -/
def markOver (ms : List (Nat × Nat × Mark)) (off n : Nat) : Option Mark :=
  ms.findSome? fun (o, k, m) => if overlaps o k off n then some m else none

/-! ### By engines, the command processor and adapter fetches -/

/-- What reading performed memory gives: bytes with the VAs of poisoned pieces. -/
inductive MemRes where
  | ok (bytes : List Byte) (poison : List Nat)
  | fail (c : Cause) (va : Nat)
  | need (rs : List RemNeed)
  deriving DecidableEq, Repr

/-- Put the results of pieces together. -/
def gatherPieces : List (Nat × Nat × Except Cause PhysRes) → List Byte → List Nat → List RemNeed → Option (Cause × Nat) →
    MemRes
  | [], bs, ps, rs, f => match f with
    | some (c, va) => .fail c va
    | none => if rs = [] then .ok bs ps else .need rs
  | (va, _, .error c) :: t, bs, ps, rs, f => gatherPieces t bs ps rs (some (f.getD (c, va)))
  | (va, _, .ok r) :: t, bs, ps, rs, f => match r with
    | .ok x p => gatherPieces t (bs ++ x) (if p then ps ++ [va] else ps) rs f
    | .fail c => gatherPieces t bs ps rs (some (f.getD (c, va)))
    | .need n => gatherPieces t bs ps (rs ++ [n]) f

/-- Read n bytes from a VA as an accessor. -/
def readMem (s : State) (c : Acc) (va n : Nat) : MemRes :=
  gatherPieces ((pieces128 va n).map fun (v, k) =>
    (v, k, match probe s c needRd v with
      | .ok x => .ok (physRead s c.rem x.pa k)
      | .error e => .error e)) [] [] [] none

/-- The remote request of an access at a place. -/
def remoteAt (s : State) (pa : Nat) (op : RemOp) : Option RemNeed :=
  match physTarget s pa with
  | .remote d a => some (d, a, op)
  | _ => none

/-- The remote requests that reading an interval makes. -/
def readNeeds (s : State) (c : Acc) (va n : Nat) : List RemNeed :=
  (pieces128 va n).filterMap fun (v, k) => match probe s c needRd v with
    | .ok x => remoteAt s x.pa (.read k)
    | .error _ => none

/-- Read n bytes for a requester to which poison is a failure: PERM, at the first poisoned piece (R29, log 75). -/
def readClean (s : State) (c : Acc) (va n : Nat) : MemRes :=
  match readMem s c va n with
  | .ok _ (v :: _) => .fail .perm v
  | r => r

/-- Read a number of n bytes, when that needs nothing and meets no fault. -/
def readNat (s : State) (c : Acc) (va n : Nat) : Option Nat :=
  match readMem s c va n with
  | .ok bs _ => some (leNat bs)
  | _ => none

/-- Probe an interval; the first fault. -/
def probeMem (s : State) (c : Acc) (n : Need) (va k : Nat) : Option (Cause × Nat) :=
  (pieces128 va k).findSome? fun (v, _) => match probe s c n v with
    | .ok _ => none
    | .error e => some (e, v)

/-- What writing performed memory gives. -/
inductive MemWrite where
  | ok (s : State)
  | fail (c : Cause) (va : Nat)
  | need (rs : List RemNeed)
  deriving DecidableEq, Repr

/-- Write pieces that have been probed; stop at a fault. -/
def writePieces (c : Acc) (marked : Bool) : List (Nat × Nat) → List Byte → State → List RemNeed → MemWrite
  | [], _, s, rs => if rs = [] then .ok s else .need rs
  | (va, k) :: t, bs, s, rs => match probe s c needWr va with
    | .error e => .fail e va
    | .ok x => match physWrite s c.rem x.pa (bs.take k) marked with
      | .ok s' => writePieces c marked t (bs.drop k) s' rs
      | .fail e => .fail e va
      | .need r => writePieces c marked t (bs.drop k) s (rs ++ [r])

/-- Write bytes from a VA as an accessor, after probing all of it. -/
def writeMem (s : State) (c : Acc) (va : Nat) (bs : List Byte) (marked : Bool) : MemWrite :=
  match probeMem s c needWr va bs.length with
  | some (e, v) => .fail e v
  | none => writePieces c marked (pieces128 va bs.length) bs s []

/-- The remote requests that writing bytes makes. -/
def writeNeeds (s : State) (c : Acc) (va : Nat) (bs : List Byte) : List RemNeed :=
  (pieces128 va bs.length).filterMap fun (v, k) => match probe s c needWr v with
    | .ok x => remoteAt s x.pa (.write ((bs.drop (v - va)).take k))
    | .error _ => none

end Sys2Proof.Machine
end

