-- ==== Sys2Proof/Machine/Image.lean ====
section
/-! DEFINITION. Memory images of tiles and queues (R72, R161, R387, R388), probes of their elements (R155, R158), the
fault-only-first rule and trims (R156, R157). -/

namespace Sys2Proof.Machine

/-! ### Where elements lie -/

/-- An element in memory: index, VA, bytes, its lowest bit in them, and the VA of its scale byte. -/
structure MemEl where
  ix : Nat
  va : Nat
  size : Nat
  shift : Nat
  scale : Option Nat
  deriving DecidableEq, Repr

/-- Modulo 2^64. -/
def wrap64 (x : Nat) : Nat := x % 2 ^ 64

/-- Bytes of an element's access. -/
def accBytes (t : ElemType) : Nat := Nat.max 1 (typeWidth t / 8)

/-- Bytes of a block and of a unit of an MX-interleaved row (R161). -/
def mxBlock (t : ElemType) : Nat := 4 * typeWidth t
/-- Bytes of a whole unit. -/
def mxUnit (t : ElemType) : Nat := 64 + 64 * mxBlock t

/-- Byte length of an MX-interleaved row. -/
def mxRowLen (t : ElemType) (cols : Nat) : Nat :=
  let nb := ceilDiv cols 32
  let u := ceilDiv nb 64
  if u = 0 then 0 else (u - 1) * mxUnit t + 64 + (nb - 64 * (u - 1)) * mxBlock t

/-- The default row stride of an image (R72, R388). -/
def defaultStride (h : ShapeRec) : Nat :=
  if isMx h.ty then ceilDiv (mxRowLen h.ty h.gc) 64 * 64 else rowBytes h.gc (typeWidth h.ty)

/-- Bit offset of element (r, c) of an image that is not mx (R72). -/
def imageBit (h : ShapeRec) (stride r c : Nat) : Nat :=
  let w := typeWidth h.ty
  match h.lay with
  | .rowMajor => r * stride * 8 + c * w
  | .colMajor => (c * recRows h + r) * w
  | .swizzled =>
    let b := rowBytes h.gc w
    let k := Nat.min 8 (b / 32)
    let x := c * w / 8
    if k = 0 then r * b * 8 + c * w
    else (r * b + ((x / 32) ^^^ (r % k)) * 32 + x % 32) * 8 + c * w % 8

/-- Element i of an image (R161, R388). -/
def imageEl (h : ShapeRec) (base stride i : Nat) : MemEl :=
  let r := i / h.gc
  let c := i % h.gc
  if isMx h.ty then
    let row := base + r * stride + (c / 32 / 64) * mxUnit h.ty
    let q := c / 32 % 64
    let x := c % 32 * typeWidth h.ty
    ⟨i, wrap64 (row + 64 + q * mxBlock h.ty + x / 8), 1, x % 8, some (wrap64 (row + q))⟩
  else
    let x := imageBit h stride r c
    ⟨i, wrap64 (base + x / 8), accBytes h.ty, x % 8, none⟩

/-- Element i of a strided run (R387, R417); a 4-bit run is packed. -/
def runEl (h : ShapeRec) (base : Nat) (stride : Int) (i : Nat) : MemEl :=
  if typeWidth h.ty = 4 then ⟨i, wrap64 (base + i / 2), 1, 4 * (i % 2), none⟩
  else ⟨i, ofInt 64 ((base : Int) + (i : Int) * stride), accBytes h.ty, 0, none⟩

/-- An element at an index of a gather or scatter (R386). -/
def gatherEl (h : ShapeRec) (base : Nat) (j : Int) (scale i : Nat) : MemEl :=
  ⟨i, ofInt 64 ((base : Int) + j * ((2 ^ scale : Nat) : Int)), accBytes h.ty, 0, none⟩

/-! ### Probes -/

/-- A probed element: the places of its bytes and of its scale. -/
structure Probed where
  el : MemEl
  at_ : Where
  scaleAt : Option Where
  deriving DecidableEq, Repr

/-- A cause of an element, at the named operand. -/
def memHit (h : ShapeRec) (code i : Nat) (c : Cause) (va : Nat) : Hit := ⟨i, c, none, coordAt h code i, va⟩

/-- The causes of an element's access, all of them (R245). A misaligned element may reach a second page, or beyond the
aperture (R139). -/
def elCauses (s : State) (c : Acc) (n : Need) (h : ShapeRec) (code : Nat) (e : MemEl) : List Hit :=
  let mis := if e.va % e.size ≠ 0 then [memHit h code e.ix .misalign e.va] else []
  let bad (va : Nat) : List Hit := match probeAt s c n va with
    | .ok _ => []
    | .error x => [memHit h code e.ix x va]
  mis ++ bad e.va ++ (if mis.isEmpty then [] else bad (e.va + e.size - 1)) ++ (match e.scale with
    | some va => bad va
    | none => [])

/-- Where a probed address leads, or nowhere. -/
def placeOf (s : State) (c : Acc) (n : Need) (va : Nat) : Option Where :=
  match probeAt s c n va with
  | .ok w => some w
  | .error _ => none

/-- The places of an element without causes. -/
def probedOf (s : State) (c : Acc) (n : Need) (e : MemEl) : Option Probed :=
  match placeOf s c n e.va with
  | some w => some ⟨e, w, e.scale.bind (placeOf s c n)⟩
  | none => none

/-- A page of the footprint is device memory. -/
def touchesDevice (l : List Probed) : Bool := l.any fun p => p.at_.device || p.scaleAt.any Where.device

/-! ### Fault-only-first and trims (R156, R157) -/

/-- A destination record that makes a load fault-only-first. -/
def fofRec (h : ShapeRec) : Bool := h.g == 0 && h.reqr == 0 && h.reqc == 0

/-- gr' and gc' for a fault at element k. -/
def trimTo (h : ShapeRec) (k : Nat) : Nat × Nat := if h.gc ≤ k then (k / h.gc, h.gc) else (1, k)

/-- A trim of the grant. -/
def trimCore (c : Core) (gr gc : Nat) : Core :=
  let recs := c.recs.map fun h => { h with gr := if h.reqr = 0 then Nat.min h.gr gr else h.gr,
                                           gc := if h.reqc = 0 then Nat.min h.gc gc else h.gc }
  let c1 := { c with recs := recs, gr := gr, gc := gc }
  match c.shapeD with
  | none => c1
  | some d => [false, true].foldl (fun c side =>
      let c := regSet c side d (BitVec.ofNat 64 gr)
      let c := regSet c side (d + 1) (BitVec.ofNat 64 gc)
      regSet c side (d + 2) (BitVec.ofNat 64 (gr * gc))) c1

/-- What a load does about its causes: nothing, a trim at an element, or a trap. -/
inductive LoadPlan where
  | whole
  | trim (k : Nat)
  | stop
  deriving DecidableEq, Repr

/-- Choose by the lowest cause; `first` is element 0 of R156, the only one that can make such a load trap. -/
def planLoad (h : ShapeRec) (first : Nat) (hits : List Hit) : LoadPlan :=
  match firstHit hits with
  | none => .whole
  | some x => if fofRec h ∧ first < x.lin then .trim x.lin else .stop

/-! ### Loading elements -/

/-- The accesses of probed elements: each element's bytes, and the scale byte of a block with its first element. -/
def loadList (h : ShapeRec) : List Probed → List Nat → List (Nat × Bool × LoadEl)
  | [], _ => []
  | p :: t, seen =>
    let main := (p.el.ix, false, (⟨p.el.va, p.at_, p.el.size⟩ : LoadEl))
    let blk := p.el.ix / h.gc * 512 + p.el.ix % h.gc / 32
    match p.el.scale, p.scaleAt with
    | some va, some w =>
      if seen.contains blk then main :: loadList h t seen
      else main :: (p.el.ix, true, ⟨va, w, 1⟩) :: loadList h t (blk :: seen)
    | _, _ => main :: loadList h t seen

/-- What a load brings: results, and scales by row and block. -/
structure LoadOut where
  rs : List Res
  sc : List (Nat × Nat × Nat)
  deriving DecidableEq, Repr

/-- Results from the loaded values. A scale's mark joins the chunk of its element (R386). -/
def loadOut (h : ShapeRec) (els : List MemEl) : List ((Nat × Bool × LoadEl) × Loaded) → LoadOut
  | [] => ⟨[], []⟩
  | ((i, sc, _), (v, m)) :: t =>
    let o := loadOut h els t
    if sc then
      let rs := match m with
        | some x => mapIf (fun r : Res => r.lin == i) (fun r => { r with mark := r.mark.or (some x) }) o.rs
        | none => o.rs
      ⟨rs, (i / h.gc, i % h.gc / 32, v) :: o.sc⟩
    else
      let sh := ((els.find? fun e => e.ix == i).map MemEl.shift).getD 0
      let carry := if m.isSome then m else t.findSome? fun x => if x.1.1 = i ∧ x.1.2.1 then x.2.2 else none
      ⟨⟨i, v / 2 ^ sh % 2 ^ typeWidth h.ty, carry, 0⟩ :: o.rs, o.sc⟩

/-- The lowest cause is a consumption that rewinds the strip, whatever the load may trim (R261, R386, log 49). -/
def rewinds (b : Block) (hits : List Hit) : Bool := (firstHit hits).any fun x => x.mark.any (rewindOk b)

/-- Load the active elements of a destination (R386): causes decide, then the elements below the trim are loaded. The
continuation takes the record in force, whether a trim took place, and the values. `room` says whether the
destination can take the given number of rows; `first` is element 0 of R156. -/
def loadUpTo (s : State) (id : BlkId) (b : Block) (h : ShapeRec) (code first : Nat) (els : List MemEl) (hits : List Hit)
    (room : Nat → Bool) (k : State → Block → Bool → ShapeRec → LoadOut → Out) : Nat → Out
  | 0 => holdOn s id b
  | fuel + 1 =>
    let acc := blockAcc s id b
    let go (lim : Option Nat) : Out :=
      let (gr, gc) := match lim with
        | some x => trimTo h x
        | none => (h.gr, h.gc)
      let h' := { h with gr := gr, gc := gc }
      let mine := match lim with
        | some _ => els.filter fun e => decide (e.ix < gr * gc)
        | none => els
      if !room (recRows h') then holdOn s id b
      else
        let ls := loadList h (mine.filterMap (probedOf s acc needRd)) []
        let flat := ls.map fun x => x.2.2
        afterDrain id (loadDrain s id b flat) fun s1 b1 => match loadEls s1 b1 flat with
          | .wait r => holdAsk s1 id b1 r
          | .fails l =>
            let more := l.map fun (i, c) => match ls[i]? with
              | some (ix, _, e) => memHit h code ix c e.va
              | none => memHit h code first c 0
            loadUpTo s1 id b1 h code first els (hits ++ more) room k fuel
          | .done vs => k (fillEls s1 acc flat) (afterLoad flat b1) lim.isSome h' (loadOut h mine (ls.zip vs))
    match planLoad h first hits with
    | .whole => go none
    | .trim x => if rewinds b hits then conclude s id b true hits 0 (holdOn s id b) else go (some x)
    | .stop => conclude s id b true hits 0 (holdOn s id b)

/-- A load from its probe on; `other` are causes that are no faults of the access. -/
def loadOp (s : State) (id : BlkId) (b : Block) (h : ShapeRec) (code : Nat) (els : List MemEl) (other : List Hit)
    (room : Nat → Bool) (k : State → Block → Bool → ShapeRec → LoadOut → Out) : Out :=
  let hits := els.flatMap (elCauses s (blockAcc s id b) needRd h code)
  loadUpTo s id b h code ((els.map MemEl.ix).headD 0) els (other ++ hits) room k 3

/-! ### Storing elements -/

/-- A value to store at an element: bits and mark. -/
structure StoreVal where
  el : MemEl
  val : Nat
  mark : Option Mark
  scale : Nat
  deriving DecidableEq, Repr

/-- The store of one element; a 4-bit one reaches half a byte (R420). -/
def storeMain (h : ShapeRec) (v : StoreVal) (w : Where) : StoreEl :=
  ⟨v.el.ix, v.el.va, w, v.el.size, v.val, if typeWidth h.ty = 4 then some (decide (v.el.shift = 4)) else none, v.mark⟩

/-- Stores in commit order, the scale byte of a block just before its first element (R420). -/
def storeList (s : State) (c : Acc) (h : ShapeRec) : List StoreVal → List Nat → List StoreEl
  | [], _ => []
  | v :: t, seen =>
    match placeOf s c needWr v.el.va with
    | none => storeList s c h t seen
    | some w =>
      let blk := v.el.ix / h.gc * 512 + v.el.ix % h.gc / 32
      match v.el.scale, v.el.scale.bind (placeOf s c needWr) with
      | some va, some ws =>
        if seen.contains blk then storeMain h v w :: storeList s c h t seen
        else ⟨v.el.ix, va, ws, 1, v.scale, none, v.mark⟩ :: storeMain h v w :: storeList s c h t (blk :: seen)
      | _, _ => storeMain h v w :: storeList s c h t seen

/-- Store the active elements, given in commit order (R158, R170). -/
def storeOp (s : State) (id : BlkId) (b : Block) (h : ShapeRec) (code : Nat) (vals : List StoreVal) (other : List Hit)
    (k : State → Block → Out) : Out :=
  let acc := blockAcc s id b
  let hits := other ++ vals.flatMap fun v => elCauses s acc needWr h code v.el
  if hits ≠ [] then conclude s id b true hits 0 (holdOn s id b)
  else
    let els := storeList s acc h vals []
    afterStore id (storeEls s id b els)
      (fun s b l => conclude s id b true (l.map fun (i, c) =>
        memHit h code i c (((vals.find? fun v => v.el.ix == i).map fun v => v.el.va).getD 0)) 0 (holdOn s id b))
      fun s1 b1 => k (tlbFillAll s1 acc (els.filterMap fun e => match e.at_ with
        | .aper _ => none
        | .phys _ _ => some e.va)) b1

/-- Elements in rising index, put in commit order: element i at place (i − SIDX) mod n (R172). -/
def sidxOrder {α : Type} (sidx : Word64) (n : Nat) (ix : α → Nat) (l : List α) : List α :=
  let r := if n = 0 then 0 else sidx.toNat % n
  (l.filter fun x => decide (r ≤ ix x)) ++ l.filter fun x => decide (ix x < r)

end Sys2Proof.Machine
end

