-- ==== Sys2Proof/Machine/Loads.lean ====
section
/-! DEFINITION. Loads, feeds and region maintenance: LD (R384, R385), LDT, LDQ, LDG (R386 to R389), PLD (R404), FEED
(R375, R376), PREF (R405), CLEAN (R359) and INVAL (R381). -/

namespace Sys2Proof.Machine

/-! ### LD -/

/-- Bytes of a size code. -/
def ldBytes : LdSize → Nat
  | .n8 | .i8 => 1
  | .n16 | .i16 => 2
  | .n32 | .i32 => 4
  | .d => 8

/-- The register value of a loaded number. -/
def ldValue (z : LdSize) (v : Nat) : Word64 :=
  match z with
  | .i8 => BitVec.ofInt 64 (toInt 8 v) | .i16 => BitVec.ofInt 64 (toInt 16 v) | .i32 => BitVec.ofInt 64 (toInt 32 v)
  | _ => BitVec.ofNat 64 v

/-- The address of LD and ST (R385, R414). -/
def scalarVa (c : Core) (b_ i : RegNo) (size : Nat) (scaled : Bool) : Nat :=
  (rget c.a b_ + (if scaled then rget c.a i * BitVec.ofNat 64 size else rget c.a i)).toNat

/-- LD and LD.x (R385). -/
def ldOp (d b_ i : RegNo) (z : LdSize) (scaled : Bool) (s : State) : Out :=
  withBlock s fun id b =>
    let c := b.core
    unlessMarked s id b true [rmark c.am b_, rmark c.am i]
      (let size := ldBytes z
      let va := scalarVa c b_ i size scaled
      let acc := blockAcc s id b
      match scalarProbe s acc needRd va size with
      | .error e => raiseAt s id b e true va
      | .ok w =>
        let els : List LoadEl := [⟨va, w, size⟩]
        afterDrain id (loadDrain s id b els) fun s b => match loadEls s b els with
          | .wait r => holdAsk s id b r
          | .fails l => raiseAt s id b ((l.map Prod.snd).headD .sluiceDown) true va
          | .done vs =>
            let (v, m) := vs.headD (0, none)
            let b' := afterLoad els b
            finish (fillEls s acc els) id { b' with core := regSetMarked b'.core true d (ldValue z v) m })

/-- LD (R385). -/
def execLd (d b i : RegNo) (z : LdSize) (s : State) : Out := ldOp d b i z false s
/-- LD.x (R385). -/
def execLdX (d b i : RegNo) (z : LdSize) (s : State) : Out := ldOp d b i z true s

/-! ### LDT -/

/-- Issue-time causes of LDT and STT that need no register (R290, R388). -/
def tileMemCheck (b : Block) (f : FmtTileMem) : Option Cause :=
  let h := srcRec b.core f.t
  shapeCause (decide (28 ≤ f.t.toNat) || !tileOk b.grantc b.core f.t.toNat || predTooLong ⟨f.pg, false⟩ (recElems h) false
      || (isMx h.ty && !decide (h.lay = .rowMajor))) false

/-- A stride register that the layout forbids (R388). -/
def strideBad (c : Core) (h : ShapeRec) (i : RegNo) : Bool := !decide (h.lay = .rowMajor) && rget c.a i != 0

/-- Row stride of an image. -/
def strideOf (c : Core) (h : ShapeRec) (i : RegNo) : Nat := if i = 0 then defaultStride h else (rget c.a i).toNat

/-- Deliver loaded elements to a tile: with a trim the grant shrinks and everything else of the tile stays (R156). -/
def deliverTile (b : Block) (n : Nat) (h : ShapeRec) (trimmed : Bool) (o : LoadOut) : Block :=
  let c := writeTile b.core n h trimmed o.rs o.sc
  { b with core := if trimmed then trimCore c h.gr h.gc else c }

/-- LDT (R386, R388). -/
def execLdt (f : FmtTileMem) (s : State) : Out :=
  withBlock s fun id b =>
    match tileMemCheck b f with
    | some c => raiseAt s id b c true 0
    | none =>
      let c := b.core
      unlessMarked s id b true [rmark c.am f.b, rmark c.am f.i]
        (let h := srcRec c f.t
        if strideBad c h f.i then raiseAt s id b .shapeInvalid true 0
        else
          let els := (activeIx c ⟨f.pg, false⟩ (recElems h)).map (imageEl h (rget c.a f.b).toNat (strideOf c h f.i))
          loadOp s id b h f.t.toNat els [] (fun _ => true) fun s b trimmed h' o =>
            finish s id (deliverTile b f.t.toNat h' trimmed o))

/-! ### LDG -/

/-- Index types of LDG, STS and TAMO (R386). -/
def isIndex (t : ElemType) : Bool :=
  decide (t = .i32) || decide (t = .n32) || decide (t = .i64) || decide (t = .n64)

/-- Issue-time causes of LDG and STS; TAMO adds its own type rule. -/
def gatherCheck (b : Block) (t x : TileCode) (pg : PredNo) (types : ElemType → Bool) : Option Cause :=
  let c := b.core
  let h := srcRec c t
  let hx := srcRec c x
  shapeCause (decide (28 ≤ t.toNat) || decide (28 ≤ x.toNat) || !tileOk b.grantc c t.toNat || !tileOk b.grantc c x.toNat
      || predTooLong ⟨pg, false⟩ (recElems h) false)
    (!isIndex hx.ty || !sameExtent h hx || !types h.ty)

/-- Types of LDG and STS. -/
def gatherType (t : ElemType) : Bool := !isMx t && !decide (t = .e2m1)

/-- The active elements of a gather or scatter, with 2^scale the distance of indices. -/
def gatherEls (c : Core) (t x : TileCode) (pg : PredNo) (base : Nat) (scale : Nat) : List MemEl :=
  let h := srcRec c t
  let y := tileSrc c x.toNat
  (activeIx c ⟨pg, false⟩ (recElems h)).map fun i => gatherEl h base (intVal y.rc.ty (y.get i)) scale i

/-- Dead reads and consumed marks of the indices. -/
def indexHits (c : Core) (t x : TileCode) (pg : PredNo) : List Hit :=
  let y := tileSrc c x.toNat
  readHits c ((activeIx c ⟨pg, false⟩ (recElems (srcRec c t))).map fun i => (i, [(y, i)])) true

/-- LDG (R386). -/
def execLdg (f : FmtGather) (s : State) : Out :=
  withBlock s fun id b =>
    match gatherCheck b f.t f.x f.pg gatherType with
    | some c => raiseAt s id b c true 0
    | none =>
      let c := b.core
      unlessMarked s id b true [rmark c.am f.b]
        (let h := srcRec c f.t
        let els := gatherEls c f.t f.x f.pg (rget c.a f.b).toNat f.scale.toNat
        loadOp s id b h f.t.toNat els (indexHits c f.t f.x f.pg) (fun _ => true) fun s b trimmed h' o =>
          finish s id (deliverTile b f.t.toNat h' trimmed o))

/-! ### LDQ -/

/-- The record of lq or sq number q. -/
def queueRec (c : Core) (store : Bool) (q : BitVec 2) : ShapeRec :=
  recN c (vget 0 (if store then c.bindS else c.bindL) q.toNat)

/-- Issue-time causes of LDQ, STQ and STQU that need no translation (R387, R416). -/
def queueMemCheck (h : ShapeRec) (f : FmtQueueMem) : Option Cause :=
  shapeCause (h.g != 0 || predTooLong ⟨f.pg, false⟩ (recElems h) false || (typeWidth h.ty == 4 && f.i != 0))
    (isMx h.ty)

/-- Spacing of elements. -/
def runStride (c : Core) (h : ShapeRec) (i : RegNo) : Int :=
  if i = 0 then ((typeWidth h.ty / 8 : Nat) : Int) else (rget c.a i).toInt

/-- The active elements of a run. -/
def runEls (c : Core) (h : ShapeRec) (f : FmtQueueMem) : List MemEl :=
  (activeIx c ⟨f.pg, false⟩ (recElems h)).map (runEl h (rget c.a f.b).toNat (runStride c h f.i))

/-- The footprint touches a device page under more than 8 rows. -/
def deviceTooTall (s : State) (acc : Acc) (n : Need) (h : ShapeRec) (els : List MemEl) : Bool :=
  decide (8 < h.gr) && touchesDevice (els.filterMap (probedOf s acc n))

/-- Rows, at most n, that a queue can take now. -/
def rowsThatFit (q : TQueue) (gc n : Nat) : Nat := ((span 1 n).filter fun k => q.room (k * gc) gc).length

/-- Push rows `done` to `done + n` of a loaded run. -/
def pushRows (c : Core) (q : Nat) (h : ShapeRec) (done n : Nat) (rs : List Res) : Core :=
  let es := ((rowBlocks h rs).drop (done * h.gc)).take (n * h.gc)
  { c with lq := vset c.lq q ((vget ⟨[], 0⟩ c.lq q).push es) }

/-- LDQ pushes what fits of its rows from row `done` on, and waits for room with the rest (R387). -/
def ldqPush (q : Nat) (done : Nat) (s : State) (id : BlkId) (b : Block) (trimmed : Bool) (h : ShapeRec) (rs : List Res) : Out :=
  let left := recRows h - done
  let fit := if b.room then left else rowsThatFit (vget ⟨[], 0⟩ b.core.lq q) h.gc left
  let c1 := pushRows b.core q h done fit rs
  let b1 := { b with core := if trimmed then trimCore c1 h.gr h.gc else c1 }
  if fit = left then finish s id b1
  else .next (setBlock s id { b1.quiet with waiting := true, prog := [Progress.count (done + fit)] })

/-- LDQ (R386, R387). -/
def execLdq (f : FmtQueueMem) (s : State) : Out :=
  withBlock s fun id b =>
    let c := b.core
    let h := queueRec c false f.q
    match queueMemCheck h f with
    | some c => raiseAt s id b c true 0
    | none =>
      unlessMarked s id b true [rmark c.am f.b, rmark c.am f.i]
        (let all := runEls c h f
        let slot := vget ⟨none, none, true⟩ c.feeds f.q.toNat
        let acc := blockAcc s id b
        if deviceTooTall s acc needRd h all then raiseAt s id b .shapeInvalid true 0
        else if slot.cur.isSome ∨ slot.next.isSome then holdOn s id b
        else if emptyStrip c then finish s id b
        else
          let q := vget ⟨[], 0⟩ c.lq f.q.toNat
          let done := b.progress
          let whole := touchesDevice (all.filterMap (probedOf s acc needRd))
          let room (rows : Nat) : Bool := b.room || rows ≤ done || q.room ((if whole then rows else 1) * h.gc) h.gc
          let els := all.filter fun e => decide (done * h.gc ≤ e.ix)
          loadUpTo s id b h (28 + f.q.toNat) ((all.map MemEl.ix).headD 0) els (els.flatMap (elCauses s acc needRd h (28 + f.q.toNat)))
            room (fun s b trimmed h' o => ldqPush f.q.toNat done s id b trimmed h' o.rs) 3)

/-! ### PLD (R404) -/

/-- Length of a predicate in memory. -/
def predBytes (c : Core) : Nat := ceilDiv (c.gr * c.gc) 8

/-- A span load of a block from its probe on, of one-byte elements or as one element of its whole length. Marks that it reads
are consumed at once. -/
def spanLoad (s : State) (id : BlkId) (b : Block) (va n : Nat) (bytewise : Bool) (k : State → Block → List Byte → Out) : Out :=
  let acc := blockAcc s id b
  match probePieces s acc needRd (if bytewise then 1 else 0) (counted (if bytewise then 8 else 8 * n + 8) (pieces128 va n)) with
  | .error f => raiseSpan s id b f
  | .ok els => afterDrain id (loadDrain s id b els) fun s1 b1 => match loadPieces s1 b1 (fun k => if bytewise then k else 0) els with
    | .wait r => holdAsk s1 id b1 r
    | .fail f => raiseSpan s1 id b1 f
    | .ok bs ms =>
      let s2 := fillEls s1 acc els
      let b2 := afterLoad els b1
      match ms.map fun x => x.2.2 with
      | m :: l => consumeMarks s2 id b2 m l true 0
      | [] => k s2 b2 bs

/-- PLD. -/
def execPld (p : PredNo) (b_ : RegNo) (s : State) : Out :=
  withBlock s fun id b => notInHandler s id b true
    (let c := b.core
    unlessMarked s id b true [rmark c.am b_]
      (let n := Nat.min (c.gr * c.gc) 65536
      spanLoad s id b (rget c.a b_).toNat (predBytes c) true fun s b bs =>
        finish s id { b with core := setPred b.core p (leNat bs % 2 ^ n) }))

/-! ### FEED (R375, R376) -/

/-- Elements that a feed delivers. -/
def Feed.total (f : Feed) : Nat := f.ext.foldl (· * ·) 1

/-- A feed that has delivered its last element gives way to the queued one. -/
def FeedSlot.settle (x : FeedSlot) : FeedSlot :=
  let live (f : Option Feed) : Option Feed := match f with
    | some g => if g.pos < g.total then f else none
    | none => none
  match live x.cur with
  | some f => { x with cur := some f }
  | none => { x with cur := live x.next, next := none }

/-- The dwords of a run of bytes. -/
def dwords : Nat → List Byte → List Word64
  | 0, _ => []
  | n + 1, bs => leWord (bs.take 8) :: dwords n (bs.drop 8)

/-- A feed record (R231): V and the feed; none where it breaks R51 or a reserved field is set. -/
def parseFeed (bs : List Byte) : Option (Bool × Feed) :=
  let d := dwords 8 bs
  let w (i : Nat) : Word64 := d[i]?.getD 0
  let strides : List Int := [w 3, w 4, w 5, w 6].map BitVec.toInt
  if fld (w 0) 62 55 ≠ 0 ∨ w 7 ≠ 0 ∨ (strides.any fun x : Int => decide (2 ^ 47 < x.natAbs)) = true then none
  else some (flag (w 0) 63,
    { base := fld (w 0) 54 0, ext := [fld (w 1) 31 0, fld (w 1) 63 32, fld (w 2) 31 0, fld (w 2) 63 32], stride := strides,
      pos := 0, fault := none, sizeBad := false })

/-- The loads in flight of a feed that ends find nobody. -/
def dropFeed (s : State) (id : BlkId) (k : Nat) : State :=
  updDev s fun d => { d with outstanding := mapIf (fun o : OutReq => decide (o.who = .feed id.p id.ctx k)) (fun o => { o with who := .gone o.p }) d.outstanding }

/-- FEED. -/
def execFeed (q : BitVec 2) (b_ : RegNo) (s : State) : Out :=
  withBlock s fun id b =>
    let c := b.core
    unlessMarked s id b true [rmark c.am b_]
      (let va := (rget c.a b_).toNat
      if va % 8 ≠ 0 then raiseAt s id b .misalign true va
      else spanLoad s id b va 64 false fun s b bs => match parseFeed bs with
        | none => raiseAt s id b .shapeInvalid true 0
        | some (v, f) =>
          let x := vget ⟨none, none, true⟩ b.core.feeds q.toNat
          let put (s : State) (b : Block) (y : FeedSlot) : Out := finish s id { b with core := { b.core with feeds := vset b.core.feeds q.toNat y } }
          if !v then put (dropFeed s id q.toNat) { b with feedDone := b.feedDone.filter fun e => e.1 != q.toNat } ⟨none, none, true⟩
          else if x.cur.isNone then put s b (FeedSlot.settle ⟨some f, none, true⟩)
          else if x.next.isNone then put s b { x with next := some f }
          else holdOn s id b)

/-! ### PREF, CLEAN, INVAL -/

/-- PREF (R405): it may do nothing, and the model's does nothing (log 14). -/
def execPref (_b _n : RegNo) (s : State) : Out := withBlock s fun id b => finish s id b

/-- The region of CLEAN and INVAL (R359): its cause, or go on. -/
def regionProbe (s : State) (id : BlkId) (b : Block) (va n : Nat) (k : Out) : Out :=
  if n = 0 then finish s id b
  else if 2 ^ 55 < va + n then raiseAt s id b .xlate true va
  else if shBase ≤ va then k
  else
    let acc := blockAcc s id b
    let last := Nat.min (va + n) shBase
    let faults := (span 0 ((last - 1) / 65536 + 1 - va / 65536)).filterMap fun j =>
      let x := if j = 0 then va else (va / 65536 + j) * 65536
      match probeAt s acc needRd x with
      | .ok _ => none
      | .error e => some (e, x)
    match lowestFault (faults ++ if shBase < va + n then [(.xlate, shBase)] else []) with
    | some (e, x) => raiseAt s id b e true x
    | none => k

/-- Number of entries up to the last one that overlaps the region. -/
def regionEntries (va n : Nat) (sb : List SbEntry) : Nat :=
  match firstIx (fun e : SbEntry => overlaps e.va e.size va n) sb.reverse with
  | some k => sb.length - k
  | none => 0

/-- The PCIe targets of a region among those that the block has written (R175, R182). -/
def regionTargets (s : State) (id : BlkId) (b : Block) (va n : Nat) : List Nat :=
  if b.pcie.isEmpty then []
  else
    let ts := (pieces128 va n).filterMap fun (v, _) => match probeAt s (blockAcc s id b) needRd v with
      | .ok (.phys pa _) => match physTarget s pa with
        | .bus a => some (Config.pcieTarget a)
        | _ => none
      | _ => none
    b.pcie.filter ts.contains

/-- CLEAN (R182, R359). -/
def execClean (b_ n : RegNo) (s : State) : Out :=
  withBlock s fun id b =>
    let c := b.core
    unlessMarked s id b true [rmark c.am b_, rmark c.am n]
      (let va := (rget c.a b_).toNat
      let k := (rget c.a n).toNat
      regionProbe s id b va k
        (afterDrain id (earlyDrain s id b (regionEntries va k b.sbuf)) fun s b =>
          finish (if b.runsAhead then s else zeroReads s (regionTargets s id b va k)) id b))

/-- INVAL (R182, R381): every earlier load has been performed. -/
def execInval (b_ n : RegNo) (s : State) : Out :=
  withBlock s fun id b =>
    let c := b.core
    unlessMarked s id b true [rmark c.am b_, rmark c.am n]
      (regionProbe s id b (rget c.a b_).toNat (rget c.a n).toNat (finish s id b))

end Sys2Proof.Machine
end

