-- ==== Sys2Proof/Machine/Stores.lean ====
section
/-! DEFINITION. Stores: ST (R414, R415), STT (R419, R420), STQ and STQU (R416, R417), STS (R418) and PST (R404). -/

namespace Sys2Proof.Machine

/-! ### ST -/

/-- Bytes of a size code. -/
def stBytes : StSize → Nat
  | .n8 => 1 | .n16 => 2 | .n32 => 4 | .d => 8

/-- ST and ST.x (R414): a marked value is stored with its mark. -/
def stOp (r b_ i : RegNo) (z : StSize) (scaled : Bool) (s : State) : Out :=
  withBlock s fun id b =>
    let c := b.core
    unlessMarked s id b true [rmark c.am b_, rmark c.am i]
      (let size := stBytes z
      let va := scalarVa c b_ i size scaled
      let acc := blockAcc s id b
      match scalarProbe s acc needWr va size with
      | .error e => raiseAt s id b e true va
      | .ok w =>
        let el : StoreEl := ⟨0, va, w, size, (rget c.a r).toNat % 2 ^ (8 * size), none, rmark c.am r⟩
        afterStore id (storeEls s id b [el]) (fun s b l => raiseAt s id b ((l.map Prod.snd).headD .sluiceDown) true va)
          fun s b => finish (fillEls s acc [⟨va, w, size⟩]) id b)

/-- ST (R414). -/
def execSt (r b i : RegNo) (z : StSize) (s : State) : Out := stOp r b i z false s
/-- ST.x (R414). -/
def execStX (r b i : RegNo) (z : StSize) (s : State) : Out := stOp r b i z true s

/-! ### Tiles -/

/-- The value of an element of an operand at its place. -/
def storeVal (x : Src) (e : MemEl) : StoreVal :=
  ⟨e, x.get e.ix, x.mark e.ix, x.scale (e.ix / x.rc.gc) (e.ix % x.rc.gc / 32)⟩

/-- STT (R419, R420). -/
def execStt (f : FmtTileMem) (s : State) : Out :=
  withBlock s fun id b =>
    match tileMemCheck b f with
    | some c => raiseAt s id b c true 0
    | none =>
      let c := b.core
      unlessMarked s id b true [rmark c.am f.b, rmark c.am f.i]
        (let h := srcRec c f.t
        if strideBad c h f.i then raiseAt s id b .shapeInvalid true 0
        else
          let x := tileSrc c f.t.toNat
          let act := activeIx c ⟨f.pg, false⟩ (recElems h)
          let els := act.map (imageEl h (rget c.a f.b).toNat (strideOf c h f.i))
          let vals := sidxOrder c.sidx (recElems h) (fun v : StoreVal => v.el.ix) (els.map (storeVal x))
          storeOp s id b h f.t.toNat vals (readHits c (act.map fun i => (i, [(x, i)])) false) fun s b => finish s id b)

/-- STS (R418). -/
def execSts (f : FmtGather) (s : State) : Out :=
  withBlock s fun id b =>
    match gatherCheck b f.t f.x f.pg gatherType with
    | some c => raiseAt s id b c true 0
    | none =>
      let c := b.core
      unlessMarked s id b true [rmark c.am f.b]
        (let h := srcRec c f.t
        let x := tileSrc c f.t.toNat
        let act := activeIx c ⟨f.pg, false⟩ (recElems h)
        let vals := (gatherEls c f.t f.x f.pg (rget c.a f.b).toNat f.scale.toNat).map (storeVal x)
        let dead := readHits c (act.map fun i => (i, [(x, i)])) false
        storeOp s id b h f.t.toNat vals (indexHits c f.t f.x f.pg ++ dead) fun s b => finish s id b)

/-! ### Queues -/

/-- STQ and STQU (R417). -/
def stqOp (f : FmtQueueMem) (ordered : Bool) (s : State) : Out :=
  withBlock s fun id b =>
    let c := b.core
    let h := queueRec c true f.q
    match queueMemCheck h f with
    | some c => raiseAt s id b c true 0
    | none =>
      unlessMarked s id b true [rmark c.am f.b, rmark c.am f.i]
        (let els := runEls c h f
        let acc := blockAcc s id b
        let n := recElems h
        let code := 28 + f.q.toNat
        let q := vget ⟨[], 0⟩ c.sq f.q.toNat
        let x := queueSrc code h (q.elems.take n)
        let faults := els.flatMap (elCauses s acc needWr h code)
        if deviceTooTall s acc needWr h els then raiseAt s id b .shapeInvalid true 0
        else if emptyStrip c then finish s id b
        else if faults ≠ [] then conclude s id b true faults 0 (holdOn s id b)
        else if q.elems.length < n then holdOn s id b
        else
          let vals := els.map (storeVal x)
          let dev := touchesDevice (els.filterMap (probedOf s acc needWr))
          let ord := if ordered && !dev then sidxOrder c.sidx n (fun v : StoreVal => v.el.ix) vals else vals
          storeOp s id b h code ord [] fun s b =>
            let q' := vget ⟨[], 0⟩ b.core.sq f.q.toNat
            finish s id { b with core := { b.core with sq := vset b.core.sq f.q.toNat { q' with elems := q'.elems.drop n } } })

/-- STQ (R417). -/
def execStq (f : FmtQueueMem) (s : State) : Out := stqOp f true s
/-- STQU (R417). -/
def execStqu (f : FmtQueueMem) (s : State) : Out := stqOp f false s

/-! ### PST (R404) -/

/-- PST: bytes in ascending address order, bits from n upwards of the last byte zero. -/
def execPst (p : PredNo) (b_ : RegNo) (s : State) : Out :=
  withBlock s fun id b => notInHandler s id b true
    (let c := b.core
    unlessMarked s id b true [rmark c.am b_]
      (let va := (rget c.a b_).toNat
      let n := c.gr * c.gc
      let acc := blockAcc s id b
      let bits := if p = 0 then 2 ^ n - 1 else vget 0 c.preds p.toNat % 2 ^ n
      match probePieces s acc needWr 1 (counted 8 (pieces128 va (predBytes c))) with
      | .error f => raiseSpan s id b f
      | .ok ps =>
        let els := ps.flatMap fun e => (upTo e.size).map fun k =>
          let off := e.va + k - va
          (⟨off, e.va + k, e.at_.add k, 1, field bits (8 * off + 7) (8 * off), none, none⟩ : StoreEl)
        afterStore id (storeEls s id b els)
          (fun s b l => match lowestFault (l.map fun (i, e) => (e, va + i)) with
            | some (e, x) => raiseAt s id b e true x
            | none => holdOn s id b)
          fun s b => finish (fillEls s acc ps) id b))

end Sys2Proof.Machine
end

