-- ==== Sys2Proof/Machine/Atomics.lean ====
section
/-! DEFINITION. Atomics: the fetch-and-operate family (R346 to R349), AMOCAS (R350), TAMO (R426 to R428), and FENCE
(R377, R378). -/

namespace Sys2Proof.Machine

/-! ### Orders -/

/-- The release part of an order (R175). -/
def releases : MemOrder → Bool
  | .rel | .ar => true
  | _ => false

/-- The release of an order at a scope. -/
def orderRelease (s : State) (id : BlkId) (b : Block) (sc : Scope) (o : MemOrder) : DrainOut :=
  if releases o then releaseAt s id b sc else .done s b

/-! ### One atomic -/

/-- The register value of an old value (R347): sign-extended for MIN.w and MAX.w. -/
def amoResult (fn : Nat) (dbl : Bool) (old : Nat) : Word64 :=
  if !dbl && (fn == 4 || fn == 5) then BitVec.ofInt 64 (toInt 32 old) else BitVec.ofNat 64 old

/-- A member of the family by its funct code, or AMOCAS as code 10 (R347 to R350). -/
def amoOp (fn : Nat) (f : FmtAmo) (s : State) : Out :=
  withBlock s fun id b =>
    let c := b.core
    unlessMarked s id b true ([rmark c.am f.b, rmark c.am f.v] ++ if fn = 10 then [rmark c.am f.d] else [])
      (let va := (rget c.a f.b).toNat
      let size := if f.dbl then 8 else 4
      let v := (rget c.a f.v).toNat % 2 ^ (8 * size)
      let cmp := (rget c.a f.d).toNat % 2 ^ (8 * size)
      let acc := blockAcc s id b
      match scalarProbe s acc needRw va size with
      | .error e => raiseAt s id b e true va
      | .ok w =>
        if amoAllowed s w fn = false then raiseAt s id b .perm true va
        else match amoMark s b w va size none with
        | some m => consumeMark s id b m true 0
        | none => afterDrain id (orderRelease s id b f.sc f.ord) fun s b =>
          afterDrain id (overlapDrain s id b [(w, size)]) fun s b =>
            let (rs, miss) := settle b.remDone (amoNeed s w fn f.dbl v cmp).toList
            if miss ≠ [] ∨ awaitsRegisters s [w] = true then holdAsk s id b miss
            else
              let res := (rs.headD none)
              match amoMark s b w va size res with
              | some m => consumeMark s id b m true 0
              | none => match amoDo s b w fn f.dbl v cmp res with
                | .fail e => raiseAt s id b e true va
                | .ok s b old =>
                  finish (fillEls s acc [⟨va, w, size⟩]) id
                    { nonRewindable b with core := regSet b.core true f.d (amoResult fn f.dbl old) })

/-- AMOADD (R347). -/
def execAmoadd (f : FmtAmo) (s : State) : Out := amoOp 0 f s
/-- AMOAND (R347). -/
def execAmoand (f : FmtAmo) (s : State) : Out := amoOp 1 f s
/-- AMOOR (R347). -/
def execAmoor (f : FmtAmo) (s : State) : Out := amoOp 2 f s
/-- AMOXOR (R347). -/
def execAmoxor (f : FmtAmo) (s : State) : Out := amoOp 3 f s
/-- AMOMIN (R347). -/
def execAmomin (f : FmtAmo) (s : State) : Out := amoOp 4 f s
/-- AMOMAX (R347). -/
def execAmomax (f : FmtAmo) (s : State) : Out := amoOp 5 f s
/-- AMOMINN (R347). -/
def execAmominn (f : FmtAmo) (s : State) : Out := amoOp 6 f s
/-- AMOMAXN (R347). -/
def execAmomaxn (f : FmtAmo) (s : State) : Out := amoOp 7 f s
/-- AMOSWP (R347). -/
def execAmoswp (f : FmtAmo) (s : State) : Out := amoOp 8 f s
/-- AMOFADD (R347). -/
def execAmofadd (f : FmtAmo) (s : State) : Out := amoOp 9 f s
/-- AMOCAS (R350). -/
def execAmocas (f : FmtAmo) (s : State) : Out := amoOp 10 f s

/-! ### TAMO -/

/-- The funct code of R346 for an operation of TAMO. -/
def amoCode : AmoOp → Nat
  | .add => 0 | .and => 1 | .or => 2 | .xor => 3 | .min => 4 | .max => 5 | .minn => 6 | .maxn => 7 | .swp => 8 | .fadd => 9

/-- The scope that TS names (R426). -/
def tamoScope (ts : BitVec 2) : Scope :=
  match ts.toNat with
  | 0 => .pol | 1 => .pkg | 2 => .dom | _ => .sys

/-- Types of Td (R427). -/
def tamoType (op : AmoOp) (t : ElemType) : Bool :=
  if op = .fadd then decide (t = .f32) || decide (t = .f64) else isIndex t

/-- The elements of a TAMO with their places, ascending. -/
def tamoPlaces (s : State) (acc : Acc) (els : List MemEl) : List (MemEl × Where) :=
  els.filterMap fun e => (placeOf s acc needRw e.va).map fun w => (e, w)

/-- Marked targets (R427): every active element that targets a marked line. -/
def tamoMarks (s : State) (b : Block) (h : ShapeRec) (code : Nat) (l : List (MemEl × Where)) : List Hit :=
  l.filterMap fun (e, w) => (amoMark s b w e.va e.size none).map fun m =>
    ⟨e.ix, markCause m, some m, coordAt h code e.ix, markAddr m⟩

/-- The reads by which remote elements learn whether their lines are marked (R427, log 96). -/
def tamoReads (s : State) (l : List (MemEl × Where)) : List RemNeed :=
  l.filterMap fun (e, w) => (remoteOf s w).map fun (d, a) => (d, a, RemOp.read e.size)

/-- What an answered read says of its element: a marked line, or a home that refuses it. -/
def farHit (h : ShapeRec) (code : Nat) (e : MemEl) (w : Where) (r : Option RemResult) : Option Hit :=
  match w, r with
  | .phys pa _, some r =>
    if r.status = 0 then none
    else if r.status = 2 then
      let m := lineMark pa e.va
      some ⟨e.ix, markCause m, some m, coordAt h code e.ix, markAddr m⟩
    else some (memHit h code e.ix (remCause r.status) e.va)
  | _, _ => none

/-- What performing the elements gives: the old values stand in `taken`; a wait for a register's store; or the first element
that fails. -/
inductive TamoRes where
  | ok (s : State) (b : Block)
  | waits (s : State) (b : Block)
  | fails (s : State) (b : Block) (h : Hit)

/-- Perform the elements that have not been performed, one after the other (R180, log 9). -/
def tamoDo (h : ShapeRec) (code fn : Nat) (dbl : Bool) (val : Nat → Nat) :
    List ((MemEl × Where) × Option RemResult) → State → Block → TamoRes
  | [], s, b => .ok s b
  | ((e, w), res) :: t, s, b =>
    if (mapGet b.taken e.ix).isSome then tamoDo h code fn dbl val t s b
    else if awaitsRegisters s [w] then .waits s b
    else match amoMark s b w e.va e.size res with
    | some m => .fails s b ⟨e.ix, markCause m, some m, coordAt h code e.ix, markAddr m⟩
    | none => match amoDo s b w fn dbl (val e.ix) 0 res with
      | .ok s' b' old => tamoDo h code fn dbl val t s' (nonRewindable { b' with taken := mapPut b'.taken e.ix old })
      | .fail c => .fails s b ⟨e.ix, c, none, coordAt h code e.ix, e.va⟩

/-- Pair the elements with their causeway results. -/
def tamoResults (s : State) : List (MemEl × Where) → List (Option RemResult) → List ((MemEl × Where) × Option RemResult)
  | [], _ => []
  | (e, w) :: t, rs => match remoteOf s w, rs with
    | some _, r :: rs => ((e, w), r) :: tamoResults s t rs
    | _, rs => ((e, w), none) :: tamoResults s t rs

/-- A remote element has been performed (R428). -/
def performed (r : Option RemResult) : Bool :=
  match r with
  | some x => x.status == 0
  | none => false

/-- TAMO (R427, R428). -/
def execTamo (f : FmtTamo) (s : State) : Out :=
  withBlock s fun id b =>
    match gatherCheck b f.t f.x f.pg (tamoType f.op) with
    | some c => raiseAt s id b c true 0
    | none =>
      let c := b.core
      unlessMarked s id b true [rmark c.am f.b]
        (let h := srcRec c f.t
        let code := f.t.toNat
        let x := tileSrc c code
        let fn := amoCode f.op
        let dbl := decide (typeWidth h.ty = 64)
        let acc := blockAcc s id b
        let els := gatherEls c f.t f.x f.pg (rget c.a f.b).toNat (if dbl then 3 else 2)
        let ps := tamoPlaces s acc els
        let faults := els.flatMap (elCauses s acc needRw h code)
        let perm := (ps.filter fun p => !amoAllowed s p.2 fn).map fun p => memHit h code p.1.ix .perm p.1.va
        let own := readHits c (els.map fun e => (e.ix, [(x, e.ix)])) true
        let hits := indexHits c f.t f.x f.pg ++ own ++ faults ++ perm ++ tamoMarks s b h code ps
        let (told, untold) := settle b.remDone (tamoReads s ps)
        let far := (tamoResults s ps told).filterMap fun e => farHit h code e.1.1 e.1.2 e.2
        if b.taken = [] ∧ untold ≠ [] then holdAsk s id b untold
        else if b.taken = [] ∧ hits ++ far ≠ [] then conclude s id b true (hits ++ far) 0 (holdOn s id b)
        else afterDrain id (orderRelease s id b (tamoScope f.ts) f.ord) fun s b =>
          afterDrain id (overlapDrain s id b (ps.map fun p => (p.2, p.1.size))) fun s b =>
            let again := tamoMarks s b h code ps
            if b.taken = [] ∧ again ≠ [] then conclude s id b true again 0 (holdOn s id b)
            else
              let needs := ps.filterMap fun p => amoNeed s p.2 fn dbl (x.get p.1.ix) 0
              let (rs, miss) := settle b.remDone needs
              let b := if rs.any performed then nonRewindable b else b
              if miss ≠ [] then holdAsk s id b miss
              else match tamoDo h code fn dbl x.get (tamoResults s ps rs) s b with
                | .waits s b => holdAsk s id b []
                | .fails s b k => conclude s id b true [k] 0 (holdOn s id b)
                | .ok s b =>
                  finish (tlbFillAll s acc (ps.filterMap fun p => match p.2 with
                      | .aper _ => none
                      | .phys _ _ => some p.1.va)) id
                    { b with core := writeTile b.core code h false (b.taken.map fun e => ⟨e.1, e.2, none, 0⟩) [] })

/-! ### FENCE -/

/-- FENCE (R378): a release part drains the buffer; every earlier access has then been performed, in this model. Order
0b00 is illegal (R377). -/
def execFence (sc : Scope) (ord : MemOrder) (s : State) : Out :=
  withBlock s fun id b =>
    if ord = .relaxed then raiseAt s id b .illegalInstr true 0
    else afterDrain id (orderRelease s id b sc ord) fun s b => finish s id b

end Sys2Proof.Machine
end

