-- ==== Sys2Proof/Machine/Inflate.lean ====
section
/-! DEFINITION. The decompressors of R203: LZ4 frames, Zstandard (RFC 8878) and DEFLATE (RFC 1951). The manual names the
formats and says what each refuses; the formats themselves are PRESUMED from those standards (log 74). Output is kept with
its latest byte first. -/

namespace Sys2Proof.Machine

/-- The output so far and, unless the stream is malformed there, what follows it. -/
abbrev Unpacked (α : Type) := List Byte × Option α

/-- What a decompressor makes of its input: the output bytes and whether the stream was sound. -/
structure Inflated where
  out : List Byte
  ok : Bool
  deriving DecidableEq, Repr

/-- n bytes from a distance back. -/
def copyBack : Nat → Nat → List Byte → List Byte
  | 0, _, o => o
  | n + 1, d, o => copyBack n d (o.getD (d - 1) 0 :: o)

/-- n bytes in front of the rest, or none. -/
def takeBytes (n : Nat) (l : List Byte) : Option (List Byte × List Byte) :=
  if n ≤ l.length then some (l.take n, l.drop n) else none

/-- A little-endian number of n bytes in front of the rest. -/
def takeNat (n : Nat) (l : List Byte) : Option (Nat × List Byte) := (takeBytes n l).map fun e => (leNat e.1, e.2)

/-! ### Checksums of the frames -/

/-- Rotate left in w bits. -/
def rotl (w k x : Nat) : Nat := (x <<< k ||| x >>> (w - k)) % 2 ^ w

/-- One lane of XXH32. -/
def xx32Round (acc x : Nat) : Nat := rotl 32 13 ((acc + x * 2246822519) % 2 ^ 32) * 2654435761 % 2 ^ 32

/-- XXH32 over the input behind its 16-byte stripes. -/
def xx32Tail : Nat → List Byte → Nat → Nat
  | 0, _, h => h
  | f + 1, l, h =>
    if 4 ≤ l.length then
      xx32Tail f (l.drop 4) (rotl 32 17 ((h + leNat (l.take 4) * 3266489917) % 2 ^ 32) * 668265263 % 2 ^ 32)
    else match l with
      | [] => h
      | b :: t => xx32Tail f t (rotl 32 11 ((h + b.toNat * 374761393) % 2 ^ 32) * 2654435761 % 2 ^ 32)

/-- The stripes of XXH32: lanes and what is left. -/
def xx32Stripes : Nat → List Byte → List Nat → List Nat × List Byte
  | 0, l, v => (v, l)
  | f + 1, l, v =>
    if 16 ≤ l.length then
      xx32Stripes f (l.drop 16) ((upTo 4).map fun k => xx32Round (v.getD k 0) (leNat ((l.drop (4 * k)).take 4)))
    else (v, l)

/-- XXH32 with seed 0. -/
def xxh32 (l : List Byte) : Nat :=
  let (v, t) := xx32Stripes l.length l [606290984, 2246822519, 0, 1640531535]
  let h := if l.length < 16 then 374761393
    else (rotl 32 1 (v.getD 0 0) + rotl 32 7 (v.getD 1 0) + rotl 32 12 (v.getD 2 0) + rotl 32 18 (v.getD 3 0)) % 2 ^ 32
  let h := xx32Tail t.length t ((h + l.length) % 2 ^ 32)
  let h := (h ^^^ h >>> 15) * 2246822519 % 2 ^ 32
  let h := (h ^^^ h >>> 13) * 3266489917 % 2 ^ 32
  h ^^^ h >>> 16

/-- One lane of XXH64. -/
def xx64Round (acc x : Nat) : Nat := rotl 64 31 ((acc + x * 14029467366897019727) % 2 ^ 64) * 11400714785074694791 % 2 ^ 64

/-- XXH64 over the input behind its 32-byte stripes. -/
def xx64Tail : Nat → List Byte → Nat → Nat
  | 0, _, h => h
  | f + 1, l, h =>
    if 8 ≤ l.length then
      xx64Tail f (l.drop 8)
        ((rotl 64 27 (h ^^^ xx64Round 0 (leNat (l.take 8))) * 11400714785074694791 + 9650029242287828579) % 2 ^ 64)
    else if 4 ≤ l.length then
      xx64Tail f (l.drop 4)
        ((rotl 64 23 (h ^^^ (leNat (l.take 4) * 11400714785074694791) % 2 ^ 64) * 14029467366897019727 + 1609587929392839161) % 2 ^ 64)
    else match l with
      | [] => h
      | b :: t => xx64Tail f t (rotl 64 11 (h ^^^ (b.toNat * 2870177450012600261) % 2 ^ 64) * 11400714785074694791 % 2 ^ 64)

/-- The stripes of XXH64. -/
def xx64Stripes : Nat → List Byte → List Nat → List Nat × List Byte
  | 0, l, v => (v, l)
  | f + 1, l, v =>
    if 32 ≤ l.length then
      xx64Stripes f (l.drop 32) ((upTo 4).map fun k => xx64Round (v.getD k 0) (leNat ((l.drop (8 * k)).take 8)))
    else (v, l)

/-- XXH64 with seed 0. -/
def xxh64 (l : List Byte) : Nat :=
  let (v, t) := xx64Stripes l.length l [6983438078262162902, 14029467366897019727, 0, 7046029288634856825]
  let merge (h x : Nat) : Nat := ((h ^^^ xx64Round 0 x) * 11400714785074694791 + 9650029242287828579) % 2 ^ 64
  let h := if l.length < 32 then 2870177450012600261
    else v.foldl merge
      ((rotl 64 1 (v.getD 0 0) + rotl 64 7 (v.getD 1 0) + rotl 64 12 (v.getD 2 0) + rotl 64 18 (v.getD 3 0)) % 2 ^ 64)
  let h := xx64Tail t.length t ((h + l.length) % 2 ^ 64)
  let h := (h ^^^ h >>> 33) * 14029467366897019727 % 2 ^ 64
  let h := (h ^^^ h >>> 29) * 1609587929392839161 % 2 ^ 64
  h ^^^ h >>> 32

/-! ### Bits, least significant first -/

/-- The bits of a stream that are still to be read. -/
structure BitIn where
  n : Nat
  len : Nat

/-- The bits of some bytes. -/
def BitIn.ofBytes (l : List Byte) : BitIn := ⟨leNat l, 8 * l.length⟩

/-- The next k bits. -/
def BitIn.take (b : BitIn) (k : Nat) : Option (Nat × BitIn) :=
  if k ≤ b.len then some (b.n % 2 ^ k, ⟨b.n >>> k, b.len - k⟩) else none

/-! ### DEFLATE (RFC 1951) -/

/-- A prefix code: the number of codes of each length from 1, and the symbols in the order of their codes. -/
structure Huff where
  counts : List Nat
  syms : List Nat

/-- The code that code lengths by symbol stand for; none where they are over-subscribed, or incomplete with more than one
code. -/
def huffOf (lens : List Nat) : Option Huff :=
  let ix := (upTo lens.length).zip lens
  let at_ (l : Nat) : List Nat := (ix.filter fun e => e.2 == l).map Prod.fst
  let counts : List Nat := (span 1 15).map fun l => (at_ l).length
  let left : Int := counts.foldl (fun (x : Int) (c : Nat) => if x < 0 then x else 2 * x - (c : Int)) (1 : Int)
  let total : Nat := counts.foldl Nat.add 0
  if left < 0 ∨ (0 < left ∧ 1 < total) then none
  else some ⟨counts, (span 1 15).flatMap at_⟩

/-- Read a symbol, bit by bit. -/
def huffWalk (syms : List Nat) : List Nat → Nat → Nat → Nat → BitIn → Option (Nat × BitIn)
  | [], _, _, _, _ => none
  | c :: t, code, first, index, b =>
    match b.take 1 with
    | none => none
    | some (x, b) =>
      if code + x < first + c then (syms[index + (code + x - first)]?).map fun s => (s, b)
      else huffWalk syms t (2 * (code + x)) (2 * (first + c)) (index + c) b

/-- Read a symbol of a code. -/
def Huff.next (h : Huff) (b : BitIn) : Option (Nat × BitIn) := huffWalk h.syms h.counts 0 0 0 b

/-- Lengths: base and extra bits. -/
def lengthCodes : List (Nat × Nat) :=
  [(3, 0), (4, 0), (5, 0), (6, 0), (7, 0), (8, 0), (9, 0), (10, 0), (11, 1), (13, 1), (15, 1), (17, 1), (19, 2), (23, 2), (27, 2),
    (31, 2), (35, 3), (43, 3), (51, 3), (59, 3), (67, 4), (83, 4), (99, 4), (115, 4), (131, 5), (163, 5), (195, 5), (227, 5), (258, 0)]

/-- Distances: base and extra bits. -/
def distCodes : List (Nat × Nat) :=
  (upTo 30).map fun k => if k < 4 then (k + 1, 0) else ((2 + k % 2) * 2 ^ (k / 2 - 1) + 1, k / 2 - 1)

/-- A coded value: its base and extra bits. -/
def codedValue (tab : List (Nat × Nat)) (k : Nat) (b : BitIn) : Option (Nat × BitIn) :=
  match tab[k]? with
  | none => none
  | some (base, n) => (b.take n).map fun e => (base + e.1, e.2)

/-- The symbols of a block up to its end. -/
def inflateCodes (lit dist : Huff) : Nat → BitIn → List Byte → Unpacked BitIn
  | 0, _, o => (o, none)
  | f + 1, b, o =>
    match lit.next b with
    | none => (o, none)
    | some (s, b) =>
      if s < 256 then inflateCodes lit dist f b (BitVec.ofNat 8 s :: o)
      else if s = 256 then (o, some b)
      else
        let r : Option (Nat × Nat × BitIn) := do
          let (n, b) ← codedValue lengthCodes (s - 257) b
          let (k, b) ← dist.next b
          let (d, b) ← codedValue distCodes k b
          if d ≤ o.length then some (n, d, b) else none
        match r with
        | none => (o, none)
        | some (n, d, b) => inflateCodes lit dist f b (copyBack n d o)

/-- Code lengths of a dynamic block, with their repeats; the lengths so far are kept latest first. -/
def readLengths (h : Huff) (total : Nat) : Nat → BitIn → List Nat → Option (List Nat × BitIn)
  | 0, _, _ => none
  | f + 1, b, ls =>
    if total ≤ ls.length then (if ls.length = total then some (ls.reverse, b) else none)
    else do
      let (s, b) ← h.next b
      if s < 16 then readLengths h total f b (s :: ls)
      else if s = 16 then
        let p ← ls.head?
        let (n, b) ← b.take 2
        readLengths h total f b (List.replicate (n + 3) p ++ ls)
      else
        let (n, b) ← b.take (if s = 17 then 3 else 7)
        readLengths h total f b (List.replicate (n + if s = 17 then 3 else 11) 0 ++ ls)

/-- n numbers of k bits. -/
def readFields (k : Nat) : Nat → BitIn → Option (List Nat × BitIn)
  | 0, b => some ([], b)
  | n + 1, b => do
    let (x, b) ← b.take k
    let (l, b) ← readFields k n b
    some (x :: l, b)

/-- The codes of a dynamic block. -/
def dynamicCodes (b : BitIn) : Option (Huff × Huff × BitIn) := do
  let (hl, b) ← b.take 5
  let (hd, b) ← b.take 5
  let (hc, b) ← b.take 4
  let (cl, b) ← readFields 3 (hc + 4) b
  let order := [16, 17, 18, 0, 8, 7, 9, 6, 10, 5, 11, 4, 12, 3, 13, 2, 14, 1, 15]
  let pairs := order.zip cl
  let h ← huffOf ((upTo 19).map fun s => ((pairs.find? fun e => e.1 == s).map Prod.snd).getD 0)
  let (ls, b) ← readLengths h (hl + 257 + hd + 1) 400 b []
  if 286 < hl + 257 ∨ 30 < hd + 1 ∨ ls.getD 256 0 = 0 then none
  else
    let lit ← huffOf (ls.take (hl + 257))
    let dist ← huffOf (ls.drop (hl + 257))
    some (lit, dist, b)

/-- The codes of a fixed block. -/
def fixedLit : List Nat := List.replicate 144 8 ++ List.replicate 112 9 ++ List.replicate 24 7 ++ List.replicate 8 8

/-- A stored block. -/
def storedBlock (b : BitIn) (o : List Byte) : Unpacked BitIn :=
  let r : Option (Nat × BitIn) := do
    let (_, b) ← b.take (b.len % 8)
    let (n, b) ← b.take 16
    let (m, b) ← b.take 16
    if n + m = 0xFFFF ∧ n &&& m = 0 then some (n, b) else none
  match r with
  | none => (o, none)
  | some (n, b) =>
    let k := Nat.min n (b.len / 8)
    ((leBytes k b.n).reverse ++ o, (b.take (8 * n)).map Prod.snd)

/-- The blocks of a stream up to its final one. -/
def inflateBlocks : Nat → BitIn → List Byte → Unpacked BitIn
  | 0, _, o => (o, none)
  | f + 1, b, o =>
    match b.take 3 with
    | none => (o, none)
    | some (x, b) =>
      let r : Unpacked BitIn := match x / 2 with
        | 0 => storedBlock b o
        | 1 => match huffOf fixedLit, huffOf (List.replicate 32 5) with
          | some l, some d => inflateCodes l d (b.len + 1) b o
          | _, _ => (o, none)
        | 2 => match dynamicCodes b with
          | some (l, d, b) => inflateCodes l d (b.len + 1) b o
          | none => (o, none)
        | _ => (o, none)
      match r with
      | (o, some b) => if x % 2 = 1 then (o, some b) else inflateBlocks f b o
      | e => e

/-- DEFLATE: whole bytes after the final block are an error (R203). -/
def inflateRaw (l : List Byte) : Inflated :=
  match inflateBlocks (8 * l.length + 1) (BitIn.ofBytes l) [] with
  | (o, some b) => ⟨o.reverse, decide (b.len < 8)⟩
  | (o, none) => ⟨o.reverse, false⟩

/-! ### Frames -/

/-- A skippable frame, behind its magic number. -/
def isSkippable (magic : Nat) : Bool := magic / 16 == 0x184D2A5

/-- Frames one after the other to the end of the input (R203): the first magic number names the format's own frame, which
`frame` decodes from the bytes behind it. -/
def frames (magic : Nat) (frame : List Byte → List Byte → Unpacked (List Byte)) : Nat → List Byte → List Byte → Inflated
  | 0, _, o => ⟨o.reverse, false⟩
  | f + 1, l, o =>
    if l.isEmpty then ⟨o.reverse, true⟩
    else match takeNat 4 l with
      | none => ⟨o.reverse, false⟩
      | some (m, t) =>
        if m = magic then match frame t o with
          | (o, some t) => frames magic frame f t o
          | (o, none) => ⟨o.reverse, false⟩
        else if isSkippable m then match takeNat 4 t with
          | none => ⟨o.reverse, false⟩
          | some (n, t) => match takeBytes n t with
            | some (_, t) => frames magic frame f t o
            | none => ⟨o.reverse, false⟩
        else ⟨o.reverse, false⟩

/-- What has been put out since there were n bytes. -/
def since (o : List Byte) (n : Nat) : List Byte := (o.take (o.length - n)).reverse

/-! ### LZ4 frames -/

/-- A length of a token: 15 is extended by bytes up to one below 255. -/
def lz4Length : Nat → Nat → List Byte → Option (Nat × List Byte)
  | 0, _, _ => none
  | f + 1, n, l => match l with
    | [] => none
    | b :: t => if b.toNat = 255 then lz4Length f (n + 255) t else some (n + b.toNat, t)

/-- A nibble's length. -/
def lz4Nibble (n : Nat) (l : List Byte) : Option (Nat × List Byte) := if n = 15 then lz4Length (l.length + 1) 15 l else some (n, l)

/-- The sequences of a block; `base` is the length of the output that matches may not reach before. -/
def lz4Block (base : Nat) : Nat → List Byte → List Byte → Unpacked Unit
  | 0, _, o => (o, none)
  | f + 1, l, o =>
    let lits : Option (Nat × List Byte × List Byte) := do
      let tok ← l.head?
      let (n, t) ← lz4Nibble (tok.toNat / 16) (l.drop 1)
      let (x, t) ← takeBytes n t
      some (tok.toNat % 16, x, t)
    match lits with
    | none => (o, none)
    | some (m, x, t) =>
      let o := x.reverse ++ o
      if t.isEmpty then (o, some ())
      else
        let r : Option (Nat × Nat × List Byte) := do
          let (d, t) ← takeNat 2 t
          let (n, t) ← lz4Nibble m t
          if d = 0 ∨ o.length < base + d then none else some (n + 4, d, t)
        match r with
        | none => (o, none)
        | some (n, d, t) => lz4Block base f t (copyBack n d o)

/-- The descriptor of a frame. -/
structure Lz4Frame where
  indep : Bool
  blockSum : Bool
  size : Option Nat
  sum : Bool
  max : Nat

/-- Read a descriptor: a dictionary ID and a false header checksum are errors (R203). -/
def lz4Header (l : List Byte) : Option (Lz4Frame × List Byte) := do
  let (flg, t) ← takeNat 1 l
  let (bd, t) ← takeNat 1 t
  let (size, t) ← if bit flg 3 then (takeNat 8 t).map fun e => (some e.1, e.2) else some (none, t)
  let (hc, t') ← takeNat 1 t
  let n := l.length - t.length
  if flg / 64 ≠ 1 ∨ bit flg 1 ∨ bit flg 0 ∨ bd / 16 < 4 ∨ 7 < bd / 16 ∨ bd % 16 ≠ 0 ∨ hc ≠ xxh32 (l.take n) / 256 % 256 then none
  else some (⟨bit flg 5, bit flg 4, size, bit flg 2, 2 ^ (2 * (bd / 16) + 8)⟩, t')

/-- The blocks of a frame up to its end mark; `start` is the length of the output before the frame. Neither a block nor what it
gives is longer than the frame's block maximum. A block that is cut short or fails its checksum gives no bytes (DESIGN CHOICE,
log 99). -/
def lz4Blocks (h : Lz4Frame) (start : Nat) : Nat → List Byte → List Byte → Unpacked (List Byte)
  | 0, _, o => (o, none)
  | f + 1, l, o =>
    match takeNat 4 l with
    | none => (o, none)
    | some (n, t) =>
      if n = 0 then (o, some t)
      else if h.max < n % 2 ^ 31 then (o, none)
      else
        let r : Option (List Byte × List Byte) := do
          let (x, t) ← takeBytes (n % 2 ^ 31) t
          if h.blockSum then
            let (c, t) ← takeNat 4 t
            if c = xxh32 x then some (x, t) else none
          else some (x, t)
        match r with
        | none => (o, none)
        | some (x, t) =>
          let e : Unpacked Unit := if 2 ^ 31 ≤ n then (x.reverse ++ o, some ())
            else lz4Block (if h.indep then o.length else start) (x.length + 1) x o
          match e with
          | (o', some _) => if o.length + h.max < o'.length then (o', none) else lz4Blocks h start f t o'
          | (o', none) => (o', none)

/-- A frame behind its magic number. -/
def lz4Frame (l o : List Byte) : Unpacked (List Byte) :=
  match lz4Header l with
  | none => (o, none)
  | some (h, t) => match lz4Blocks h o.length (t.length + 1) t o with
    | (o', none) => (o', none)
    | (o', some t) =>
      let new := since o' o.length
      if h.size.any fun n => n != new.length then (o', none)
      else if h.sum then (o', do
        let (c, t) ← takeNat 4 t
        if c = xxh32 new then some t else none)
      else (o', some t)

/-! ### Zstandard (RFC 8878): entropy codes -/

/-- A stream that is read from its end: the bits below the highest one. -/
structure BitBack where
  n : Nat
  len : Nat

/-- The bits of some bytes, whose last byte carries the end mark. -/
def BitBack.ofBytes (l : List Byte) : Option BitBack :=
  let x := leNat l
  if leNat (l.drop (l.length - 1)) = 0 then none else some ⟨x, Nat.log2 x⟩

/-- The next k bits. -/
def BitBack.take (b : BitBack) (k : Nat) : Option (Nat × BitBack) :=
  if k ≤ b.len then some ((b.n >>> (b.len - k)) % 2 ^ k, ⟨b.n, b.len - k⟩) else none

/-- The next k bits with zeros behind the end. -/
def BitBack.peek (b : BitBack) (k : Nat) : Nat :=
  if k ≤ b.len then (b.n >>> (b.len - k)) % 2 ^ k else (b.n % 2 ^ b.len) <<< (k - b.len)

/-- A state of an FSE table: its symbol, and the base and the bits of the next state. -/
structure FseState where
  sym : Nat
  base : Nat
  bits : Nat

/-- An FSE table with its accuracy. -/
structure Fse where
  log : Nat
  states : List FseState

/-- Place a symbol n times, stepping over the places that are taken by the rare symbols. -/
def fsePlace (size high sym : Nat) : Nat → Nat → SMap Nat → Nat × SMap Nat
  | 0, pos, m => (pos, m)
  | n + 1, pos, m =>
    let step (p : Nat) : Nat := (p + size / 2 + size / 8 + 3) % size
    let next := (upTo size).foldl (fun p _ => if p < high then p else step p) (step pos)
    fsePlace size high sym n next (mapPut m pos sym)

/-- The table of some probabilities, −1 for a rare symbol. -/
def fseOf (log : Nat) (probs : List Int) : Fse :=
  let size := 2 ^ log
  let ix := (upTo probs.length).zip probs
  let rare := (ix.filter fun e => e.2 == -1).map Prod.fst
  let m0 : SMap Nat := ((upTo rare.length).zip rare).foldl (fun m e => mapPut m (size - 1 - e.1) e.2) []
  let (_, m) := ix.foldl (fun (x : Nat × SMap Nat) e => if 0 < e.2 then fsePlace size (size - rare.length) e.1 e.2.toNat x.1 x.2 else x) (0, m0)
  let start (s : Nat) : Nat := if probs.getD s 0 = -1 then 1 else (probs.getD s 0).toNat
  let (_, states) := m.foldl (fun (x : SMap Nat × List FseState) e =>
      let k := (mapGet x.1 e.2).getD (start e.2)
      let nb := log - Nat.log2 k
      (mapPut x.1 e.2 (k + 1), (⟨e.2, (k <<< nb) - size, nb⟩ : FseState) :: x.2)) ([], [])
  ⟨log, states.reverse⟩

/-- Runs of further symbols of probability 0: two bits each, while they are 3. -/
def fseZeros : Nat → BitIn → Nat → Option (Nat × BitIn)
  | 0, _, _ => none
  | f + 1, b, n => match b.take 2 with
    | none => none
    | some (r, b) => if r = 3 then fseZeros f b (n + 3) else some (n + r, b)

/-- The probabilities of a table description; `left` counts the probability that is still to be given, plus 1. -/
def fseProbs : Nat → BitIn → Nat → List Int → Option (List Int × BitIn)
  | 0, _, _, _ => none
  | f + 1, b, left, ps =>
    if left ≤ 1 then (if left = 1 then some (ps.reverse, b) else none)
    else do
      let k := Nat.log2 left
      let short := 2 ^ (k + 1) - 1 - left
      let low := b.n % 2 ^ k
      let n := if low < short then k else k + 1
      let (v, b) ← b.take n
      let v := if low < short then low else if 2 ^ k ≤ v then v - short else v
      let p : Int := (v : Int) - 1
      let used := if p < 0 then 1 else p.toNat
      if left - 1 < used then none
      else if p = 0 then
        let (z, b) ← fseZeros (b.len + 1) b 0
        fseProbs f b left (List.replicate (z + 1) 0 ++ ps)
      else fseProbs f b (left - used) (p :: ps)

/-- Read a table description from bytes: the table and the bytes behind it. -/
def fseRead (maxLog maxSym : Nat) (l : List Byte) : Option (Fse × List Byte) := do
  let b := BitIn.ofBytes l
  let (a, b) ← b.take 4
  let log := a + 5
  if maxLog < log then none
  else
    let (ps, b) ← fseProbs 300 b (2 ^ log + 1) []
    if maxSym + 1 < ps.length then none else some (fseOf log ps, l.drop ((8 * l.length - b.len + 7) / 8))

/-- The state reached by bits. -/
def Fse.go (t : Fse) (s : FseState) (b : BitBack) : Option (FseState × BitBack) := do
  let (x, b) ← b.take s.bits
  let y ← t.states[s.base + x]?
  some (y, b)

/-- The first state. -/
def Fse.first (t : Fse) (b : BitBack) : Option (FseState × BitBack) := do
  let (x, b) ← b.take t.log
  let y ← t.states[x]?
  some (y, b)

/-- Two states that take turns until the bits run out: the symbols of Huffman weights. -/
def fseWeights (t : Fse) : Nat → FseState → FseState → BitBack → List Nat → Option (List Nat)
  | 0, _, _, _, _ => none
  | f + 1, s, u, b, ws =>
    if 254 < ws.length then none
    else match t.go s b with
      | some (s', b) => fseWeights t f u s' b (s.sym :: ws)
      | none => some ((u.sym :: s.sym :: ws).reverse)

/-- A Huffman table: the bits that it looks at, and symbol and length by their value. -/
structure ZHuff where
  log : Nat
  tab : List (Nat × Nat)

/-- The table of some weights, to which the last one is added. -/
def zhuffOf (ws : List Nat) : Option ZHuff :=
  let sum := ws.foldl (fun n w => if w = 0 then n else n + 2 ^ (w - 1)) 0
  if sum = 0 then none
  else
    let log := Nat.log2 sum + 1
    let rest := 2 ^ log - sum
    if 11 < log ∨ rest ≠ 2 ^ Nat.log2 rest ∨ 256 ≤ ws.length then none
    else
      let all := ws ++ [Nat.log2 rest + 1]
      let ix := (upTo all.length).zip all
      some ⟨log, (span 1 log).flatMap fun w => (ix.filter fun e => e.2 == w).flatMap fun e => List.replicate (2 ^ (w - 1)) (e.1, log + 1 - w)⟩

/-- Read a Huffman tree description. -/
def zhuffRead (l : List Byte) : Option (ZHuff × List Byte) := do
  let (h, t) ← takeNat 1 l
  if 128 ≤ h then
    let n := h - 127
    let (x, t) ← takeBytes ((n + 1) / 2) t
    let ws := (x.flatMap fun b => [b.toNat / 16, b.toNat % 16]).take n
    let z ← zhuffOf ws
    some (z, t)
  else
    let (x, t) ← takeBytes h t
    let (tab, y) ← fseRead 6 255 x
    let b ← BitBack.ofBytes y
    let (s, b) ← tab.first b
    let (u, b) ← tab.first b
    let ws ← fseWeights tab 300 s u b []
    let z ← zhuffOf ws
    some (z, t)

/-- n literals of a stream, which they must use up. -/
def zLiterals (h : ZHuff) : Nat → BitBack → List Byte → Option (List Byte)
  | 0, b, o => if b.len = 0 then some o.reverse else none
  | n + 1, b, o => do
    let (s, k) ← h.tab[b.peek h.log]?
    let (_, b) ← b.take k
    zLiterals h n b (BitVec.ofNat 8 s :: o)

/-- Some streams of literals, with their sizes and counts. -/
def zStreams (h : ZHuff) : List (Nat × Nat) → List Byte → Option (List Byte)
  | [], l => if l.isEmpty then some [] else none
  | (n, k) :: t, l => do
    let (x, l) ← takeBytes n l
    let b ← BitBack.ofBytes x
    let o ← zLiterals h k b []
    let o' ← zStreams h t l
    some (o ++ o')

/-! ### Zstandard: blocks -/

/-- What a frame's blocks hand on: the tables last used and the three recent offsets. -/
structure ZTables where
  huff : Option ZHuff
  ll : Option Fse
  off : Option Fse
  ml : Option Fse
  reps : Nat × Nat × Nat

/-- The literals of a compressed block, and the bytes behind them. -/
def zLiteralSection (z : ZTables) (l : List Byte) : Option (List Byte × Option ZHuff × List Byte) := do
  let (h, _) ← takeNat 1 l
  let kind := h % 4
  let form := h / 4 % 4
  if kind < 2 then
    let n := if form % 2 = 0 then 1 else if form = 1 then 2 else 3
    let (v, t) ← takeNat n l
    let size := if form % 2 = 0 then v / 8 else v / 16
    if kind = 0 then
      let (x, t) ← takeBytes size t
      some (x, z.huff, t)
    else
      let (x, t) ← takeBytes 1 t
      some (List.replicate size (x.headD 0), z.huff, t)
  else
    let n := if form < 2 then 3 else form + 2
    let w := if form < 2 then 10 else if form = 2 then 14 else 18
    let (v, t) ← takeNat n l
    let size := v / 16 % 2 ^ w
    let (x, t) ← takeBytes (v / 2 ^ (4 + w) % 2 ^ w) t
    let (hf, y) ← if kind = 2 then zhuffRead x else z.huff.map fun e => (e, x)
    let o ← if form = 0 then zStreams hf [(y.length, size)] y
      else do
        let (j, y) ← takeBytes 6 y
        let s (k : Nat) : Nat := leNat ((j.drop (2 * k)).take 2)
        let part := (size + 3) / 4
        if y.length < s 0 + s 1 + s 2 ∨ size < 3 * part then none
        else zStreams hf [(s 0, part), (s 1, part), (s 2, part), (y.length - s 0 - s 1 - s 2, size - 3 * part)] y
    some (o, some hf, t)

/-- Literal lengths: base and extra bits. -/
def zLlCodes : List (Nat × Nat) :=
  (upTo 16).map (fun k => (k, 0)) ++ [(16, 1), (18, 1), (20, 1), (22, 1), (24, 2), (28, 2), (32, 3), (40, 3), (48, 4), (64, 6)]
    ++ (span 7 10).map fun k => (2 ^ k, k)

/-- Match lengths: base and extra bits. -/
def zMlCodes : List (Nat × Nat) :=
  (upTo 32).map (fun k => (k + 3, 0)) ++ [(35, 1), (37, 1), (39, 1), (41, 1), (43, 2), (47, 2), (51, 3), (59, 3), (67, 4), (83, 4), (99, 5)]
    ++ (span 7 10).map fun k => (2 ^ k + 3, k)

/-- The default tables. -/
def zDefaultLl : Fse := fseOf 6 ([4, 3, 2, 2, 2, 2, 2, 2, 2, 2, 2, 2, 2, 1, 1, 1, 2, 2, 2, 2, 2, 2, 2, 2, 2, 3, 2, 1, 1, 1, 1, 1] ++ List.replicate 4 (-1))
/-- The default table of match lengths. -/
def zDefaultMl : Fse := fseOf 6 ([1, 4, 3, 2, 2, 2, 2, 2, 2] ++ List.replicate 37 1 ++ List.replicate 7 (-1))
/-- The default table of offsets. -/
def zDefaultOff : Fse := fseOf 5 ([1, 1, 1, 1, 1, 1, 2, 2, 2] ++ List.replicate 15 1 ++ List.replicate 5 (-1))

/-- The table of a mode: default, one symbol, described, or the last one. -/
def zTable (mode maxLog maxSym : Nat) (dflt : Fse) (last : Option Fse) (l : List Byte) : Option (Fse × List Byte) :=
  match mode with
  | 0 => some (dflt, l)
  | 1 => match takeNat 1 l with
    | some (s, t) => if s ≤ maxSym then some (⟨0, [⟨s, 0, 0⟩]⟩, t) else none
    | none => none
  | 2 => fseRead maxLog maxSym l
  | _ => last.map fun t => (t, l)

/-- The offset of an offset value, and the recent offsets after it. -/
def zOffset (v ll : Nat) (r : Nat × Nat × Nat) : Nat × (Nat × Nat × Nat) :=
  let (a, b, c) := r
  if 3 < v then (v - 3, (v - 3, a, b))
  else
    let k := if ll = 0 then v + 1 else v
    if k = 1 then (a, r) else if k = 2 then (b, (b, a, c)) else if k = 3 then (c, (c, a, b)) else (a - 1, (a - 1, a, b))

/-- The sequences of a block: literals left, recent offsets, output. `start` is the length of the output before the frame,
`win` the window. -/
def zSequences (ll off ml : Fse) (start win : Nat) :
    Nat → FseState → FseState → FseState → BitBack → List Byte → Nat × Nat × Nat → List Byte → Unpacked (List Byte × (Nat × Nat × Nat))
  | 0, _, _, _, b, lits, reps, o => (o, if b.len = 0 then some (lits, reps) else none)
  | n + 1, sl, so, sm, b, lits, reps, o =>
    let r : Option (Nat × Nat × Nat × BitBack) := do
      let (x, b) ← b.take so.sym
      let (mb, mx) ← zMlCodes[sm.sym]?
      let (y, b) ← b.take mx
      let (lb, lx) ← zLlCodes[sl.sym]?
      let (w, b) ← b.take lx
      some (2 ^ so.sym + x, mb + y, lb + w, b)
    match r with
    | none => (o, none)
    | some (v, m, l, b) =>
      let (d, reps) := zOffset v l reps
      match takeBytes l lits with
      | none => (o, none)
      | some (x, lits) =>
        let o := x.reverse ++ o
        if d = 0 ∨ win < d ∨ o.length < start + d then (o, none)
        else
          let o := copyBack m d o
          if n = 0 then (o, if b.len = 0 then some (lits, reps) else none)
          else
            let g : Option (FseState × FseState × FseState × BitBack) := do
              let (sl, b) ← ll.go sl b
              let (sm, b) ← ml.go sm b
              let (so, b) ← off.go so b
              some (sl, so, sm, b)
            match g with
            | none => (o, none)
            | some (sl, so, sm, b) => zSequences ll off ml start win n sl so sm b lits reps o

/-- The number of sequences. -/
def zCount (l : List Byte) : Option (Nat × List Byte) := do
  let (h, t) ← takeNat 1 l
  if h < 128 then some (h, t)
  else if h < 255 then do
    let (x, t) ← takeNat 1 t
    some ((h - 128) * 256 + x, t)
  else (takeNat 2 t).map fun e => (e.1 + 0x7F00, e.2)

/-- A compressed block. -/
def zBlock (start win : Nat) (z : ZTables) (l o : List Byte) : Unpacked ZTables :=
  match zLiteralSection z l with
  | none => (o, none)
  | some (lits, hf, t) => match zCount t with
    | none => (o, none)
    | some (0, t) => if t.isEmpty then (lits.reverse ++ o, some { z with huff := hf }) else (o, none)
    | some (n, t) =>
      let r : Option (Fse × Fse × Fse × FseState × FseState × FseState × BitBack) := do
        let (m, t) ← takeNat 1 t
        let (tl, t) ← zTable (m / 64) 9 35 zDefaultLl z.ll t
        let (tf, t) ← zTable (m / 16 % 4) 8 31 zDefaultOff z.off t
        let (tm, t) ← zTable (m / 4 % 4) 9 52 zDefaultMl z.ml t
        let b ← if m % 4 = 0 then BitBack.ofBytes t else none
        let (sl, b) ← tl.first b
        let (so, b) ← tf.first b
        let (sm, b) ← tm.first b
        some (tl, tf, tm, sl, so, sm, b)
      match r with
      | none => (o, none)
      | some (tl, tf, tm, sl, so, sm, b) => match zSequences tl tf tm start win n sl so sm b lits z.reps o with
        | (o, some (rest, reps)) => (rest.reverse ++ o, some ⟨hf, some tl, some tf, some tm, reps⟩)
        | (o, none) => (o, none)

/-! ### Zstandard: frames -/

/-- The header of a frame: window, content size, checksum. -/
structure ZFrame where
  win : Nat
  size : Option Nat
  sum : Bool

/-- Read a header (R203): a Dictionary_ID that is not 0 and a window beyond 8 MiB are errors. -/
def zHeader (l : List Byte) : Option (ZFrame × List Byte) := do
  let (h, t) ← takeNat 1 l
  let single := bit h 5
  let (w, t) ← if single then some (0, t) else takeNat 1 t
  let (d, t) ← takeNat ([0, 1, 2, 4].getD (h % 4) 0) t
  let n := if h / 64 = 0 then (if single then 1 else 0) else 2 ^ (h / 64)
  let (c, t) ← takeNat n t
  let size := if n = 0 then none else some (if n = 2 then c + 256 else c)
  let win := if single then size.getD 0 else 2 ^ (10 + w / 8) + 2 ^ (10 + w / 8) / 8 * (w % 8)
  if bit h 3 ∨ d ≠ 0 ∨ 0x800000 < win then none else some (⟨win, size, bit h 2⟩, t)

/-- The blocks of a frame up to its last one. -/
def zBlocks (h : ZFrame) (start : Nat) : Nat → ZTables → List Byte → List Byte → Unpacked (List Byte)
  | 0, _, _, o => (o, none)
  | f + 1, z, l, o =>
    match takeNat 3 l with
    | none => (o, none)
    | some (x, t) =>
      let size := x / 8
      let cap := Nat.min h.win 0x20000
      let kind := x / 2 % 4
      let e : Unpacked (ZTables × List Byte) :=
        if cap < size ∨ kind = 3 then (o, none)
        else if kind = 1 then match takeBytes 1 t with
          | some (y, t) => (List.replicate size (y.headD 0) ++ o, some (z, t))
          | none => (o, none)
        else match takeBytes size t with
          | none => (if kind = 0 then t.reverse ++ o else o, none)
          | some (y, t) => if kind = 0 then (y.reverse ++ o, some (z, t))
            else match zBlock start h.win z y o with
              | (o', some z) => if o.length + cap < o'.length then (o', none) else (o', some (z, t))
              | (o', none) => (o', none)
      match e with
      | (o, some (z, t)) => if x % 2 = 1 then (o, some t) else zBlocks h start f z t o
      | (o, none) => (o, none)

/-- A frame behind its magic number: its content has the size that the header states, and its checksum is verified. -/
def zFrame (l o : List Byte) : Unpacked (List Byte) :=
  match zHeader l with
  | none => (o, none)
  | some (h, t) => match zBlocks h o.length (t.length + 1) ⟨none, none, none, none, (1, 4, 8)⟩ t o with
    | (o', none) => (o', none)
    | (o', some t) =>
      let new := since o' o.length
      if h.size.any fun n => n != new.length then (o', none)
      else if h.sum then (o', do
        let (c, t) ← takeNat 4 t
        if c = xxh64 new % 2 ^ 32 then some t else none)
      else (o', some t)

/-! ### R203 -/

/-- Decompress by the code of DCOMP. -/
def decompress (dcomp : Nat) (l : List Byte) : Inflated :=
  match dcomp with
  | 1 => frames 0x184D2204 lz4Frame (l.length + 1) l []
  | 2 => frames 0xFD2FB528 zFrame (l.length + 1) l []
  | _ => inflateRaw l

end Sys2Proof.Machine
end

