-- ==== Sys2Proof/Machine/Cards.lean ====
section
/-! DEFINITION. Job cards: their fields (R197 to R199), validity (R210, R218), the accesses and regions of each kind
(R200 to R206), the queue pairs (R217), and what performing a card does (R200 to R204, R211, R213). -/

namespace Sys2Proof.Machine

/-! ### Fields (R197 to R199) -/

/-- Dword i of a card. -/
def cdw (d i : Nat) : Nat := field d (64 * i + 63) (64 * i)

/-- KIND. -/
def cKind (d : Nat) : Nat := field (cdw d 0) 3 0
/-- CSCOPE. -/
def cScope (d : Nat) : Nat := field (cdw d 0) 6 4
/-- UINT. -/
def cUint (d : Nat) : Bool := bit (cdw d 0) 7
/-- CK. -/
def cCk (d : Nat) : Nat := field (cdw d 0) 9 8
/-- CMP. -/
def cCmp (d : Nat) : Bool := bit (cdw d 0) 10
/-- WMA. -/
def cWma (d : Nat) : Bool := bit (cdw d 0) 11
/-- DCOMP. -/
def cDcomp (d : Nat) : Nat := field (cdw d 0) 15 12
/-- TAG. -/
def cTag (d : Nat) : Nat := field (cdw d 0) 31 16
/-- WMVAL. -/
def cWmval (d : Nat) : Nat := field (cdw d 0) 63 32
/-- SRC. -/
def cSrc (d : Nat) : Nat := field (cdw d 1) 54 0
/-- DST. -/
def cDst (d : Nat) : Nat := field (cdw d 2) 54 0
/-- The 40-bit length in dword i. -/
def cLen (d i : Nat) : Nat := field (cdw d i) 39 0
/-- OPC of an NVME card. -/
def cOpc (d : Nat) : Nat := field (cdw d 4) 31 24
/-- NSID. -/
def cNsid (d : Nat) : Nat := field (cdw d 4) 63 32
/-- QP. -/
def cQp (d : Nat) : Nat := field (cdw d 4) 21 16
/-- NLB0. -/
def cNlb (d : Nat) : Nat := field (cdw d 4) 15 0
/-- SLBA. -/
def cSlba (d : Nat) : Nat := cdw d 3

/-! ### COPY -/

/-- The parts of a COPY card: extents X, strides of source and destination, PERM, padding before and after, layouts,
type. -/
structure CopyCard where
  x : List Nat
  ss : List Int
  ds : List Int
  perm : List Nat
  pb : List Nat
  pa : List Nat
  slay : Nat
  dlay : Nat
  ty : ElemType
  padv : Nat
  deriving DecidableEq, Repr

/-- Read a COPY card (R198, R199); none where TYPE is reserved. -/
def copyOf (d : Nat) : Option CopyCard :=
  let d7 := cdw d 7
  let s32 (x : Nat) : Int := toInt 32 x
  match typeOfCode (field d7 4 0) with
  | none => none
  | some ty => some
    { x := (upTo 4).map fun k => field (cdw d 3) (16 * k + 15) (16 * k) + 1,
      ss := [s32 (cdw d 4), s32 (cdw d 4 >>> 32), s32 (cdw d 5)],
      ds := [s32 (cdw d 5 >>> 32), s32 (cdw d 6), s32 (cdw d 6 >>> 32)],
      perm := (upTo 4).map fun k => field d7 (2 * k + 9) (2 * k + 8),
      pb := [field d7 25 20, field d7 37 32, 0, 0], pa := [field d7 31 26, field d7 43 38, 0, 0],
      slay := field d7 17 16, dlay := field d7 19 18, ty := ty, padv := field d7 63 48 }

/-- Element k of a list of numbers. -/
def nth (l : List Nat) (k : Nat) : Nat := l.getD k 0

/-- Element k of a list of integers. -/
def nthI (l : List Int) (k : Nat) : Int := l.getD k 0

/-- Extent Y_d of the destination (R200). -/
def CopyCard.y (c : CopyCard) (k : Nat) : Nat := nth c.x (nth c.perm k) + nth c.pb k + nth c.pa k

/-- The rules of R210 that COPY alone has. -/
def copyBad (d : Nat) : Bool :=
  let d7 := cdw d 7
  match copyOf d with
  | none => true
  | some c =>
    let padded := field d7 43 20 != 0
    let perm := field d7 15 8
    field d7 47 44 != 0 || field d7 7 5 != 0 || !((upTo 4).all fun k => c.perm.contains k)
      || (if isMx c.ty then c.slay != 3 || c.dlay != 3 || perm != 0xE4 || padded || nth c.x 0 % 32 != 0
          else if c.ty = .e2m1 then
            c.slay != 0 || c.dlay != 0 || nth c.perm 0 != 0 || nth c.x 0 % 2 != 0 || nth c.pb 0 % 2 != 0
              || nth c.pa 0 % 2 != 0
          else c.slay == 3 || c.dlay == 3)

/-- Bit offset of (r, c) of a tensor with C columns and stride S in a layout (R160, R161). -/
def layoutBit (lay : Nat) (ty : ElemType) (r c cols : Nat) (s : Int) : Int :=
  let w := typeWidth ty
  match lay with
  | 0 => (r : Int) * s * 8 + ((c * w : Nat) : Int)
  | 1 => (c : Int) * s * 8 + ((r * w : Nat) : Int)
  | 2 => (((r / 32 * ceilDiv cols 32 + c / 32) * 1024 * w + (r % 32 * 32 + c % 32) * w : Nat) : Int)
  | _ =>
    let u := c / 32 / 64
    let q := c / 32 % 64
    (r : Int) * s * 8 + (((u * mxUnit ty + 64 + q * mxBlock ty) * 8 + c % 32 * w : Nat) : Int)

/-- One element-sized write of a COPY: the bit address it reads, or a padding value; the bit address it writes; its
width. -/
structure CopyOp where
  src : Option Int
  pad : Nat
  dst : Int
  w : Nat
  valid : Bool
  deriving DecidableEq, Repr

/-- PADV as an element (R201). -/
def padValue (ty : ElemType) (v : Nat) : Nat :=
  let w := typeWidth ty
  if w ≤ 16 then v % 2 ^ w
  else match ty with
    | .f32 => (fToF fmtF32 ⟨.rne, false, false⟩ (fmtBf16.val false v)).1
    | .f64 => (fToF fmtF64 ⟨.rne, false, false⟩ (fmtBf16.val false v)).1
    | _ => ofInt w (toInt 16 v)

/-- All index vectors of four extents, dimension 0 innermost. -/
def boxIx (y0 y1 y2 y3 : Nat) : List (List Nat) :=
  (upTo y3).flatMap fun j3 => (upTo y2).flatMap fun j2 => (upTo y1).flatMap fun j1 => (upTo y0).map fun j0 => [j0, j1, j2, j3]

/-- Bit address of destination position j. -/
def copyDst (c : CopyCard) (dst : Nat) (j : List Nat) : Int :=
  8 * (dst : Int) + layoutBit c.dlay c.ty (nth j 1) (nth j 0) (c.y 0) (nthI c.ds 0)
    + 8 * ((nth j 2 : Int) * nthI c.ds 1 + (nth j 3 : Int) * nthI c.ds 2)

/-- Bit address of source element i. -/
def copySrc (c : CopyCard) (src : Nat) (i : List Nat) : Int :=
  8 * (src : Int) + layoutBit c.slay c.ty (nth i 1) (nth i 0) (nth c.x 0) (nthI c.ss 0)
    + 8 * ((nth i 2 : Int) * nthI c.ss 1 + (nth i 3 : Int) * nthI c.ss 2)

/-- The source element that destination position j takes, if it is no padding (R200). -/
def copyFrom (c : CopyCard) (j : List Nat) : Option (List Nat) :=
  if (upTo 4).all fun k => decide (nth c.pb k ≤ nth j k) && decide (nth j k < nth c.pb k + nth c.x (nth c.perm k)) then
    some ((upTo 4).map fun m => match (upTo 4).find? fun k => nth c.perm k == m with
      | some k => nth j k - nth c.pb k
      | none => 0)
  else none

/-- The scale bytes of an mx copy and the unused bytes of its headers (R161). -/
def copyScales (c : CopyCard) (src dst : Nat) : List CopyOp :=
  let nb := nth c.x 0 / 32
  let u := (nb - 1) / 64
  (boxIx 1 (nth c.x 1) (nth c.x 2) (nth c.x 3)).flatMap fun i =>
    let at_ (base : Nat) (st : List Int) (k : Nat) : Int :=
      8 * ((base : Int) + (nth i 1 : Int) * nthI st 0 + (nth i 2 : Int) * nthI st 1 + (nth i 3 : Int) * nthI st 2 + (k : Int))
    (upTo nb).map (fun q =>
      let k := q / 64 * mxUnit c.ty + q % 64
      (⟨some (at_ src c.ss k), 0, at_ dst c.ds k, 8, true⟩ : CopyOp))
    ++ (span (nb - 64 * u) (64 - (nb - 64 * u))).map fun q => ⟨none, 0, at_ dst c.ds (u * mxUnit c.ty + q), 8, false⟩

/-- Everything that a COPY writes, in the order of its destination positions (R200, R201): where positions overlap, the last in
this order stands (DESIGN CHOICE, log 103). Elements of 4 bits go in pairs, which R210 keeps whole. -/
def copyOps (c : CopyCard) (src dst : Nat) : List CopyOp :=
  let four := decide (typeWidth c.ty = 4)
  let w := if four then 8 else typeWidth c.ty
  let pad := if four then 17 * padValue c.ty c.padv else padValue c.ty c.padv
  let main := ((boxIx (c.y 0) (c.y 1) (c.y 2) (c.y 3)).filter fun j => !four || nth j 0 % 2 == 0).map fun j =>
    match copyFrom c j with
    | some i => (⟨some (copySrc c src i), 0, copyDst c dst j, w, true⟩ : CopyOp)
    | none => ⟨none, pad, copyDst c dst j, w, false⟩
  let fringe := if c.dlay = 2 then
      ((boxIx (ceilDiv (c.y 0) 32 * 32) (ceilDiv (c.y 1) 32 * 32) (c.y 2) (c.y 3)).filter fun j =>
        decide (c.y 0 ≤ nth j 0) || decide (c.y 1 ≤ nth j 1)).map fun j => (⟨none, 0, copyDst c dst j, w, false⟩ : CopyOp)
    else []
  main ++ fringe ++ (if isMx c.ty then copyScales c src dst else [])

/-- Byte address of a bit address. -/
def bitVa (x : Int) : Nat := ofInt 64 (x / 8)
/-- Bytes of a write of width w. -/
def opBytes (w : Nat) : Nat := w / 8

/-! ### Queue pairs (R217) -/

/-- Queue depth. -/
def qpDepth (q : QueuePair) : Nat := fld q.w0 11 0 + 1
/-- First byte of the submission queue, with the SGL area behind it. -/
def qpSq (q : QueuePair) : Nat := fld q.w0 51 12 <<< 12
/-- First byte of the completion queue. -/
def qpCq (q : QueuePair) : Nat := fld q.w1 51 12 <<< 12
/-- Logical block size. -/
def qpBlock (q : QueuePair) : Nat := 512 * 2 ^ fld q.w1 11 8
/-- Bytes of the submission queue and its SGL area. -/
def qpSpan (q : QueuePair) : Nat := (64 + 4096) * qpDepth q

/-- Entry k of the table. -/
def getQp (s : State) (p k : Nat) : QueuePair := vget ⟨0, 0, 0, 0, 0, 0, true⟩ (getPolder s p).qptab k

/-- The entry has EN = 1 (R217): a completion entry has 16 bytes. An LBASH of 8 to 15, for which R217 gives no block size,
counts as EN = 0 (the model's choice, log 72). -/
def qpInService (s : State) (p k : Nat) : Bool :=
  let q := getQp s p k
  let inOwn (a n : Nat) : Bool := decide (p * polderBytes ≤ a) && decide (a + n ≤ (p + 1) * polderBytes)
  flag q.w1 0 && fld q.w0 11 0 != 0 && fld q.w0 63 52 == 0 && fld q.w1 63 52 == 0 && fld q.w1 7 1 == 0
    && decide (fld q.w1 11 8 ≤ 7) && inOwn (qpSq q) (qpSpan q) && inOwn (qpCq q) (16 * qpDepth q)
    && !overlaps (qpSq q) (qpSpan q) (qpCq q) (16 * qpDepth q)

/-- A card may be started on the pair (R217, R219). -/
def qpEnabled (s : State) (p k : Nat) : Bool := s.dev.vfMse && qpInService s p k

/-! ### Validity (R210, R218) -/

/-- Reasons of R213. -/
inductive RowReason where
  | accepted | inactive | invalid | footprintOverlap | full | faultBehind | noQueue
  deriving DecidableEq, Repr

/-- Their codes. -/
def reasonCode : RowReason → Nat
  | .accepted => 0 | .inactive => 1 | .invalid => 2 | .footprintOverlap => 3 | .full => 4 | .faultBehind => 5
  | .noQueue => 6

/-- An NVMe Read. -/
def isNvRead (d : Nat) : Bool := cKind d == 5 && cOpc d == 2

/-- The rules that every kind shares. -/
def commonBad (d : Nat) : Bool :=
  let k := cKind d
  let ck := cCk d
  k == 0 || decide (5 < k) || ck == 3 || decide (cScope d < 2) || decide (5 < cScope d)
    || field (cdw d 1) 63 55 != 0 || field (cdw d 2) 63 55 != 0
    || (ck != 0 && (k == 1 || k == 2 || (k == 5 && cOpc d != 2)))
    || (ck != 0 && !cCmp d && (k == 3 || k == 5))
    || decide (3 < cDcomp d) || (cDcomp d != 0 && k != 3 && !isNvRead d)
    || (ck == 1 && field (cdw d 7) 63 32 != 0)

/-- The rules of an NVME card that need no queue pair. -/
def nvmeBad (d : Nat) : Bool :=
  let opc := cOpc d
  field (cdw d 4) 23 22 != 0 || cdw d 6 != 0
    || (match opc with
      | 0 => cdw d 1 != 0 || cdw d 2 != 0 || cdw d 3 != 0 || cdw d 5 != 0 || cNlb d != 0 || cdw d 7 != 0
      | 9 => cdw d 2 != 0 || field (cdw d 5) 63 11 != 0
      | 1 => cdw d 2 != 0 || field (cdw d 5) 63 40 != 0 || cLen d 5 == 0
      | 2 => (cDcomp d == 0 && cdw d 1 != 0) || field (cdw d 5) 63 40 != 0 || cLen d 5 == 0
      | _ => true)

/-- The reserved fields and lengths of the other kinds (R198, R202, R210). -/
def kindBad (d : Nat) : Bool :=
  let z (i : Nat) : Bool := cdw d i != 0
  match cKind d with
  | 1 => copyBad d
  | 2 => z 1 || field (cdw d 3) 63 40 != 0 || cLen d 3 == 0 || z 5 || z 6 || z 7
  | 3 => field (cdw d 3) 63 40 != 0 || field (cdw d 4) 63 40 != 0 || z 5 || z 6 || cLen d 3 == 0 || cLen d 4 == 0
      || cDcomp d == 0
  | 4 => field (cdw d 3) 63 40 != 0 || z 4 || z 5 || z 6 || cLen d 3 == 0 || cCk d == 0
  | _ => nvmeBad d

/-- What is wrong with a card before its probe: INVALID, or NO_QUEUE. -/
def cardReason (s : State) (p d : Nat) : Option RowReason :=
  if commonBad d || kindBad d then some .invalid
  else if cKind d = 5 then
    if qpEnabled s p (cQp d) = false then some .noQueue
    else if (cOpc d = 1 ∨ (cOpc d = 2 ∧ cDcomp d = 0)) ∧ cLen d 5 ≠ (cNlb d + 1) * qpBlock (getQp s p (cQp d)) then
      some .invalid
    else none
  else none

/-! ### Accesses and regions (R205, R218) -/

/-- The transfer buffer of an NVME card: first byte and length. -/
def nvmeBuffer (blk d : Nat) : Option (Nat × Nat) :=
  match cOpc d with
  | 1 => some (cSrc d, (cNlb d + 1) * blk)
  | 2 => if cDcomp d = 0 then some (cDst d, (cNlb d + 1) * blk) else some (cSrc d, (cNlb d + 1) * blk)
  | 9 => some (cSrc d, 16 * (field (cdw d 5) 7 0 + 1))
  | _ => none

/-- The bounding interval of some byte intervals. -/
def bounding : List (Nat × Nat) → List (Nat × Nat)
  | [] => []
  | l =>
    let lo := l.foldl (fun m e => Nat.min m e.1) (2 ^ 64)
    let hi := l.foldl (fun m e => Nat.max m (e.1 + e.2)) 0
    [(lo, hi - lo)]

/-- Intervals that a card reads and writes, as VA intervals. -/
def cardParts (blk d : Nat) : List (Nat × Nat) × List (Nat × Nat) :=
  match cKind d with
  | 1 => match copyOf d with
    | some c =>
      let ops := copyOps c (cSrc d) (cDst d)
      (bounding (ops.filterMap fun o => o.src.map fun x => (bitVa x, opBytes o.w)),
       bounding (ops.map fun o => (bitVa o.dst, opBytes o.w)))
    | none => ([], [])
  | 2 => ([], [(cDst d, cLen d 3)])
  | 3 => ([(cSrc d, cLen d 3)], [(cDst d, cLen d 4)])
  | 4 => ([(cSrc d, cLen d 3)], if cDst d = 0 then [] else [(cDst d, 8)])
  | _ => match cOpc d, nvmeBuffer blk d with
    | 1, some b => ([b], [])
    | 9, some b => ([b], [])
    | 2, some b => if cDcomp d = 0 then ([], [b]) else ([b], [b, (cDst d, cLen d 5)])
    | _, _ => ([], [])

/-- Regions read and written (R205): a Read that decompresses writes one interval, its staging area and DST with what lies
between (R218, R335). -/
def cardRegions (blk d : Nat) : List (Nat × Nat) × List (Nat × Nat) :=
  let (r, w) := cardParts blk d
  (bounding r, bounding w)

/-- The first two faults of a byte interval, page by page. -/
def probePages (s : State) (c : Acc) (n : Need) : Nat → Nat → Nat → Nat → List (Cause × Nat)
  | 0, _, _, _ => []
  | fuel + 1, want, va, k =>
    if k = 0 ∨ want = 0 then []
    else
      let m := Nat.min k (65536 - va % 65536)
      match probe s c n va with
      | .error e => (e, va) :: probePages s c n fuel (want - 1) (va + m) (k - m)
      | .ok _ => probePages s c n fuel want (va + m) (k - m)

/-- The faults of an element of a COPY: its read, then its write (R158, R159), each with every cause it has (R245). -/
def copyFaults (s : State) (c : Acc) (o : CopyOp) : List (Cause × Nat) :=
  let n := opBytes o.w
  let one (wr : Bool) (va : Nat) : List (Cause × Nat) :=
    (if va % n ≠ 0 then [(Cause.misalign, va)] else []) ++ probePages s c (if wr then needWr else needRd) 2 2 va n
  (match o.src with
    | some x => one false (bitVa x)
    | none => []) ++ one true (bitVa o.dst)

/-- The fault of the highest rank. -/
def worstFault : List (Cause × Nat) → Option (Cause × Nat)
  | [] => none
  | x :: t => match worstFault t with
    | some y => if causeRank y.1 < causeRank x.1 then some y else some x
    | none => some x

/-- The fault that the probe of a card reports, and MORE (R155, R209): over the accesses of its elements, a COPY's in the
order of its destination, any other card's page by page. -/
def cardProbe (s : State) (c : Acc) (blk d : Nat) : Option (Cause × Nat × Bool) :=
  match cKind d, copyOf d with
  | 1, some cc =>
    let ops := (copyOps cc (cSrc d) (cDst d)).dropWhile fun o => (copyFaults s c o).isEmpty
    let mine := (ops.head?.map (copyFaults s c)).getD []
    (worstFault mine).map fun x =>
      (x.1, x.2, (mine.any fun y => decide (causeRank x.1 < causeRank y.1)) || (ops.drop 1).any fun o => !(copyFaults s c o).isEmpty)
  | _, _ =>
    let (r, w) := cardParts blk d
    let scan (n : Need) (l : List (Nat × Nat)) : List (Cause × Nat) :=
      l.flatMap fun e => probePages s c n (pageCount e.1 e.2) 2 e.1 e.2
    match scan needRd r ++ scan needWr w with
    | [] => none
    | x :: t => some (x.1, x.2, !t.isEmpty)

/-- Translations of some VA intervals. -/
def runsOf (s : State) (c : Acc) (l : List (Nat × Nat)) : List PaRun :=
  l.flatMap fun e => paRuns s c (pageCount e.1 e.2) e.1 e.2

/-- Physically contiguous runs. -/
def joinRuns : List PaRun → List PaRun
  | [] => []
  | r :: t => match joinRuns t with
    | [] => [r]
    | q :: u => if r.pa + r.len = q.pa then ⟨r.va, r.pa, r.len + q.len⟩ :: u else r :: q :: u

/-- Two lists of runs share a PA byte. -/
def runsOverlap (a b : List PaRun) : Bool := a.any fun x => b.any fun y => overlaps x.pa x.len y.pa y.len

/-- The transpose in place that R206 exempts. -/
def exemptCopy (d : Nat) : Bool :=
  let d7 := cdw d 7
  cKind d == 1 && cSrc d == cDst d && field (cdw d 4) 31 0 == field (cdw d 5) 63 32
    && field d7 17 16 == field d7 19 18 && (field d7 15 8 == 0xE1 || field d7 15 8 == 0xE4)
    && field (cdw d 3) 15 0 == field (cdw d 3) 31 16 && field (cdw d 3) 63 32 == 0 && field d7 43 20 == 0
    && ((cardRegions 0 d).2.all fun e => decide (e.2 ≤ 65536))

/-- The card's own read region overlaps its own write region (R206). -/
def selfOverlap (s : State) (c : Acc) (blk d : Nat) : Bool :=
  let (r, w) := cardParts blk d
  let w' := if isNvRead d && cDcomp d != 0 then [(cDst d, cLen d 5)] else w
  !exemptCopy d && runsOverlap (runsOf s c r) (runsOf s c w')

/-- More than 256 physically contiguous runs (R218). -/
def tooManyRuns (s : State) (c : Acc) (blk d : Nat) : Bool :=
  cKind d == 5 && (match nvmeBuffer blk d with
    | some b => decide (256 < (joinRuns (runsOf s c [b])).length)
    | none => false)

/-! ### Performing a card -/

/-- What performing a card gives: the new state, status, output bytes and the PA bytes that valid writes reached; or a
wait for the causeways. -/
inductive CardRes where
  | done (s : State) (status bytes : Nat) (valid : List (Nat × Nat))
  | need (rs : List RemNeed)

/-- The PA of a VA under the card's translations. -/
def runPa (l : List PaRun) (va : Nat) : Option Nat :=
  (l.find? fun r => decide (r.va ≤ va) && decide (va < r.va + r.len)).map fun r => r.pa + (va - r.va)

/-- The status of a failed access (R211). -/
def failStatus (c : Cause) : Nat := if c = .sluiceDown then 5 else 7

/-- Pieces of a VA interval that lie in one 128-byte line, with their PA. -/
def paPieces (l : List PaRun) (va n : Nat) : List (Nat × Nat) :=
  (pieces128 va n).filterMap fun (v, k) => (runPa l v).map fun pa => (pa, k)

/-- What reading pieces gives. -/
inductive PieceRes where
  | ok (bytes : List Byte) (poisoned : Bool)
  | fail (c : Cause)
  | need (rs : List RemNeed)
  deriving DecidableEq, Repr

/-- Read pieces. -/
def readPaPieces (s : State) (rem : List RemResult) : List (Nat × Nat) → PieceRes
  | [] => .ok [] false
  | (pa, k) :: t =>
    match physRead s rem pa k, readPaPieces s rem t with
    | .fail c, _ => .fail c
    | .need r, .need rs => .need (r :: rs)
    | .need r, _ => .need [r]
    | .ok _ _, .fail c => .fail c
    | .ok _ _, .need rs => .need rs
    | .ok bs p, .ok bs' p' => .ok (bs ++ bs') (p || p')

/-- What writing pieces gives. -/
inductive PieceWrite where
  | ok (s : State)
  | fail (s : State) (c : Cause)
  | need (rs : List RemNeed)

/-- Write pieces: PA, bytes, mark. -/
def writePaPieces (rem : List RemResult) : List (Nat × List Byte × Bool) → State → List RemNeed → PieceWrite
  | [], s, rs => if rs = [] then .ok s else .need rs
  | (pa, bs, m) :: t, s, rs =>
    match physWrite s rem pa bs m with
    | .ok s' => writePaPieces rem t s' rs
    | .fail c => .fail s c
    | .need r => writePaPieces rem t s (rs ++ [r])

/-- Cut bytes along pieces. -/
def cutBytes (m : Bool) : List (Nat × Nat) → List Byte → List (Nat × List Byte × Bool)
  | [], _ => []
  | (pa, k) :: t, bs => (pa, bs.take k, m) :: cutBytes m t (bs.drop k)

/-- Write bytes from a VA and finish with a status. -/
def cardWrite (s : State) (c : Card) (va : Nat) (bs : List Byte) (status out : Nat) : CardRes :=
  let ps := paPieces c.wrPa va bs.length
  match writePaPieces c.rem (cutBytes false ps bs) s [] with
  | .ok s' => .done s' status out ps
  | .fail s' e => .done s' (failStatus e) 0 ps
  | .need rs => .need rs

/-- The checksum of CK (R204). -/
def cardSum (ck : Nat) (bs : List Byte) : Nat := if ck = 1 then crc32c bs else if ck = 2 then crc64nvme bs else 0

/-- The status after a checksum over some bytes. -/
def sumStatus (d : Nat) (bs : List Byte) : Nat :=
  if cCmp d && cCk d != 0 && cardSum (cCk d) bs != cdw d 7 then 1 else 0

/-- Decompress and write at DST (R203, R204). -/
def inflateTo (s : State) (c : Card) (bs : List Byte) (limit : Nat) : CardRes :=
  let r := decompress (cDcomp c.data) bs
  let out := r.out.take limit
  let bad := !r.ok || decide (limit < r.out.length)
  cardWrite s c (cDst c.data) out (if bad then 2 else sumStatus c.data out) out.length

/-- Read a whole region, then go on, unless it is poisoned or fails. -/
def cardRead (s : State) (c : Card) (runs : List PaRun) (va n : Nat) (k : List Byte → CardRes) : CardRes :=
  match readPaPieces s c.rem (paPieces runs va n) with
  | .need rs => .need rs
  | .fail e => .done s (failStatus e) 0 []
  | .ok bs p => if p then .done s 3 0 [] else k bs

/-- The value of a COPY element, with its mark. -/
def copyRead (s : State) (c : Card) (o : CopyOp) : Except (PieceRes) (Nat × Bool) :=
  match o.src with
  | none => .ok (o.pad, false)
  | some x =>
    match readPaPieces s c.rem (paPieces c.rdPa (bitVa x) (opBytes o.w)) with
    | .ok bs m => .ok (leNat bs, m)
    | e => .error e

/-- The bytes of a padding write that no valid write of the batch has written (R207). -/
def notAvoided (av : List (Nat × Nat)) (pa : Nat) : Bool := !(av.any fun e => overlaps e.1 e.2 pa 1)

/-- The pieces that one COPY element writes. -/
def copyPieces (c : Card) (o : CopyOp) (v : Nat) (m : Bool) : List (Nat × List Byte × Bool) :=
  match runPa c.wrPa (bitVa o.dst) with
  | none => []
  | some pa =>
    let bytes := leBytes (opBytes o.w) v
    if o.valid ∨ c.avoid = [] then [(pa, bytes, m)]
    else ((span pa bytes.length).zip bytes).filterMap fun (a, x) => if notAvoided c.avoid a then some (a, [x], m) else none

/-- Write the elements of a COPY one after the other. -/
def copyWrite (c : Card) : List (CopyOp × Nat × Bool) → State → List RemNeed → PieceWrite
  | [], s, rs => if rs = [] then .ok s else .need rs
  | (o, v, m) :: t, s, rs =>
    match writePaPieces c.rem (copyPieces c o v m) s [] with
    | .ok s' => copyWrite c t s' rs
    | .fail s' e => .fail s' e
    | .need r => copyWrite c t s (rs ++ r)

/-- Perform a COPY: all is read, padding is written, then valid elements (R200, R206, R207). -/
def performCopy (s : State) (c : Card) : CardRes :=
  match copyOf c.data with
  | none => .done s 0 0 []
  | some cc =>
    let ops := copyOps cc (cSrc c.data) (cDst c.data)
    let vals := ops.map fun o => (o, copyRead s c o)
    let needs := vals.flatMap fun x => match x.2 with
      | .error (.need rs) => rs
      | _ => []
    let bad := vals.findSome? fun x => match x.2 with
      | .error (.fail e) => some e
      | _ => none
    match bad with
    | some e => .done s (failStatus e) 0 []
    | none =>
      if needs ≠ [] then .need needs
      else
        let ok := vals.filterMap fun x => match x.2 with
          | .ok (v, m) => some (x.1, v, m)
          | .error _ => none
        let ordered := (ok.filter fun x => !x.1.valid) ++ ok.filter fun x => x.1.valid
        let valid := (ops.filter fun o => o.valid).filterMap fun o => (runPa c.wrPa (bitVa o.dst)).map fun pa => (pa, opBytes o.w)
        let bytes := ((ops.flatMap fun o => span (bitVa o.dst) (opBytes o.w)).eraseDups).length
        match copyWrite c ordered s [] with
        | .ok s' => .done s' 0 bytes valid
        | .fail s' e => .done s' (failStatus e) 0 valid
        | .need rs => .need rs

/-- The byte of a FILL at address a (R202). -/
def fillByte (d a : Nat) : Byte := BitVec.ofNat 8 (cdw d 4 >>> (8 * (a % 8)))

/-- Perform a card that is not NVME (R200 to R204). -/
def performCard (s : State) (c : Card) : CardRes :=
  let d := c.data
  match cKind d with
  | 1 => performCopy s c
  | 2 => cardWrite s c (cDst d) ((span (cDst d) (cLen d 3)).map (fillByte d)) 0 (cLen d 3)
  | 3 => cardRead s c c.rdPa (cSrc d) (cLen d 3) fun bs => inflateTo s c bs (cLen d 4)
  | 4 => cardRead s c c.rdPa (cSrc d) (cLen d 3) fun bs =>
      let st := sumStatus d bs
      if cDst d = 0 then .done s st 0 []
      else cardWrite s c (cDst d) (leBytes 8 (cardSum (cCk d) bs)) st 8
  | _ => .done s 0 0 []

/-- A card has also written some pieces validly (R207). -/
def CardRes.alsoWrote (l : List (Nat × Nat)) : CardRes → CardRes
  | .done s st n valid => .done s st n (l ++ valid)
  | .need rs => .need rs

/-- The rest of an NVMe Read whose command has succeeded: checksum, or decompression (R204, R219). The staging area is written
by the command, and so is a valid write of the card (R207, R218). -/
def performRead (s : State) (c : Card) (blk : Nat) : CardRes :=
  let d := c.data
  let n := (cNlb d + 1) * blk
  if cDcomp d ≠ 0 then
    (cardRead s c c.rdPa (cSrc d) n fun bs => inflateTo s c bs (cLen d 5)).alsoWrote (paPieces c.wrPa (cSrc d) n)
  else if cCk d ≠ 0 then cardRead s c c.wrPa (cDst d) n fun bs => .done s (sumStatus d bs) n (paPieces c.wrPa (cDst d) n)
  else .done s 0 n (paPieces c.wrPa (cDst d) n)

end Sys2Proof.Machine
end

