-- ==== Sys2Proof/Machine/Control.lean ====
section
/-! DEFINITION. The SYS group (R293), branches and jumps (R356, R357, R382, R383), the scalar queues (R406), and the
cluster barriers (R352 to R355). -/

namespace Sys2Proof.Machine

/-! ### Branches and jumps -/

/-- An address plus a word offset, modulo 2^64. -/
def pcPlus {w : Nat} (pc : Nat) (off : BitVec w) : Nat := ofInt 64 ((pc : Int) + 4 * off.toInt)

/-- The scalar queue that leaves a half: aq for the access half, eq for the execute half (R47). -/
def outQueue (c : Core) (side : Bool) : SQueue := if side then c.aq else c.eq

/-- The half that resolves a branch passes its outcome through its outgoing scalar queue, where outcomes share the
capacity with QPUT data (R47). The other half stands at the same instruction, so a full queue can never take it: each
half waits for the other (R50). -/
def resolved (s : State) (id : BlkId) (b : Block) (side : Bool) (k : Out) : Out :=
  if 16 ≤ (outQueue b.core side).entries.length then .next (setBlock s id { b with waiting := true, stuck := true })
  else k

/-- A conditional branch, resolved by the half that owns its registers (R47, R357). -/
def branchOp (f : FmtB) (s : State) (t : Word64 → Word64 → Bool) : Out :=
  withBlock s fun id b =>
    let c := b.core
    unlessMarked s id b f.side [regMark c f.side f.rs1, regMark c f.side f.rs2]
      (resolved s id b f.side
        (if t (regGet c f.side f.rs1) (regGet c f.side f.rs2) then goTo s id b (pcPlus b.pc f.off) else finish s id b))

/-- BEQ (R357). -/
def execBeq (f : FmtB) (s : State) : Out := branchOp f s fun x y => x == y
/-- BNE (R357). -/
def execBne (f : FmtB) (s : State) : Out := branchOp f s fun x y => x != y
/-- BLT (R357). -/
def execBlt (f : FmtB) (s : State) : Out := branchOp f s fun x y => x.slt y
/-- BGE (R357). -/
def execBge (f : FmtB) (s : State) : Out := branchOp f s fun x y => !x.slt y
/-- BLTN (R357). -/
def execBltn (f : FmtB) (s : State) : Out := branchOp f s fun x y => x.ult y
/-- BGEN (R357). -/
def execBgen (f : FmtB) (s : State) : Out := branchOp f s fun x y => !x.ult y

/-- JMP (R383). -/
def execJmp (off : BitVec 26) (s : State) : Out := withBlock s fun id b => goTo s id b (pcPlus b.pc off)

/-- The link address. -/
def linkOf (b : Block) : Word64 := BitVec.ofNat 64 (b.pc + 4)

/-- JAL (R383). -/
def execJal (side : Bool) (rd : RegNo) (off : BitVec 20) (s : State) : Out :=
  withBlock s fun id b => goTo s id { b with core := regSet b.core side rd (linkOf b) } (pcPlus b.pc off)

/-- JALR (R383): the target is read before rd is written. -/
def execJalr (f : FmtSI) (s : State) : Out :=
  withBlock s fun id b =>
    unlessMarked s id b f.side [regMark b.core f.side f.rs1]
      (let t := regGet b.core f.side f.rs1 + f.imm.signExtend 64
      if t.toNat % 4 ≠ 0 then raiseAt s id b .misalign f.side t.toNat
      else resolved s id b f.side (goTo s id { b with core := regSet b.core f.side f.rd (linkOf b) } t.toNat))

/-! ### QPUT and QGET -/

/-- Push an entry; one that the other half has already taken is dropped (log 16). -/
def SQueue.push (q : SQueue) (e : SEntry) : SQueue :=
  if q.debt = 0 then { q with entries := q.entries ++ [e] } else { q with debt := q.debt - 1 }

/-- The queue has room for an entry (R45). -/
def SQueue.room (q : SQueue) : Bool := q.debt != 0 || decide (q.entries.length < 16)

/-- QPUT (R406): aq takes an a-register, eq an s-register. -/
def execQput (f : SideRs) (s : State) : Out :=
  withBlock s fun id b => notInHandler s id b f.side
    (let c := b.core
    let q := if f.side then c.aq else c.eq
    let e : SEntry := ⟨regGet c f.side f.rs, regMark c f.side f.rs⟩
    if b.room || q.room then
      finish s id { b with core := if f.side then { c with aq := q.push e } else { c with eq := q.push e } }
    else holdOn s id b)

/-- QGET (R406): an s-register takes the head of aq, an a-register the head of eq. -/
def execQget (f : SideRd) (s : State) : Out :=
  withBlock s fun id b => notInHandler s id b f.side
    (let c := b.core
    let q := if f.side then c.eq else c.aq
    match q.entries with
    | [] => holdOn s id b
    | e :: t =>
      let c := if f.side then { c with eq := { q with entries := t } } else { c with aq := { q with entries := t } }
      finish s id { b with core := regSetMarked c f.side f.rd e.val e.mark })

/-! ### NOP, YIELD, WFE -/

/-- NOP (R399). -/
def execNop (s : State) : Out := withBlock s fun id b => finish s id b

/-- YIELD (R472): no architectural state changes. -/
def execYield (s : State) : Out := withBlock s fun id b => finish s id b

/-- WFE (R467): the event flag ends it and is cleared; without it both halves hold. -/
def execWfe (s : State) : Out :=
  withBlock s fun id b =>
    if b.eventFlag then finish s id { b with eventFlag := false }
    else .next (setBlock s id { b with waiting := true, holding := true })

/-- An event of R293 reaches a block. -/
def setEvent (b : Block) : Block := { b with eventFlag := true, waiting := false }

/-! ### Traps by instruction -/

/-- BRK (R358). -/
def execBrk (s : State) : Out := withBlock s fun id b => raiseAt s id b .brk (jointSide b) 0

/-- TRAP (R452): resolved by the half that owns the register. -/
def execTrap (f : SideRs) (s : State) : Out :=
  withBlock s fun id b =>
    unlessMarked s id b f.side [regMark b.core f.side f.rs]
      (resolved s id b f.side
        (if regGet b.core f.side f.rs = 0 then finish s id b else raiseAt s id b .brk f.side 0))

/-- SYSC (R421). -/
def execSysc (s : State) : Out := withBlock s fun id b => raiseAt s id b .syscall (jointSide b) 0

/-- TLBINV.s2 in a block (R447). -/
def execTlbinvS2 (s : State) : Out := withBlock s fun id b => raiseAt s id b .priv (jointSide b) 0

/-- ERET in a block (R369). -/
def execEret (s : State) : Out := withBlock s fun id b => raiseAt s id b .priv (jointSide b) 0

/-! ### User interrupts (R465, R466) -/

/-- UIEN (R465). -/
def execUien (k : Bool) (s : State) : Out :=
  withBlock s fun id b => finish s id (if b.uien = k then b else nonRewindable { b with uien := k })

/-- Exchange registers 1 to 7 of both files with the shadow set (R466). -/
def swapShadow (b : Block) : Block :=
  let ix := span 1 7
  let putReg (v : RegFile) (w : Vector Word64 7) : RegFile := ix.foldl (fun v i => vset v i (vget 0 w (i - 1))) v
  let getReg (v : RegFile) (w : Vector Word64 7) : Vector Word64 7 := ix.foldl (fun w i => vset w (i - 1) (vget 0 v i)) w
  let putM (v : Vector (Option Mark) 32) (w : Vector (Option Mark) 7) : Vector (Option Mark) 32 :=
    ix.foldl (fun v i => vset v i (vget none w (i - 1))) v
  let getM (v : Vector (Option Mark) 32) (w : Vector (Option Mark) 7) : Vector (Option Mark) 7 :=
    ix.foldl (fun w i => vset w (i - 1) (vget none v i)) w
  { b with
    core := { b.core with a := putReg b.core.a b.shadowA, s := putReg b.core.s b.shadowS,
                          am := putM b.core.am b.shadowAm, sm := putM b.core.sm b.shadowSm }
    shadowA := getReg b.core.a b.shadowA, shadowS := getReg b.core.s b.shadowS,
    shadowAm := getM b.core.am b.shadowAm, shadowSm := getM b.core.sm b.shadowSm }

/-- UIRET (R466). -/
def execUiret (s : State) : Out :=
  withBlock s fun id b =>
    if inHandler b then
      let b1 := swapShadow b
      goTo s id { b1 with uistat := b1.uistat &&& ~~~(4 : Word64) } b.uiret
    else raiseAt s id b .illegalInstr (jointSide b) 0

/-! ### TLBINV (R447, R448, R152) -/

/-- A VA lies in the named pages: n pages of 64 KiB from the page of `va`, or the whole space when n is zero. -/
def inPages (va n x : Nat) : Bool :=
  n == 0 || (decide (field va 54 16 ≤ x / 65536) && decide (x / 65536 < field va 54 16 + n))

/-- A translation maps a byte of the named pages. -/
def mapsPages (va n : Nat) (e : TlbEntry) : Bool :=
  let lo := field va 54 16 * 65536
  n == 0 || (decide (e.va < lo + n * 65536) && decide (lo < e.va + 2 ^ e.log))

/-- Number of entries up to the last one that the named pages hold. -/
def pageEntries (va n : Nat) (sb : List SbEntry) : Nat :=
  let hit (e : SbEntry) : Bool := match e.loc with
    | .pa _ => inPages va n e.va
    | .aper _ => false
  match firstIx hit sb.reverse with
  | some k => sb.length - k
  | none => 0

/-- Drain the named entries of the other blocks of the polder under one root (R152). A block whose entry fails takes
its trap at its own instruction (R270). -/
def drainOthers (root va n : Nat) (me : BlkId) : List (Nat × Block) → State → State × List (BlkId × List RemNeed)
  | [], s => (s, [])
  | (ctx, _) :: t, s =>
    let id : BlkId := ⟨me.p, ctx⟩
    match getBlock s id with
    | none => drainOthers root va n me t s
    | some b =>
      if id = me ∨ (blockAcc s id b).root ≠ root ∨ b.status = .halted ∨ b.status = .ended then drainOthers root va n me t s
      else match earlyDrain s id b (pageEntries va n b.sbuf) with
        | .done s' b' => drainOthers root va n me t (setBlock s' id b')
        | .wait s' b' r =>
          let (s2, w) := drainOthers root va n me t (setBlock s' id b')
          (s2, (id, r) :: w)
        | .down s' b' x c =>
          drainOthers root va n me t (takeTrap s' id b' (plainTrap c true x))

/-- Drop the translations of the named pages under a root. -/
def dropTlb (s : State) (p root va n : Nat) : State :=
  updPolder s p fun x => { x with tlb := x.tlb.filter fun e => !(e.root == root && mapsPages va n e) }

/-- An access that was translated under a root through the named pages is still to be performed: that of an accepted card, or
a request of another block or of a packet that has not been answered (R152). -/
def stillTranslated (s : State) (me : BlkId) (root va n : Nat) : Bool :=
  ((getPolder s me.p).cards.any fun c => c.root == root && (c.rdPa ++ c.wrPa).any fun r => inPages va n r.va)
  || s.dev.outstanding.any fun o => match o.who with
    | .block p x => p == me.p && x != me.ctx && (getBlock s ⟨p, x⟩).any fun b => (blockAcc s ⟨p, x⟩ b).root == root
    | .ahead p x _ | .feed p x _ => p == me.p && (getBlock s ⟨p, x⟩).any fun b => (blockAcc s ⟨p, x⟩ b).root == root
    | .packet p _ | .gone p => p == me.p
    | .card _ _ => false

/-- TLBINV (R447), which takes its first page from a_va[54:16]: bits 63 to 55 are ignored and raise nothing (DESIGN CHOICE, log
102). It completes once nothing is left to drain or to perform; having drained, it does so before its block is
at rest (R448). -/
def execTlbinv (ava an : RegNo) (s : State) : Out :=
  withBlock s fun id b =>
    let c := b.core
    unlessMarked s id b true [rmark c.am ava, rmark c.am an]
      (let va := (rget c.a ava).toNat
      let n := (rget c.a an).toNat
      let root := (blockAcc s id b).root
      afterDrain id (earlyDrain s id b (pageEntries va n b.sbuf)) fun s b =>
        let (s2, w) := drainOthers root va n id (getPolder s id.p).blocks (setBlock s id { b with begun := true })
        match getBlock s2 id with
        | none => .fault .noBlock
        | some b2 =>
          if b2.status ≠ b.status then .next s2
          else if w = [] ∧ stillTranslated s2 id root va n = false then finish (dropTlb s2 id.p root va n) id b2
          else .next (w.foldl (fun s x => askAll s (blockReq x.1) x.2) (setBlock s2 id { b2 with waiting := true })))

/-! ### Barriers (R353, R355) -/

/-- Completed phases of barrier k of the block's cluster. -/
def phasesOf (s : State) (id : BlkId) (b : Block) (k : BitVec 3) : Nat :=
  match clusterOf s id.p b.cid with
  | some c => vget 0 c.phases k.toNat
  | none => 0

/-- Arrivals that the program has made at k since the checkpoint's count. -/
def arrivedAt (b : Block) (k : BitVec 3) : Nat := vget 0 b.core.arrived k.toNat

/-- Arrivals that the block has made at k, rewinds apart. -/
def madeAt (b : Block) (k : BitVec 3) : Nat := vget 0 b.arrMade k.toNat

/-- One more program arrival at k. It re-attaches to an arrival made before a rewind, or is new; a new one that would be
the third in an incomplete phase must wait: none. -/
def arrive1 (s : State) (id : BlkId) (b : Block) (k : BitVec 3) : Option Block :=
  let n := arrivedAt b k + 1
  if n ≤ madeAt b k then some b
  else if madeAt b k < phasesOf s id b k + 2 then some { b with arrMade := vset b.arrMade k.toNat n }
  else none

/-- The program's count of arrivals at k goes up. -/
def countArrival (b : Block) (k : BitVec 3) : Block :=
  { b with core := { b.core with arrived := vset b.core.arrived k.toNat (arrivedAt b k + 1) } }

/-- ARRIVE (R353). -/
def execArrive (k : BitVec 3) (s : State) : Out :=
  withBlock s fun id b => notInHandler s id b (jointSide b)
    (match arrive1 s id b k with
    | some b' => finish s id (countArrival b' k)
    | none => holdOn s id b)

/-- AWAIT (R353). -/
def execAwait (k : BitVec 3) (s : State) : Out :=
  withBlock s fun id b => notInHandler s id b (jointSide b)
    (if arrivedAt b k ≤ phasesOf s id b k then finish s id b else holdOn s id b)

/-- BAR (R353): ARRIVE, then AWAIT. -/
def execBar (k : BitVec 3) (s : State) : Out :=
  withBlock s fun id b => notInHandler s id b (jointSide b)
    (match arrive1 s id b k with
    | none => holdOn s id b
    | some b' => if arrivedAt b k + 1 ≤ phasesOf s id b k then finish s id (countArrival b' k) else holdOn s id b')

end Sys2Proof.Machine
end

