-- ==== Sys2Proof/Machine/Strip.lean ====
section
/-! DEFINITION. The strip boundary (R74 to R76, R409 to R412), HALT (R380), TBIND, TDEAD and TZERO (R431 to R433, R438,
R463), and the control registers (R82, R363 to R365). -/

namespace Sys2Proof.Machine

/-! ### The strip boundary -/

/-- Every buffered entry is performed (R171); this drain is no early one. -/
def commit (s : State) (id : BlkId) (b : Block) : DrainOut := drainSome b.sbuf [] s id b

/-- Launch feeds may load from the first SHAPE on (R52). -/
def armFeeds (c : Core) : Core := { c with feeds := c.feeds.map fun f => { f with armed := true } }

/-- Write the three results of a grant to registers d to d + 2 of both files (R74). -/
def writeGrantRegs (c : Core) (d : RegNo) (gr gc : Nat) : Core :=
  [false, true].foldl (fun c side =>
    let c := regSet c side d (BitVec.ofNat 64 gr)
    let c := regSet c side (d + 1) (BitVec.ofNat 64 gc)
    regSet c side (d + 2) (BitVec.ofNat 64 (gr * gc))) c

/-- All records take a strip grant (R74). -/
def regrantAll (g : Word64) (c : Core) (gr gc : Nat) : Core :=
  { c with gr := gr, gc := gc, recs := c.recs.map (regrant g gr gc) }

/-- Bytes of a message in the sender's tile store (R223, R254). -/
def messageBytes (m : Message) : Nat := storeBytes m.ty m.rows m.cols

/-- The copies of a new strip: every live tile holds checkpointed contents (R76, R77). -/
def stripCopies (b : Block) (c : Core) : Copies :=
  { held := ((upTo 28).filter fun k => (getTile c k).live).map fun k => (k, tileBytes c k)
    kept := 0, lost := false
    store := fld b.grantc 4 0 * 65536 - b.msgs.foldl (fun n m => n + messageBytes m) 0 }

/-- Steps 4 to 6 of R75, after the commit. -/
def newStrip (b : Block) (d : RegNo) (gr gc : Nat) : Block :=
  let c0 := { b.core with shapeD := some d, arrived := b.arrMade, slabs := b.core.slabs.map fun e => (e.1, { e.2 with fresh := false }) }
  let c1 := armFeeds (writeGrantRegs (regrantAll b.grantc c0 gr gc) d gr gc)
  let c := { c1 with copies := stripCopies b c1 }
  { b with core := c, ckpt := c, ceiling := b.grantc, ckptPc := b.pc + 4, wmark := b.core.wmPend, stripId := b.stripId + 1,
           rewindable := true, consumed := [], rewinds := 0 }

/-- SHAPE and SHAPEI from their requests on (R410). -/
def shapeOp (s : State) (id : BlkId) (b : Block) (d : RegNo) (rq cq : Nat) : Out :=
  let (gr, gc) := stripGrant b.grantc b.core rq cq
  afterDrain id (commit s id b) fun s b => finish s id (newStrip b d gr gc)

/-- d must be 1 to 29 (R409). -/
def shapeDOk (d : RegNo) : Bool := decide (1 ≤ d.toNat) && decide (d.toNat ≤ 29)

/-- SHAPE (R410). In a handler the half of its ILLEGAL_INSTR is that of the side bit (DEDUCED, log 89). -/
def execShape (f : FmtSR) (s : State) : Out :=
  withBlock s fun id b => notInHandler s id b f.side
    (if shapeDOk f.rd then
      unlessMarked s id b f.side [regMark b.core f.side f.rs1, regMark b.core f.side f.rs2]
        (shapeOp s id b f.rd (regGet b.core f.side f.rs1).toNat (regGet b.core f.side f.rs2).toNat)
    else raiseAt s id b .illegalInstr f.side 0)

/-- SHAPEI (R410): the immediate is the row request, read unsigned. -/
def execShapei (f : FmtSI) (s : State) : Out :=
  withBlock s fun id b => notInHandler s id b f.side
    (if shapeDOk f.rd then
      unlessMarked s id b f.side [regMark b.core f.side f.rs1]
        (shapeOp s id b f.rd f.imm.toNat (regGet b.core f.side f.rs1).toNat)
    else raiseAt s id b .illegalInstr f.side 0)

/-! ### HALT (R380) -/

/-- The queues of a halted block: empty, feeds stopped (R52, R53). -/
def emptyQueues (c : Core) : Core :=
  { c with lq := Vector.replicate 4 ⟨[], 0⟩, sq := Vector.replicate 4 ⟨[], 0⟩, aq := ⟨[], 0⟩, eq := ⟨[], 0⟩,
           feeds := Vector.replicate 4 ⟨none, none, true⟩, slabs := [] }

/-- The block ends: its last watermark is published, and slabs, pins and shared store are released. -/
def haltBlock (b : Block) : Block :=
  { b.quiet with core := emptyQueues b.core, wmark := b.core.wmPend, status := .halted, place := none, pins := [],
                 shared := [], sharedMarks := [], sharedTop := 0, pc := b.pc + 4, recheck := [], prog := [], convoy := 0 }

/-- Once every block of its cluster has halted, the cluster leaves and unreceived messages are discarded (R225). -/
def clusterDone (s : State) (p cid : Nat) : State :=
  match clusterOf s p cid with
  | none => s
  | some c =>
    if c.ctxs.all fun x => match getBlock s ⟨p, x⟩ with
      | some b => b.status == .halted
      | none => true
    then
      let s := c.ctxs.foldl (fun s x => updBlock s ⟨p, x⟩ fun b => { b with msgs := [] }) s
      updCluster s p cid fun c => { c with resident := false }
    else s

/-- HALT (R380). -/
def execHalt (s : State) : Out :=
  withBlock s fun id b => notInHandler s id b (jointSide b)
    (afterDrain id (commit s id b) fun s b =>
      let b' := haltBlock b
      let s0 := updPolder s id.p fun x =>
        { x with adLines := x.adLines.map fun l => { l with pins := l.pins.filter (· != id.ctx) } }
      let s1 := writeHeader (setBlock s0 id b') id b'
      let s2 := match clusterOf s1 id.p b.cid with
        | some c => updTask s1 c.creator c.handle fun t => { t with halted := t.halted + 1 }
        | none => s1
      .next (clusterDone (disown s2 id) id.p b.cid))

/-! ### TBIND (R431 to R433, R67, R68) -/

/-- Kill the tiles that a test names. A tile that TBIND kills loses its dirty mark as one that TDEAD kills does (DEDUCED,
log 87). -/
def killTiles (c : Core) (p : Nat → Bool) : Core :=
  { c with tiles := (upTo 28).foldl (fun ts k => if p k then vset ts k Tile.dead else ts) c.tiles }

/-- Bound to a record, among the queues. -/
def queuesOf (c : Core) (h : PredNo) : List (Bool × Nat) :=
  ((upTo 4).filter fun k => vget 0 c.bindL k == h).map (fun k => (false, k))
    ++ ((upTo 4).filter fun k => vget 0 c.bindS k == h).map (fun k => (true, k))

/-- A queue holds elements. -/
def queueBusy (c : Core) (q : Bool × Nat) : Bool :=
  !(vget ⟨[], 0⟩ (if q.1 then c.sq else c.lq) q.2).elems.isEmpty

/-- A TBIND that writes a record or rebinds a load queue lets its launch feed load (R52). -/
def armQueues (c : Core) (ks : List Nat) : Core :=
  { c with feeds := ks.foldl (fun fs k => vset fs k { (vget ⟨none, none, true⟩ fs k) with armed := true }) c.feeds }

/-- TBIND of a record image (R67, R68, R432); none where it raises SHAPE_INVALID. -/
def bindRecord (g : Word64) (c : Core) (h : PredNo) (img : Word64) : Option Core :=
  match recOfWord img with
  | none => none
  | some r =>
    let old := recN c h
    let qs := queuesOf c h
    if (qs ≠ [] ∧ r.g ≠ 0) ∨ (r.ty ≠ old.ty ∧ qs.any (queueBusy c)) then none
    else
      let r' := regrant g c.gr c.gc r
      let change := !(decide (r.ty = old.ty) && r.g == old.g && decide (r.lay = old.lay) && r.reqr == old.reqr
        && r.reqc == old.reqc)
      let c1 := { c with recs := c.recs.set h.toNat r' h.isLt }
      let c2 := armQueues c1 ((qs.filter fun q => !q.1).map Prod.snd)
      some (if change then killTiles c2 fun k => vget 0 c.bindT k == h else c2)

/-- TBIND hN, sM (R432). -/
def execTbindRecord (h : PredNo) (sm : RegNo) (s : State) : Out :=
  withBlock s fun id b => notInHandler s id b (jointSide b)
    (unlessMarked s id b false [rmark b.core.sm sm]
      (match bindRecord b.ceiling b.core h (rget b.core.s sm) with
      | some c => finish s id { b with core := c }
      | none => raiseAt s id b .shapeInvalid (jointSide b) 0))

/-- Rebinding a queue is refused: g > 1, or another TYPE while it holds elements (R432, R433). -/
def queueBindBad (c : Core) (h : PredNo) (q : Bool × Nat) : Bool :=
  let old := recN c (vget 0 (if q.1 then c.bindS else c.bindL) q.2)
  (recN c h).g != 0 || (queueBusy c q && !decide ((recN c h).ty = old.ty))

/-- Bind tiles `ts`, load queues `ls` and store queues `ss` to a record; a tile bound to another record dies (R68). -/
def bindNames (c : Core) (h : PredNo) (ts ls ss : List Nat) : Core :=
  let c1 := killTiles c fun k => ts.contains k && vget 0 c.bindT k != h
  armQueues { c1 with bindT := ts.foldl (fun v k => vset v k h) c1.bindT, bindL := ls.foldl (fun v k => vset v k h) c1.bindL,
                      bindS := ss.foldl (fun v k => vset v k h) c1.bindS } ls

/-- TBIND of tile or load-queue codes (R431 to R433). -/
def execTbindTiles (first last : TileCode) (h : PredNo) (s : State) : Out :=
  withBlock s fun id b => notInHandler s id b (jointSide b)
    (let lo := first.toNat
    let hi := last.toNat
    if hi < lo ∨ (lo ≤ 27 ∧ 28 ≤ hi) then raiseAt s id b .illegalInstr (jointSide b) 0
    else
      let names := span lo (hi + 1 - lo)
      let ts := names.filter fun k => decide (k < 28)
      let ls := (names.filter fun k => decide (28 ≤ k)).map (· - 28)
      if ts.any (fun k => decide (declared b.grantc ≤ k)) ∨ ls.any (fun k => queueBindBad b.core h (false, k)) then
        raiseAt s id b .shapeInvalid (jointSide b) 0
      else finish s id { b with core := bindNames b.core h ts ls [] })

/-- TBIND of store queues (R431 to R433). -/
def execTbindSq (first last : BitVec 2) (h : PredNo) (s : State) : Out :=
  withBlock s fun id b => notInHandler s id b (jointSide b)
    (let lo := first.toNat
    let hi := last.toNat
    if hi < lo then raiseAt s id b .illegalInstr (jointSide b) 0
    else
      let ss := span lo (hi + 1 - lo)
      if ss.any fun k => queueBindBad b.core h (true, k) then raiseAt s id b .shapeInvalid (jointSide b) 0
      else finish s id { b with core := bindNames b.core h [] [] ss })

/-! ### TDEAD and TZERO -/

/-- TDEAD (R438). -/
def execTdead (first last : TileCode) (s : State) : Out :=
  withBlock s fun id b => notInHandler s id b false
    (if last.toNat < first.toNat then raiseAt s id b .illegalInstr false 0
    else if 28 ≤ last.toNat ∨ declared b.grantc ≤ last.toNat then raiseAt s id b .shapeInvalid false 0
    else finish s id { b with core := killTiles b.core fun k => decide (first.toNat ≤ k) && decide (k ≤ last.toNat) })

/-- A tile that TZERO has written. -/
def zeroTile (h : ShapeRec) : Tile := { Tile.dead with live := true, dirty := true, hwr := h.gr, hwc := h.gc }

/-- TZERO (R463); an empty strip changes no tile (R74). -/
def execTzero (t : TileCode) (s : State) : Out :=
  withBlock s fun id b => notInHandler s id b false
    (if 28 ≤ t.toNat ∨ tileOk b.grantc b.core t.toNat = false then raiseAt s id b .shapeInvalid false 0
    else
      let h := dstRec b.core t
      finish s id { b with core := writeTiles b.core t.toNat h fun _ => zeroTile h })

/-! ### Control registers (R82, R363 to R365) -/

/-- A card of the block is incomplete. -/
def openCards (b : Block) : List CardRec := b.cardRecs.filter fun r => r.status.isNone

/-- The largest n such that cards 1 to n have completed. -/
def cardsDone (b : Block) : Nat := (openCards b).foldl (fun n r => Nat.min n (r.seq - 1)) b.cardSeq

/-- ENGSTAT (R214). -/
def engstat (b : Block) : Word64 :=
  BitVec.ofNat 64 ((cardsDone b <<< 24) + ((openCards b).length <<< 11) + b.lastErr % 16)

/-- Record numbers packed three bits each. -/
def packBinds (l : List PredNo) : Nat := l.foldr (fun h n => h.toNat + 8 * n) 0

/-- TBMAP1 (R82). -/
def tbmap1 (c : Core) : Nat :=
  packBinds (c.bindT.toList.drop 16) + (packBinds (c.bindL.toList ++ c.bindS.toList) <<< 36)

/-- Bit k for each tile that satisfies a test. -/
def tileBits (c : Core) (p : Tile → Bool) : Nat := bitsOf ((upTo 28).filter fun k => p (getTile c k))

/-- The value of control register n; none where R82 assigns none. -/
def crRead (b : Block) (n : Nat) : Option Word64 :=
  let c := b.core
  if 0x01A ≤ n ∧ n ≤ 0x01D then some (BitVec.ofNat 64 (vget 0 b.loopix (n - 0x01A) % 2 ^ 32))
  else if 0x030 ≤ n ∧ n ≤ 0x037 then some (recWord (vget ShapeRec.default c.recs (n - 0x030)))
  else match n with
    | 0x000 => some c.fmode | 0x001 => some c.fstat | 0x002 => some b.grantc | 0x003 => some c.sidx
    | 0x008 => some b.tcause | 0x009 => some b.tcoord | 0x00A => some b.taddr | 0x00B => some b.fltpc
    | 0x00C => some b.progix | 0x010 => some b.stripId | 0x011 => some b.wmark
    | 0x018 => some (BitVec.ofNat 64 b.blkid) | 0x019 => some (BitVec.ofNat 64 b.clrank)
    | 0x020 => some b.uivec | 0x021 => some b.uistat | 0x028 => some (engstat b) | 0x029 => some b.adtBase
    | 0x038 => some (BitVec.ofNat 64 (packBinds (c.bindT.toList.take 16)))
    | 0x039 => some (BitVec.ofNat 64 (tbmap1 c))
    | 0x03A => some (BitVec.ofNat 64 (tileBits c fun t => t.live))
    | 0x03B => some (BitVec.ofNat 64 (tileBits c fun t => t.dirty))
    | _ => none

/-- RW bits of FMODE (R83). -/
def fmodeMask : Word64 := 0xFFFFFFFF00007F7E
/-- RW bits of UIVEC (R220). -/
def uivecMask : Word64 := 0x007FFFFFFFFFFFFC
/-- RW bits of ADTBASE (R125). -/
def adtbaseMask : Word64 := 0xF87FFFFFFFFFFFE0

/-- A write of control register n under its access codes (R4, R364); none where the register is RO throughout or not
assigned. -/
def crWrite (b : Block) (n : Nat) (v : Word64) : Option Block :=
  let c := b.core
  match n with
  | 0x000 => some { b with core := { c with fmode := maskWrite c.fmode v fmodeMask } }
  | 0x001 => some { b with core := { c with fstat := c.fstat &&& ~~~(v &&& 0x7F) } }
  | 0x003 => some { b with core := { c with sidx := v } }
  | 0x020 => some (nonRewindable { b with uivec := maskWrite b.uivec v uivecMask })
  | 0x021 => some (nonRewindable { b with uistat := b.uistat &&& ~~~(v &&& 3) })
  | 0x029 => some (nonRewindable { b with adtBase := maskWrite b.adtBase v adtbaseMask })
  | _ => none

/-- CTLR (R364). -/
def execCtlr (side : Bool) (rd : RegNo) (n : BitVec 12) (s : State) : Out :=
  withBlock s fun id b =>
    match crRead b n.toNat with
    | some v => finish s id { b with core := regSet b.core side rd v }
    | none => raiseAt s id b .illegalInstr side 0

/-- CTLW (R364, R365). -/
def execCtlw (side : Bool) (rs : RegNo) (n : BitVec 12) (s : State) : Out :=
  withBlock s fun id b =>
    match crWrite b n.toNat (regGet b.core side rs) with
    | some b' => unlessMarked s id b side [regMark b.core side rs] (finish s id b')
    | none => raiseAt s id b .illegalInstr side 0

end Sys2Proof.Machine
end

