-- ==== Sys2Proof/Machine/Engines.lean ====
section
/-! DEFINITION. ENGB, ENGW and ENGQ (R208 to R213, R366 to R368), FENCE.st (R193, R379), and the watermark instructions
WMPUB and WMWAIT (R183 to R185, R468 to R470). -/

namespace Sys2Proof.Machine

/-! ### ENGB -/

/-- The 512 bits of a row of the card tile (R197). -/
def cardRow (x : Src) (i : Nat) : Nat :=
  let w := typeWidth x.rc.ty
  (upTo (512 / w)).foldr (fun k n => x.get (i * x.rc.gc + k) + n * 2 ^ w) 0

/-- The accessor that the engines are for a block (R148, R205). -/
def engineAcc (s : State) (id : BlkId) (b : Block) : Acc := { blockAcc s id b with cu := none, rem := [] }

/-- Block size of the pair that a card names. -/
def cardBlk (s : State) (p d : Nat) : Nat := if cKind d = 5 then qpBlock (getQp s p (cQp d)) else 0

/-- What R209 says of a card's row, in the order of its tests; a fault of the probe apart. -/
def rowReason (s : State) (id : BlkId) (b : Block) (d : Nat) : Except (Cause × Nat × Bool) RowReason :=
  match cardReason s id.p d with
  | some r => .ok r
  | none =>
    let acc := engineAcc s id b
    let blk := cardBlk s id.p d
    match cardProbe s acc blk d with
    | some f => .error f
    | none =>
      if tooManyRuns s acc blk d then .ok .invalid
      else if selfOverlap s acc blk d then .ok .footprintOverlap
      else if 4096 ≤ (getPolder s id.p).cards.length ∨ 2 ^ 40 - 1 ≤ b.cardSeq then .ok .full
      else .ok .accepted

/-- A card is accepted (R209): it takes the next sequence number and joins the polder's cards. -/
def acceptCard (s : State) (id : BlkId) (b : Block) (batch row d : Nat) : State × Block :=
  let acc := engineAcc s id b
  let (r, w) := cardRegions (cardBlk s id.p d) d
  let seq := b.cardSeq + 1
  let nv := decide (cKind d = 5)
  let x := getPolder s id.p
  let c : Card := { num := x.nextCard, ctx := id.ctx, seq := seq, batch := batch, row := row, data := d, root := acc.root,
                    rdPa := runsOf s acc r, wrPa := runsOf s acc w, avoid := [], started := false, slot := none, ranges := [], rem := [] }
  let rec' : CardRec := ⟨seq, none, 0, 0, if nv then cNsid d else 0, if nv then cQp d else 0, if nv then some (cOpc d) else none⟩
  (setPolder s id.p { x with nextCard := x.nextCard + 1, cards := x.cards ++ [c] },
   nonRewindable { b with cardSeq := seq, cardRecs := b.cardRecs ++ [rec'] })

/-- The rows of R209 in ascending order: state, block, reasons so far, accepted rows. -/
def engbRows (id : BlkId) (x : Src) (batch : Nat) (active : Nat → Bool) :
    List Nat → Option RowReason → State → Block → List Nat → List Nat → State × Block × List Nat × List Nat
  | [], _, s, b, rs, acc => (s, b, rs, acc)
  | i :: t, stop, s, b, rs, acc =>
    let go (s : State) (b : Block) (r : RowReason) (stop : Option RowReason) (acc : List Nat) :=
      engbRows id x batch active t stop s b (rs ++ [reasonCode r]) acc
    if active i = false then go s b .inactive stop acc
    else match stop with
    | some r => go s b r stop acc
    | none => match rowReason s id b (cardRow x i) with
      | .error _ => go s b .faultBehind (some .faultBehind) acc
      | .ok .accepted =>
        let (s', b') := acceptCard s id b batch i (cardRow x i)
        go s' b' .accepted none (acc ++ [i])
      | .ok .full => go s b .full (some .full) acc
      | .ok r => go s b r none acc

/-- The fault of the first active row (R209). -/
def engbFirst (s : State) (id : BlkId) (b : Block) (x : Src) (act : List Nat) : Option TrapInfo :=
  match act with
  | [] => none
  | i :: _ => match rowReason s id b (cardRow x i) with
    | .error (c, va, more) => some (elemTrap c true more (coordAt x.rc x.code (i * x.rc.gc)) va)
    | .ok _ => none

/-- The first mark of a row of the card tile, in any of its chunks (R366). -/
def rowMark (x : Src) (i : Nat) : Option Hit :=
  (((upTo x.rc.gc).filter fun k => k * typeWidth x.rc.ty % 512 == 0).findSome? fun k => x.mark (i * x.rc.gc + k)).map fun m =>
    markHit x (i * x.rc.gc) m

/-- ENGB (R209, R366): poisoned rows and a fault of the first active card come before the release. -/
def execEngb (t : TileCode) (pd : PredNo) (aseq : RegNo) (pg : PredNo) (s : State) : Out :=
  withBlock s fun id b =>
    let c := b.core
    let h := srcRec c t
    match shapeCause (decide (28 ≤ t.toNat) || !tileOk b.grantc c t.toNat) (h.g != 0 || decide (h.gc * typeWidth h.ty < 512)) with
    | some c => raiseAt s id b c true 0
    | none =>
      let x := tileSrc c t.toNat
      let act := (upTo h.gr).filter (predBit c pg)
      let marks := act.filterMap (rowMark x)
      let dead := if deadReads c then (act.filter fun i => x.dead (i * h.gc)).map fun i => deadHit x (i * h.gc) else []
      if marks ++ dead ≠ [] then conclude s id b true (marks ++ dead) 0 (holdOn s id b)
      else match engbFirst s id b x act with
      | some t => raise s id b t
      | none => afterDrain id (release s id b) fun s b =>
        match engbFirst s id b x act with
        | some t => raise s id b t
        | none =>
          let batch := (getPolder s id.p).nextBatch
          let s0 := updPolder s id.p fun y => { y with nextBatch := batch + 1 }
          let (s1, b1, rs, acc) := engbRows id x batch (predBit c pg) (upTo h.gr) none s0 b [] []
          let c1 := setPred b1.core pd (bitsOf acc)
          let c2 := if acc = [] then c1 else regSet c1 true aseq (BitVec.ofNat 64 b1.cardSeq)
          finish s1 id { b1 with core := c2, engRows := rs }

/-! ### ENGW and ENGQ -/

/-- The lowest sequence number up to a bound whose status is not OK, or 0 (R212). -/
def lowestBad (b : Block) (bound : Nat) : Nat :=
  ((b.cardRecs.filter fun r => decide (r.seq ≤ bound) && r.status.any (· != 0)).foldl
    (fun m r => if m = 0 then r.seq else Nat.min m r.seq) 0)

/-- ENGW: wait, write a_d, then `k` ends it. -/
def engwOp (d bnd : RegNo) (s : State) (k : State → BlkId → Block → Nat → Out) : Out :=
  withBlock s fun id b =>
    unlessMarked s id b true [rmark b.core.am bnd]
      (let bound := fld (rget b.core.a bnd) 39 0
      if cardsDone b < bound then holdOn s id b
      else
        let bad := lowestBad b bound
        k s id { b with core := regSet b.core true d (BitVec.ofNat 64 bad) } bad)

/-- ENGW (R212, R367). -/
def execEngw (d b : RegNo) (s : State) : Out := engwOp d b s fun s id blk _ => finish s id blk

/-- ENGW.chk (R212): ENGINE_FAULT after a_d is written. -/
def execEngwChk (d b : RegNo) (s : State) : Out :=
  engwOp d b s fun s id blk bad => if bad = 0 then finish s id blk else raiseAt s id blk .engineFault true 0

/-- ENGQ: a value computed from the operand, at once. -/
def engqOp (d : RegNo) (src : Option RegNo) (s : State) (f : Block → Word64 → Nat) : Out :=
  withBlock s fun id b =>
    unlessMarked s id b true (src.toList.map (rmark b.core.am))
      (let v := match src with
        | some r => rget b.core.a r
        | none => 0
      finish s id { b with core := regSet b.core true d (BitVec.ofNat 64 (f b v)) })

/-- ENGQ.row (R213). -/
def execEngqRow (d a : RegNo) (s : State) : Out :=
  engqOp d (some a) s fun b v => b.engRows.getD (fld v 7 0) 1

/-- What ENGQ.card reports (R213, R368). -/
def cardReport (b : Block) (seq : Nat) : Nat :=
  match b.cardRecs.find? fun r => r.seq == seq with
  | none => 15
  | some r => match r.status with
    | none => 15
    | some st => (r.bytes % 2 ^ 40) * 2 ^ 24 + (r.nvst % 65536) * 256 + st % 16

/-- ENGQ.card (R213). -/
def execEngqCard (d a : RegNo) (s : State) : Out := engqOp d (some a) s fun b v => cardReport b (fld v 39 0)

/-- ENGQ.fence (R213). -/
def execEngqFence (d : RegNo) (s : State) : Out := engqOp d none s fun b _ => b.fenceSeq

/-! ### FENCE.st -/

/-- The Write and Dataset Management cards that a FENCE.st covers (R379). -/
def coveredCards (b : Block) : List CardRec :=
  b.cardRecs.filter fun r => decide (b.covered < r.seq) && (r.opc == some 1 || r.opc == some 9)

/-- The distinct pairs of NSID and queue pair that some cards used. -/
def fencePairs (l : List CardRec) : List (Nat × Nat) := (l.map fun r => (r.nsid, r.qp)).eraseDups

/-- The data of a Flush card for a namespace on a pair. -/
def flushData (nsid qp : Nat) : Nat := (((nsid <<< 32) + (qp <<< 16)) <<< 256) + 5 + (5 <<< 4)

/-- Submit the Flushes not yet submitted (R379). They are cards of the polder like any other and count towards its 4,096
incomplete ones (R209; DESIGN CHOICE, log 104). -/
def submitFlushes (id : BlkId) : List (Nat × Nat) → State → Block → State × Block
  | [], s, b => (s, b)
  | (nsid, qp) :: t, s, b =>
    if b.flushes.any fun f => f.nsid == nsid && f.qp == qp then submitFlushes id t s b
    else
      let x := getPolder s id.p
      let c : Card := { num := x.nextCard, ctx := id.ctx, seq := 0, batch := x.nextBatch, row := 0, data := flushData nsid qp,
                        root := 0, rdPa := [], wrPa := [], avoid := [], started := false, slot := none, ranges := [], rem := [] }
      submitFlushes id t (setPolder s id.p { x with nextCard := x.nextCard + 1, nextBatch := x.nextBatch + 1,
                                                    cards := x.cards ++ [c] })
        (nonRewindable { b with flushes := b.flushes ++ [⟨nsid, qp, none⟩] })

/-- The smallest of some numbers. -/
def leastOf : List Nat → Option Nat
  | [] => none
  | x :: t => some (t.foldl Nat.min x)

/-- The sequence number that ENGQ.fence returns (R379), if anything failed. -/
def fenceFailure (b : Block) (cov : List CardRec) : Option Nat :=
  match leastOf ((cov.filter fun r => r.status.any (· != 0)).map CardRec.seq) with
  | some n => some n
  | none => leastOf ((b.flushes.filter fun f => f.status.any (· != 0)).map fun f =>
      (cov.filter fun r => r.nsid == f.nsid && r.qp == f.qp).foldl (fun m r => Nat.max m r.seq) 0)

/-- FENCE.st and FENCE.st.durable (R193, R379). -/
def execFenceSt (durable : Bool) (s : State) : Out :=
  withBlock s fun id b =>
    let cov := coveredCards b
    if cov.any fun r => r.status.isNone then holdOn s id b
    else
      let pairs := if durable then fencePairs cov else []
      let (s1, b1) := submitFlushes id pairs s b
      if b1.flushes.any fun f => f.status.isNone then holdOn s1 id b1
      else match fenceFailure b1 cov with
        | some n => raiseAt s1 id { b1 with fenceSeq := n, covered := b1.cardSeq, flushes := [] } .storageError true 0
        | none => finish s1 id { b1 with covered := b1.cardSeq, flushes := [] }

/-! ### Watermarks -/

/-- WMPUB (R469). -/
def execWmpub (a : RegNo) (s : State) : Out :=
  withBlock s fun id b =>
    unlessMarked s id b true [rmark b.core.am a]
      (let v := rget b.core.a a
      finish s id { b with core := { b.core with wmPend := if b.core.wmPend.ult v then v else b.core.wmPend } })

/-- The watermark of a completed task. -/
def wmTop : Nat := 2 ^ 64 - 1

/-- The contribution of a placed block (R184). -/
def blockMark (b : Block) : Nat :=
  if b.status = .halted ∧ (openCards b).isEmpty = true then wmTop else b.wmark.toNat

/-- The blocks of a task that have been placed, in every polder. -/
def taskBlocks (s : State) (creator handle : Nat) : List Block :=
  (upTo 16).flatMap fun p => ((getPolder s p).clusters.filter fun c => c.creator == creator && c.handle == handle).flatMap fun c =>
    c.ctxs.filterMap fun x => getBlock s ⟨p, x⟩

/-- The watermark of a task (R184). -/
def taskMark (s : State) (creator handle : Nat) : Nat :=
  match getTask s creator handle with
  | none => wmTop
  | some t =>
    if t.ended.isSome then wmTop
    else if t.placed < t.nblocks then 0
    else (taskBlocks s creator handle).foldl (fun m b => Nat.min m (blockMark b)) wmTop

/-- A handle names a task of a polder, running or completed (R235). -/
def namesTask (s : State) (creator h : Nat) : Bool :=
  h != 0 && decide (h < 2 ^ 48) && decide (h < (getPolder s creator).nextTask)

/-- WMWAIT (R185, R470). -/
def execWmwait (h b : RegNo) (s : State) : Out :=
  withBlock s fun id blk =>
    let c := blk.core
    unlessMarked s id blk true [rmark c.am h, rmark c.am b]
      (let creator := match taskOf s id blk with
        | some (p, _) => p
        | none => id.p
      let n := (rget c.a h).toNat
      if namesTask s creator n = false then raiseAt s id blk .perm true 0
      else if (rget c.a b).toNat ≤ taskMark s creator n then finish s id blk
      else holdOn s id blk)

end Sys2Proof.Machine
end

