-- ==== Sys2Proof/Machine/Exchange.lean ====
section
/-! DEFINITION. Tile exchange: TSEND and TRECV (R222 to R225, R453). -/

namespace Sys2Proof.Machine

/-- The issue-time cause of both, and the ranks they may name: bits [3:0] alone, and a member of the cluster. -/
def exchangeOp (t : TileCode) (rank tag : RegNo) (s : State) (k : BlkId → Block → Cluster → Nat → Nat → Out) : Out :=
  withBlock s fun id b => notInHandler s id b true
    (let c := b.core
    if 28 ≤ t.toNat ∨ tileOk b.grantc c t.toNat = false then raiseAt s id b .shapeInvalid true 0
    else
      unlessMarked s id b true [rmark c.am rank, rmark c.am tag]
        (let r := (rget c.a rank).toNat
        match clusterOf s id.p b.cid with
        | none => raiseAt s id b .perm true 0
        | some cl =>
          if 15 < r ∨ cl.ctxs.length ≤ r then raiseAt s id b .perm true 0
          else k id b cl r (fld (rget c.a tag) 15 0)))

/-- The snapshot of a tile operand as a message (R223): keys are those of one tile whose rows are the operand's. -/
def snapshot (c : Core) (n dest tag : Nat) : Message :=
  let h := recN c (vget 0 c.bindT n)
  let tiles := (upTo (groupSize h)).map fun j => (j * h.gr, getTile c (n + j))
  let inRange (k w : Nat) (lim : Nat) : Bool := decide (k / w < h.gr) && decide (k % w < lim)
  { dest := dest, tag := tag, ty := h.ty, rows := recRows h, cols := h.gc,
    elems := tiles.flatMap fun (o, t) => (t.elems.filter fun e => inRange e.1 16384 h.gc).map fun e => (e.1 + o * 16384, e.2),
    scales := tiles.flatMap fun (o, t) => (t.scales.filter fun e => inRange e.1 512 (ceilDiv h.gc 32)).map fun e => (e.1 + o * 512, e.2),
    marks := tiles.flatMap fun (o, t) =>
      (t.marks.filter fun e => inRange e.1 256 (ceilDiv (h.gc * typeWidth h.ty) 512)).map fun e => (e.1 + o * 256, e.2) }

/-- TSEND (R223, R453). -/
def execTsend (t : TileCode) (rank tag : RegNo) (s : State) : Out :=
  exchangeOp t rank tag s fun id b cl r g =>
    let x := tileSrc b.core t.toNat
    let hits := readHits b.core ((upTo (recElems x.rc)).map fun i => (i, [(x, i)])) false
    if hits ≠ [] then conclude s id b true hits 0 (holdOn s id b)
    else if 4 ≤ b.msgs.length then holdOn s id b
    else
      let b1 := nonRewindable { b with msgs := b.msgs ++ [snapshot b.core t.toNat r g] }
      let dst : BlkId := ⟨id.p, cl.ctxs.getD r 0⟩
      if dst = id then finish s id (setEvent b1)
      else finish (updBlock s dst setEvent) id b1

/-- The rows of a message for one tile of the operand, from row `o` on. No tail is left (R224), so HWR and HWC become GR and GC
also where they were larger (DESIGN CHOICE, log 101). -/
def messageTile (h : ShapeRec) (m : Message) (o : Nat) : Tile :=
  let part {α : Type} (w : Nat) (l : SMap α) : SMap α :=
    (l.filter fun e => decide (o ≤ e.1 / w) && decide (e.1 / w < o + h.gr)).map fun e => (e.1 - o * w, e.2)
  { zeroTile h with elems := part 16384 m.elems, scales := part 512 m.scales, marks := part 256 m.marks }

/-- The message written into the operand (R224): every element, with no tail left. -/
def receiveTile (c : Core) (n : Nat) (m : Message) : Core :=
  let h := recN c (vget 0 c.bindT n)
  writeTiles c n h fun j => messageTile h m (j * h.gr)

/-- Room in tile store that a message leaves behind, for the strip and for its rewind. -/
def freeStore (m : Message) (c : Core) : Core := { c with copies := { c.copies with store := c.copies.store + messageBytes m } }

/-- Take the message m at an index away. -/
def dropMessage (k : Nat) (m : Message) (b : Block) : Block :=
  { b with msgs := b.msgs.eraseIdx k, core := freeStore m b.core, ckpt := freeStore m b.ckpt }

/-- TRECV (R224, R453). -/
def execTrecv (t : TileCode) (rank tag : RegNo) (s : State) : Out :=
  exchangeOp t rank tag s fun id b cl r g =>
    let src : BlkId := ⟨id.p, cl.ctxs.getD r 0⟩
    let box := if src = id then b.msgs else match getBlock s src with
      | some x => x.msgs
      | none => []
    match firstIx (fun m : Message => m.dest == b.clrank && m.tag == g) box with
    | none => holdOn s id b
    | some k => match box[k]? with
      | none => holdOn s id b
      | some m =>
        let h := srcRec b.core t
        if h.ty ≠ m.ty ∨ recRows h ≠ m.rows ∨ h.gc ≠ m.cols then raiseAt s id b .shapeMismatch true 0
        else
          let b1 := nonRewindable { b with core := receiveTile b.core t.toNat m }
          if src = id then finish s id (dropMessage k m b1)
          else finish (updBlock s src (dropMessage k m)) id b1

end Sys2Proof.Machine
end

