-- ==== Sys2Proof/Decode.lean ====
section
/-! DEFINITION. The decoder (R286 to R305), total on any bytes and rejecting by name, and after it the encoder. Both
work on the fields of a word that the formats of R287 share. -/

namespace Sys2Proof

/-- Why a word is no instruction (R289), or is one that its fields alone make trap. -/
inductive DecodeError where
  /-- The major code is 0x00 or 0x30 to 0x3F (R289, R292). ILLEGAL_INSTR. -/
  | unassignedMajor
  /-- A funct, cond, quarter or subfield code is not assigned (R292). ILLEGAL_INSTR. -/
  | unassignedCode
  /-- A reserved field, or a field the row fixes, holds another value (R289). ILLEGAL_INSTR. -/
  | reservedField
  /-- C = 1 on an instruction that may not join a convoy (R289, R57). CONVOY_CONFLICT. -/
  | convoyBit
  /-- A tile-operand field holds a code that its instruction does not accept (R289, R290). SHAPE_INVALID. -/
  | tileCode
  /-- Fewer than four bytes are left. -/
  | tooShort
  deriving DecidableEq, Repr

/-- The fields that the formats share: [31:26], [25], [24:20], [19:15], [14:10], [9:0] (R287). -/
structure Fields where
  major : BitVec 6
  b25 : Bool
  f1 : BitVec 5
  f2 : BitVec 5
  f3 : BitVec 5
  lo : BitVec 10
  deriving DecidableEq, Repr

/-- Split a word into its fields. -/
def Fields.ofWord (w : Word32) : Fields :=
  { major := w.extractLsb' 26 6, b25 := w.getLsbD 25, f1 := w.extractLsb' 20 5, f2 := w.extractLsb' 15 5,
    f3 := w.extractLsb' 10 5, lo := w.extractLsb' 0 10 }

/-- Join fields into a word. -/
def Fields.toWord (f : Fields) : Word32 :=
  f.major ++ (BitVec.ofBool f.b25 ++ (f.f1 ++ (f.f2 ++ (f.f3 ++ f.lo))))

/-- imm15, the low fifteen bits of format SI. -/
def Fields.imm15 (f : Fields) : BitVec 15 := f.f3 ++ f.lo
/-- pg, bits [9:7] of formats TT, M and MX. -/
def Fields.pg (f : Fields) : PredNo := f.lo.extractLsb' 7 3
/-- pn, bit [6] of format TT. -/
def Fields.pn (f : Fields) : Bool := f.lo.getLsbD 6
/-- funct6 of format TT. -/
def Fields.fn6 (f : Fields) : BitVec 6 := f.lo.extractLsb' 0 6
/-- Bits [6:4] of format M. -/
def Fields.mid3 (f : Fields) : BitVec 3 := f.lo.extractLsb' 4 3
/-- funct of format M. -/
def Fields.fn4 (f : Fields) : BitVec 4 := f.lo.extractLsb' 0 4
/-- Bits [6:2] of format MX. -/
def Fields.rep5 (f : Fields) : BitVec 5 := f.lo.extractLsb' 2 5
/-- funct of format MX. -/
def Fields.fn2 (f : Fields) : BitVec 2 := f.lo.extractLsb' 0 2
/-- The guard of format TT. -/
def Fields.guard (f : Fields) : Guard := ⟨f.pg, f.pn⟩

/-- The result of decoding. -/
abbrev Decoded := Except DecodeError Instr

/-- Go on only where a fixed or reserved field holds what its row demands (R289). -/
def need (ok : Bool) (k : Decoded) : Decoded := if ok then k else .error .reservedField

/-- An instruction that may not join a convoy traps on C = 1 once its other fields are right (R289). -/
def noConvoy (f : Fields) (k : Decoded) : Decoded := if f.b25 then .error .convoyBit else k

/-! ### Codes -/

/-- Scope codes (R164); 0b110 and 0b111 are not assigned here. -/
def decodeScope : BitVec 3 → Option Scope
  | 0 => some .blk | 1 => some .cl | 2 => some .pol | 3 => some .pkg | 4 => some .dom | 5 => some .sys
  | _ => none

/-- Order codes (R174). -/
def decodeOrder : BitVec 2 → MemOrder
  | 0 => .relaxed | 1 => .acq | 2 => .rel | _ => .ar

/-- Size codes of LD (R300). -/
def decodeLdSize : BitVec 3 → Option LdSize
  | 0 => some .n8 | 1 => some .n16 | 2 => some .n32 | 3 => some .d | 4 => some .i8 | 5 => some .i16 | 6 => some .i32
  | _ => none

/-- Size codes of ST (R414). -/
def decodeStSize : BitVec 3 → Option StSize
  | 0 => some .n8 | 1 => some .n16 | 2 => some .n32 | 3 => some .d | _ => none

/-- Comparison codes (R297, R434). -/
def decodeCmp : BitVec 5 → Option CmpOp
  | 0 => some .eq | 1 => some .ne | 2 => some .lt | 3 => some .le | 4 => some .gt | 5 => some .ge | _ => none

/-- Conversion codes of FCVT (R297). -/
def decodeFcvt : BitVec 5 → Option FcvtOp
  | 0 => some .f32f64 | 1 => some .f64f32 | 2 => some .i64f32 | 3 => some .i64f64 | 4 => some .n64f32
  | 5 => some .n64f64 | 6 => some .f32i64 | 7 => some .f64i64 | 8 => some .f32n64 | 9 => some .f64n64
  | 10 => some .bf16f32 | 11 => some .f32bf16 | 12 => some .f16f32 | 13 => some .f32f16 | _ => none

/-- Operation codes of TAMO (R426). -/
def decodeTamoOp : BitVec 4 → Option AmoOp
  | 1 => some .add | 2 => some .and | 3 => some .or | 4 => some .xor | 5 => some .min | 6 => some .max
  | 7 => some .minn | 8 => some .maxn | 9 => some .swp | 10 => some .fadd | _ => none

/-- Operation codes of the reductions (R454). -/
def decodeRed : BitVec 2 → Option RedOp
  | 0 => some .add | 1 => some .min | 2 => some .max | _ => none

/-! ### The majors (R292) -/

/-- Major 0x01, the SYS group (R293). Fields that a row does not use are zero, side included. -/
def decodeSys (f : Fields) : Decoded :=
  let z := !f.b25 && f.f1 == 0 && f.f2 == 0 && f.f3 == 0
  match f.lo.toNat with
  | 0 => need z (.ok .nop)
  | 1 => need z (.ok .halt)
  | 2 => need z (.ok .yield)
  | 3 => need z (.ok .wfe)
  | 4 => need z (.ok .brk)
  | 5 => need (f.f1 == 0 && f.f3 == 0) (.ok (.trap ⟨f.b25, f.f2⟩))
  | 6 => need z (.ok .sysc)
  | 7 => need (!f.b25 && f.f1 == 0 && f.f2 == 0 && (f.f3 == 0 || f.f3 == 1)) (.ok (.uien (f.f3 == 1)))
  | 8 => need z (.ok .uiret)
  | 9 => need (f.b25 && f.f1 == 0) (.ok (.tlbinv f.f2 f.f3))
  | 10 => need z (.ok .tlbinvS2)
  | 11 => need z (.ok .eret)
  | _ => .error .unassignedCode

/-- Major 0x02, CTLR and CTLW (R363). An unassigned register number traps when the instruction issues. -/
def decodeCtl (f : Fields) : Decoded :=
  if f.imm15.extractLsb' 12 2 != 0 then .error .reservedField
  else if f.imm15.getLsbD 14 then need (f.f1 == 0) (.ok (.ctlw f.b25 f.f2 (f.imm15.extractLsb' 0 12)))
  else need (f.f2 == 0) (.ok (.ctlr f.b25 f.f1 (f.imm15.extractLsb' 0 12)))

/-- Major 0x03, the conditional branches (R356). -/
def decodeBranch (f : Fields) : Decoded :=
  let b : FmtB := ⟨f.b25, f.f1, f.f2, f.imm15.extractLsb' 0 12⟩
  match (f.imm15.extractLsb' 12 3).toNat with
  | 0 => .ok (.beq b) | 1 => .ok (.bne b) | 2 => .ok (.blt b) | 3 => .ok (.bge b) | 4 => .ok (.bltn b)
  | 5 => .ok (.bgen b) | _ => .error .unassignedCode

/-- Major 0x07, QPUT and QGET (R294). -/
def decodeQueue (f : Fields) : Decoded :=
  match f.lo.toNat with
  | 0 => need (f.f1 == 0 && f.f3 == 0) (.ok (.qput ⟨f.b25, f.f2⟩))
  | 1 => need (f.f2 == 0 && f.f3 == 0) (.ok (.qget ⟨f.b25, f.f1⟩))
  | _ => .error .unassignedCode

/-- Major 0x08, the register-register forms (R295). -/
def decodeRegReg (f : Fields) : Decoded :=
  let r : FmtSR := ⟨f.b25, f.f1, f.f2, f.f3⟩
  let u : FmtSRu := ⟨f.b25, f.f1, f.f2⟩
  match f.lo.toNat with
  | 0 => .ok (.add r) | 1 => .ok (.sub r) | 2 => .ok (.mul r) | 3 => .ok (.mulh r) | 4 => .ok (.mulhn r)
  | 5 => .ok (.div r) | 6 => .ok (.divn r) | 7 => .ok (.rem r) | 8 => .ok (.remn r) | 9 => .ok (.and r)
  | 10 => .ok (.or r) | 11 => .ok (.xor r) | 12 => .ok (.shl r) | 13 => .ok (.shr r) | 14 => .ok (.sra r)
  | 15 => .ok (.slt r) | 16 => .ok (.sltn r) | 17 => .ok (.min r) | 18 => .ok (.max r) | 19 => .ok (.minn r)
  | 20 => .ok (.maxn r)
  | 21 => need (f.f3 == 0) (.ok (.clz u))
  | 22 => need (f.f3 == 0) (.ok (.ctz u))
  | 23 => need (f.f3 == 0) (.ok (.popc u))
  | 24 => .ok (.sel r)
  | _ => .error .unassignedCode

/-- Major 0x0D, the shifts by a constant (R413). -/
def decodeShift (f : Fields) : Decoded :=
  let s : FmtShift := ⟨f.b25, f.f1, f.f2, f.imm15.extractLsb' 0 6⟩
  if f.imm15.extractLsb' 6 7 != 0 then .error .reservedField
  else match (f.imm15.extractLsb' 13 2).toNat with
    | 0 => .ok (.shli s) | 1 => .ok (.shri s) | 2 => .ok (.srai s) | _ => .error .unassignedCode

/-- Major 0x0F, LIH (R390): [19:18] quarter, [17:16] zero. -/
def decodeLih (f : Fields) : Decoded :=
  let x := f.f2 ++ f.imm15
  need (x.extractLsb' 16 2 == 0) (.ok (.lih ⟨f.b25, f.f1, x.extractLsb' 18 2, x.extractLsb' 0 16⟩))

/-- Major 0x10, scalar floating point (R372). -/
def decodeFp (f : Fields) : Decoded :=
  let dbl := f.lo.getLsbD 9
  let sub := f.lo.extractLsb' 0 5
  let b : FmtFp := ⟨f.f1, f.f2, f.f3, dbl⟩
  let u : FmtFpu := ⟨f.f1, f.f2, dbl⟩
  need (!f.b25) <|
  match (f.lo.extractLsb' 5 4).toNat with
  | 0 => need (sub == 0) (.ok (.fadd b)) | 1 => need (sub == 0) (.ok (.fsub b))
  | 2 => need (sub == 0) (.ok (.fmul b)) | 3 => need (sub == 0) (.ok (.ffma b))
  | 4 => need (sub == 0) (.ok (.fdiv b))
  | 5 => need (sub == 0 && f.f3 == 0) (.ok (.fsqrt u))
  | 6 => need (sub == 0) (.ok (.fmin b)) | 7 => need (sub == 0) (.ok (.fmax b))
  | 8 => match decodeCmp sub with
    | some cc => .ok (.fcmp b cc)
    | none => .error .unassignedCode
  | 9 => match decodeFcvt sub with
    | some cv => need (!dbl && f.f3 == 0) (.ok (.fcvt f.f1 f.f2 cv))
    | none => .error .unassignedCode
  | 10 => need (sub == 0 && f.f3 == 0) (.ok (.fclass u))
  | _ => .error .unassignedCode

/-- A predicate or record field of a TT word: the two high bits are zero (R288). -/
def high2 (x : BitVec 5) : Bool := x.extractLsb' 3 2 == 0
/-- Its number. -/
def low3 (x : BitVec 5) : BitVec 3 := x.extractLsb' 0 3

/-- Major 0x13, tile state (R299, R431). The two queue files share the codes 28 to 31, which funct6 tells apart. -/
def decodeTileState (f : Fields) : Decoded :=
  need (f.pg == 0 && !f.pn) <|
  match f.fn6.toNat with
  | 0 => need (high2 f.f1 && f.f3 == 0) (noConvoy f (.ok (.tbindRecord (low3 f.f1) f.f2)))
  | 1 => need (high2 f.f2) (noConvoy f (.ok (.tbindTiles f.f1 f.f3 (low3 f.f2))))
  | 2 => need (high2 f.f2 && f.f1.extractLsb' 2 3 == 7 && f.f3.extractLsb' 2 3 == 7)
      (noConvoy f (.ok (.tbindSq (f.f1.extractLsb' 0 2) (f.f3.extractLsb' 0 2) (low3 f.f2))))
  | 3 => need (f.f2 == 0) (noConvoy f (.ok (.tdead f.f1 f.f3)))
  | 4 => need (f.f2 == 0 && f.f3 == 0) (noConvoy f (.ok (.tzero f.f1)))
  | _ => .error .unassignedCode

/-- A load- or store-queue code 28 to 31; any other is SHAPE_INVALID (R290). -/
def queueCode (x : BitVec 5) (k : BitVec 2 → Decoded) : Decoded :=
  if x.extractLsb' 2 3 == 7 then k (x.extractLsb' 0 2) else .error .tileCode

/-- Majors 0x14 and 0x15, LD and ST (R384, R414). -/
def decodeLdSt (store : Bool) (f : Fields) : Decoded :=
  need (!f.b25 && f.pg == 0) <|
  match store, f.fn4.toNat, decodeLdSize f.mid3, decodeStSize f.mid3 with
  | false, 0, some z, _ => .ok (.ld f.f1 f.f2 f.f3 z)
  | false, 1, some z, _ => .ok (.ldX f.f1 f.f2 f.f3 z)
  | true, 0, _, some z => .ok (.st f.f1 f.f2 f.f3 z)
  | true, 1, _, some z => .ok (.stX f.f1 f.f2 f.f3 z)
  | _, _, _, _ => .error .unassignedCode

/-- Major 0x16, LDT and STT (R388, R419). -/
def decodeTileMem (f : Fields) : Decoded :=
  let m : FmtTileMem := ⟨f.f1, f.f2, f.f3, f.pg⟩
  match f.fn4.toNat with
  | 0 => need (!f.b25 && f.mid3 == 0) (.ok (.ldt m))
  | 1 => need (!f.b25 && f.mid3 == 0) (.ok (.stt m))
  | _ => .error .unassignedCode

/-- Major 0x17, LDQ, STQ and STQU (R387, R416). -/
def decodeQueueMem (f : Fields) : Decoded :=
  match f.fn4.toNat with
  | 0 => need (!f.b25 && f.mid3 == 0) (queueCode f.f1 fun q => .ok (.ldq ⟨q, f.f2, f.f3, f.pg⟩))
  | 1 => need (!f.b25 && f.mid3 == 0) (queueCode f.f1 fun q => .ok (.stq ⟨q, f.f2, f.f3, f.pg⟩))
  | 2 => need (!f.b25 && f.mid3 == 0) (queueCode f.f1 fun q => .ok (.stqu ⟨q, f.f2, f.f3, f.pg⟩))
  | _ => .error .unassignedCode

/-- Major 0x18, LDG and STS (R386, R418): [6:4] holds log2 of the scale, 0 to 3. -/
def decodeGather (f : Fields) : Decoded :=
  let m : FmtGather := ⟨f.f1, f.f2, f.f3, f.pg, f.mid3.extractLsb' 0 2⟩
  match f.fn4.toNat with
  | 0 => need (!f.b25 && !f.mid3.getLsbD 2) (.ok (.ldg m))
  | 1 => need (!f.b25 && !f.mid3.getLsbD 2) (.ok (.sts m))
  | _ => .error .unassignedCode

/-- Major 0x19, FEED, PREF, CLEAN and INVAL (R300, R375). -/
def decodeRegion (f : Fields) : Decoded :=
  let z := !f.b25 && f.pg == 0 && f.mid3 == 0
  match f.fn4.toNat with
  | 0 => need (z && f.f3 == 0) (queueCode f.f1 fun q => .ok (.feed q f.f2))
  | 1 => need (z && f.f1 == 0) (.ok (.pref f.f2 f.f3))
  | 2 => need (z && f.f1 == 0) (.ok (.clean f.f2 f.f3))
  | 3 => need (z && f.f1 == 0) (.ok (.inval f.f2 f.f3))
  | _ => .error .unassignedCode

/-- The fields of an atomic (R346): scope [9:7], order [6:5], size [4]. -/
def decodeAmoFields (f : Fields) (k : FmtAmo → Decoded) : Decoded :=
  match decodeScope f.pg with
  | some sc => need (!f.b25)
      (k ⟨f.f1, f.f2, f.f3, sc, decodeOrder (f.lo.extractLsb' 5 2), f.lo.getLsbD 4⟩)
  | none => .error .unassignedCode

/-- Major 0x1A, the fetch-and-operate family (R346). -/
def decodeAmo (f : Fields) : Decoded :=
  decodeAmoFields f fun m => match f.fn4.toNat with
    | 0 => .ok (.amoadd m) | 1 => .ok (.amoand m) | 2 => .ok (.amoor m) | 3 => .ok (.amoxor m)
    | 4 => .ok (.amomin m) | 5 => .ok (.amomax m) | 6 => .ok (.amominn m) | 7 => .ok (.amomaxn m)
    | 8 => .ok (.amoswp m) | 9 => .ok (.amofadd m) | _ => .error .unassignedCode

/-- Major 0x1B, AMOCAS and TAMO (R350, R426). -/
def decodeTamo (f : Fields) : Decoded :=
  if f.fn4 == 0 then decodeAmoFields f fun m => .ok (.amocas m)
  else match decodeTamoOp f.fn4 with
    | some op => .ok (.tamo ⟨f.f1, f.f2, f.f3, f.pg, decodeOrder (f.lo.extractLsb' 5 2),
        BitVec.ofBool f.b25 ++ BitVec.ofBool (f.lo.getLsbD 4), op⟩)
    | none => .error .unassignedCode

/-- Major 0x1C, fences and watermarks (R377, R468). FENCE with order 0b00 traps when it issues. -/
def decodeFence (f : Fields) : Decoded :=
  match f.fn4.toNat with
  | 0 => match decodeScope f.pg with
    | some sc => need (!f.b25 && f.f1 == 0 && f.f2 == 0 && f.f3 == 0 && !f.lo.getLsbD 4)
        (.ok (.fence sc (decodeOrder (f.lo.extractLsb' 5 2))))
    | none => .error .unassignedCode
  | 1 => need (!f.b25 && f.f1 == 0 && f.f2 == 0 && f.f3 == 0 && f.pg == 6 && f.lo.extractLsb' 5 2 == 0)
      (.ok (.fenceSt (f.lo.getLsbD 4)))
  | 2 => need (!f.b25 && f.f1 == 0 && f.f3 == 0 && f.pg == 0 && f.mid3 == 0) (.ok (.wmpub f.f2))
  | 3 => need (!f.b25 && f.f1 == 0 && f.pg == 0 && f.mid3 == 0) (.ok (.wmwait f.f2 f.f3))
  | _ => .error .unassignedCode

/-- Major 0x1D, barriers (R352). -/
def decodeBarrier (f : Fields) : Decoded :=
  need (!f.b25 && f.f1 == 0 && f.f2 == 0 && f.f3 == 0 && f.lo.extractLsb' 3 5 == 0) <|
  match (f.lo.extractLsb' 8 2).toNat with
  | 0 => .ok (.bar (f.lo.extractLsb' 0 3)) | 1 => .ok (.arrive (f.lo.extractLsb' 0 3))
  | 2 => .ok (.await (f.lo.extractLsb' 0 3)) | _ => .error .unassignedCode

/-- Major 0x1E, TSEND and TRECV (R222). -/
def decodeExchange (f : Fields) : Decoded :=
  need (!f.b25 && f.pg == 0 && f.mid3 == 0) <|
  match f.fn4.toNat with
  | 0 => .ok (.tsend f.f1 f.f2 f.f3) | 1 => .ok (.trecv f.f1 f.f2 f.f3) | _ => .error .unassignedCode

/-- Major 0x1F, ENGB, ENGW and ENGQ (R208). -/
def decodeEngine (f : Fields) : Decoded :=
  need (!f.b25) <|
  match f.fn4.toNat, f.mid3.toNat with
  | 0, 0 => need (high2 f.f2) (.ok (.engb f.f1 (low3 f.f2) f.f3 f.pg))
  | 1, 0 => need (f.f3 == 0 && f.pg == 0) (.ok (.engw f.f1 f.f2))
  | 1, 1 => need (f.f3 == 0 && f.pg == 0) (.ok (.engwChk f.f1 f.f2))
  | 2, 0 => need (f.f3 == 0 && f.pg == 0) (.ok (.engqRow f.f1 f.f2))
  | 2, 1 => need (f.f3 == 0 && f.pg == 0) (.ok (.engqCard f.f1 f.f2))
  | 2, 2 => need (f.f3 == 0 && f.pg == 0 && f.f2 == 0) (.ok (.engqFence f.f1))
  | _, _ => .error .unassignedCode

/-- Major 0x20, tile arithmetic (R422, R440). -/
def decodeTileArith (f : Fields) : Decoded :=
  let t : FmtTT := ⟨f.b25, f.f1, f.f2, f.f3, f.guard⟩
  let u : FmtTTu := ⟨f.b25, f.f1, f.f2, f.guard⟩
  let z := f.f3 == 0
  match f.fn6.toNat with
  | 0 => .ok (.tadd t) | 1 => .ok (.tsub t) | 2 => .ok (.tmul t) | 3 => .ok (.tdiv t)
  | 4 => need z (.ok (.tsqrt u)) | 5 => need z (.ok (.trsq u)) | 6 => need z (.ok (.trcp u))
  | 7 => need z (.ok (.texp2 u)) | 8 => need z (.ok (.tlog2 u))
  | 9 => .ok (.tmin t) | 10 => .ok (.tmax t)
  | 11 => need z (.ok (.tabs u)) | 12 => need z (.ok (.tneg u)) | 13 => .ok (.tclamp t)
  | _ => .error .unassignedCode

/-- Major 0x21, the fused family (R443). -/
def decodeFused (f : Fields) : Decoded :=
  let t : FmtTT := ⟨f.b25, f.f1, f.f2, f.f3, f.guard⟩
  match f.fn6.toNat with
  | 0 => .ok (.tfma t) | 1 => .ok (.tfms t) | 2 => .ok (.tfnma t) | _ => .error .unassignedCode

/-- Major 0x22, the bitwise family (R429). -/
def decodeBitwise (f : Fields) : Decoded :=
  let t : FmtTT := ⟨f.b25, f.f1, f.f2, f.f3, f.guard⟩
  match f.fn6.toNat with
  | 0 => .ok (.tand t) | 1 => .ok (.tor t) | 2 => .ok (.txor t)
  | 3 => need (f.f3 == 0) (.ok (.tnot ⟨f.b25, f.f1, f.f2, f.guard⟩))
  | 4 => .ok (.tshl t) | 5 => .ok (.tshr t) | 6 => .ok (.tsra t) | _ => .error .unassignedCode

/-- Major 0x23, TCMP and TSEL (R434, R460). -/
def decodeCompare (f : Fields) : Decoded :=
  if f.fn6 == 8 then .ok (.tsel ⟨f.b25, f.f1, f.f2, f.f3, f.guard⟩)
  else match decodeCmp (f.fn6.extractLsb' 0 5), f.fn6.getLsbD 5 with
    | some cc, false => need (high2 f.f1) (.ok (.tcmp ⟨f.b25, low3 f.f1, f.f2, f.f3, f.guard, cc⟩))
    | _, _ => .error .unassignedCode

/-- Major 0x24, conversions (R436, R439, R449). -/
def decodeConvert (f : Fields) : Decoded :=
  let u : FmtTTu := ⟨f.b25, f.f1, f.f2, f.guard⟩
  match f.fn6.toNat with
  | 0 => need (f.f3 == 0) (.ok (.tcvt u)) | 1 => need (f.f3 == 0) (.ok (.tqnt u))
  | 2 => need (f.f3 == 0) (.ok (.tdq u)) | _ => .error .unassignedCode

/-- Major 0x25, moves (R430, R445). Of these TBCR may not join a convoy. -/
def decodeMove (f : Fields) : Decoded :=
  match f.fn6.toNat with
  | 0 => need (f.f3 == 0) (.ok (.tspl ⟨f.b25, f.f1, f.f2, f.guard⟩))
  | 1 => noConvoy f (.ok (.tbcr ⟨f.f1, f.f2, f.f3, f.guard⟩))
  | 2 => need (f.f3 == 0) (.ok (.tmov ⟨f.b25, f.f1, f.f2, f.guard⟩))
  | 3 => need (f.f3 == 0) (.ok (.tiota ⟨f.b25, f.f1, f.f2, f.guard⟩))
  | _ => .error .unassignedCode

/-- Major 0x26, reductions (R454): funct6 = 4 × kind + op. -/
def decodeReduce (f : Fields) : Decoded :=
  let u : FmtPermU := ⟨f.f1, f.f2, f.guard⟩
  match (f.fn6.extractLsb' 2 4).toNat, decodeRed (f.fn6.extractLsb' 0 2) with
  | 0, some op => need (f.f3 == 0) (noConvoy f (.ok (.tred u op)))
  | 1, some op => need (f.f3 == 0) (noConvoy f (.ok (.tredo u op)))
  | 2, some op => need (f.f3 == 0) (noConvoy f (.ok (.tredb u op)))
  | 3, some op => need (f.f3 == 0) (noConvoy f (.ok (.tscan u op)))
  | _, _ => .error .unassignedCode

/-- Major 0x27, permutes, sorts and searches (R457, R461). -/
def decodePermute (f : Fields) : Decoded :=
  let t : FmtPerm := ⟨f.f1, f.f2, f.f3, f.guard⟩
  let u : FmtPermU := ⟨f.f1, f.f2, f.guard⟩
  match f.fn6.toNat with
  | 0 => need (f.f3 == 0) (noConvoy f (.ok (.ttrn u)))
  | 1 => noConvoy f (.ok (.tshf t))
  | 2 => noConvoy f (.ok (.tsld t))
  | 3 => noConvoy f (.ok (.trot t))
  | 4 => need (f.f3 == 0) (noConvoy f (.ok (.tsort u)))
  | 5 => noConvoy f (.ok (.tsrch t))
  | _ => .error .unassignedCode

/-- Major 0x28, CMPRS and EXPND (R360, R370). -/
def decodeCompress (f : Fields) : Decoded :=
  match f.fn6.toNat with
  | 0 => noConvoy f (.ok (.cmprs ⟨f.f1, f.f2, f.f3, f.guard⟩))
  | 1 => need (f.f3 == 0) (noConvoy f (.ok (.expnd ⟨f.f1, f.f2, f.guard⟩)))
  | _ => .error .unassignedCode

/-- Major 0x29, the predicate family (R402). -/
def decodePredicate (f : Fields) : Decoded :=
  let b : FmtPred := ⟨low3 f.f1, low3 f.f2, low3 f.f3, f.guard⟩
  let zb := high2 f.f1 && high2 f.f2 && high2 f.f3
  match f.fn6.toNat with
  | 0 => need zb (noConvoy f (.ok (.pand b)))
  | 1 => need zb (noConvoy f (.ok (.por b)))
  | 2 => need zb (noConvoy f (.ok (.pxor b)))
  | 3 => need (high2 f.f1 && high2 f.f2 && f.f3 == 0) (noConvoy f (.ok (.pnot ⟨low3 f.f1, low3 f.f2, f.guard⟩)))
  | 4 => need (high2 f.f1 && f.f3 == 0) (noConvoy f (.ok (.pset (low3 f.f1) f.f2 f.guard)))
  | 5 => need (high2 f.f2 && f.f3 == 0) (noConvoy f (.ok (.pcnt f.f1 (low3 f.f2) f.guard)))
  | 6 => need (high2 f.f2 && f.f3 == 0) (noConvoy f (.ok (.pff f.f1 (low3 f.f2) f.guard)))
  | _ => .error .unassignedCode

/-- Major 0x2A, PLD and PST (R404). -/
def decodePredMem (f : Fields) : Decoded :=
  need (!f.b25 && high2 f.f1 && f.f3 == 0 && f.pg == 0 && f.mid3 == 0) <|
  match f.fn4.toNat with
  | 0 => .ok (.pld (low3 f.f1) f.f2) | 1 => .ok (.pst (low3 f.f1) f.f2) | _ => .error .unassignedCode

/-- Major 0x2B, MAP and MAPR (R392). -/
def decodeMap (f : Fields) : Decoded :=
  let t : FmtPerm := ⟨f.f1, f.f2, f.f3, f.guard⟩
  noConvoy f (if f.fn6.getLsbD 5 then .ok (.mapr t (f.fn6.extractLsb' 0 5)) else .ok (.map t (f.fn6.extractLsb' 0 5)))

/-- Major 0x2C, LRET and LSKIP (R305, R391). A skip by 0 is illegal. -/
def decodeLane (f : Fields) : Decoded :=
  need (!f.b25 && f.f1 == 0) <|
  if f.imm15.getLsbD 14 then
    need (f.imm15.extractLsb' 6 7 == 0 && f.imm15.extractLsb' 0 6 != 0)
      (if f.imm15.getLsbD 13 then .ok (.lskipZ f.f2 (f.imm15.extractLsb' 0 6))
       else .ok (.lskipNz f.f2 (f.imm15.extractLsb' 0 6)))
  else need (f.f2 == 0 && f.imm15 == 0) (.ok .lret)

/-- Major 0x2D, MOPA and MOPS (R113). A repeat field of 0b10000 or above traps when the instruction issues. -/
def decodeOuter (f : Fields) : Decoded :=
  let m : FmtMx := ⟨f.b25, f.f1, f.f2, f.f3, f.pg⟩
  match f.fn2.toNat with
  | 0 => .ok (.mopa m f.rep5) | 1 => .ok (.mops m f.rep5) | _ => .error .unassignedCode

/-- Major 0x2E, MMA and MMAD (R122). -/
def decodeMma (f : Fields) : Decoded :=
  let m : FmtMma := ⟨f.f1, f.f2, f.f3, f.pg⟩
  match f.fn2.toNat with
  | 0 => need (!f.b25 && f.rep5 == 0) (.ok (.mma m))
  | 1 => need (!f.b25) (.ok (.mmad m f.rep5))
  | _ => .error .unassignedCode

/-- Major 0x2F, slabs and adapter tables (R132). -/
def decodeSlab (f : Fields) : Decoded :=
  need (!f.b25 && f.pg == 0) <|
  match f.fn4.toNat, f.mid3.toNat with
  | 0, 0 => .ok (.oload f.f1 f.f2 f.f3)
  | 1, 0 => need (f.f2 == 0 && f.f3 == 0) (.ok (.ofree f.f1))
  | 2, 0 => need (f.f3 == 0) (.ok (.apre f.f1 f.f2 .fetch))
  | 2, 1 => need (f.f3 == 0) (.ok (.apre f.f1 f.f2 .pin))
  | 2, 2 => need (f.f3 == 0) (.ok (.apre f.f1 f.f2 .unpin))
  | 3, 0 => need (f.f2 == 0 && f.f3 == 0) (.ok (.ainv f.f1))
  | 3, 1 => need (f.f1 == 0 && f.f2 == 0 && f.f3 == 0) (.ok .ainvAll)
  | 4, 0 => need (f.f1 == 0) (.ok (.adtb f.f2 f.f3))
  | _, _ => .error .unassignedCode

/-- The major opcode map (R292). -/
def decodeFields (f : Fields) : Decoded :=
  let si : FmtSI := ⟨f.b25, f.f1, f.f2, f.imm15⟩
  match f.major.toNat with
  | 0x01 => decodeSys f
  | 0x02 => decodeCtl f
  | 0x03 => decodeBranch f
  | 0x04 => .ok (.jmp (BitVec.ofBool f.b25 ++ (f.f1 ++ (f.f2 ++ f.imm15))))
  | 0x05 => .ok (.jal f.b25 f.f1 (f.f2 ++ f.imm15))
  | 0x06 => .ok (.jalr si)
  | 0x07 => decodeQueue f
  | 0x08 => decodeRegReg f
  | 0x09 => .ok (.addi si)
  | 0x0A => .ok (.andi si)
  | 0x0B => .ok (.ori si)
  | 0x0C => .ok (.xori si)
  | 0x0D => decodeShift f
  | 0x0E => .ok (.slti si)
  | 0x0F => decodeLih f
  | 0x10 => decodeFp f
  | 0x11 => need (f.lo == 0) (.ok (.shape ⟨f.b25, f.f1, f.f2, f.f3⟩))
  | 0x12 => .ok (.shapei si)
  | 0x13 => decodeTileState f
  | 0x14 => decodeLdSt false f
  | 0x15 => decodeLdSt true f
  | 0x16 => decodeTileMem f
  | 0x17 => decodeQueueMem f
  | 0x18 => decodeGather f
  | 0x19 => decodeRegion f
  | 0x1A => decodeAmo f
  | 0x1B => decodeTamo f
  | 0x1C => decodeFence f
  | 0x1D => decodeBarrier f
  | 0x1E => decodeExchange f
  | 0x1F => decodeEngine f
  | 0x20 => decodeTileArith f
  | 0x21 => decodeFused f
  | 0x22 => decodeBitwise f
  | 0x23 => decodeCompare f
  | 0x24 => decodeConvert f
  | 0x25 => decodeMove f
  | 0x26 => decodeReduce f
  | 0x27 => decodePermute f
  | 0x28 => decodeCompress f
  | 0x29 => decodePredicate f
  | 0x2A => decodePredMem f
  | 0x2B => decodeMap f
  | 0x2C => decodeLane f
  | 0x2D => decodeOuter f
  | 0x2E => decodeMma f
  | 0x2F => decodeSlab f
  | _ => .error .unassignedMajor

/-- Decode one word (R286). -/
def decode (w : Word32) : Decoded := decodeFields (Fields.ofWord w)

/-- The little-endian word of four bytes (R3, R286). -/
def wordOfBytes (b0 b1 b2 b3 : Byte) : Word32 := b3 ++ (b2 ++ (b1 ++ b0))

/-- Decode the first instruction of a list of bytes, and give the bytes that follow it. -/
def decodeBytes : List Byte → Except DecodeError (Instr × List Byte)
  | b0 :: b1 :: b2 :: b3 :: rest =>
    match decode (wordOfBytes b0 b1 b2 b3) with
    | .ok i => .ok (i, rest)
    | .error e => .error e
  | _ => .error .tooShort

/-- The four bytes of a word, lowest address first. -/
def bytesOfWord (w : Word32) : List Byte :=
  [w.extractLsb' 0 8, w.extractLsb' 8 8, w.extractLsb' 16 8, w.extractLsb' 24 8]

/-- The instruction the decoder reads from the bits of an opcode-table row. Every row that has bits has 32. -/
def decodeTableWord (nbits w : Nat) : Option Instr :=
  if nbits = 32 then
    match decodeBytes (bytesOfWord (BitVec.ofNat 32 w)) with
    | .ok (i, _) => some i
    | .error _ => none
  else none

/-! ### The encoder -/

/-- A code of a scope (R164). -/
def encodeScope : Scope → BitVec 3
  | .blk => 0 | .cl => 1 | .pol => 2 | .pkg => 3 | .dom => 4 | .sys => 5

/-- A code of an order (R174). -/
def encodeOrder : MemOrder → BitVec 2
  | .relaxed => 0 | .acq => 1 | .rel => 2 | .ar => 3

/-- A size code of LD (R300). -/
def encodeLdSize : LdSize → BitVec 3
  | .n8 => 0 | .n16 => 1 | .n32 => 2 | .d => 3 | .i8 => 4 | .i16 => 5 | .i32 => 6

/-- A size code of ST (R414). -/
def encodeStSize : StSize → BitVec 3
  | .n8 => 0 | .n16 => 1 | .n32 => 2 | .d => 3

/-- A comparison code (R297). -/
def encodeCmp : CmpOp → BitVec 5
  | .eq => 0 | .ne => 1 | .lt => 2 | .le => 3 | .gt => 4 | .ge => 5

/-- A conversion code (R297). -/
def encodeFcvt : FcvtOp → BitVec 5
  | .f32f64 => 0 | .f64f32 => 1 | .i64f32 => 2 | .i64f64 => 3 | .n64f32 => 4 | .n64f64 => 5 | .f32i64 => 6
  | .f64i64 => 7 | .f32n64 => 8 | .f64n64 => 9 | .bf16f32 => 10 | .f32bf16 => 11 | .f16f32 => 12 | .f32f16 => 13

/-- An operation code of TAMO (R426). -/
def encodeTamoOp : AmoOp → BitVec 4
  | .add => 1 | .and => 2 | .or => 3 | .xor => 4 | .min => 5 | .max => 6 | .minn => 7 | .maxn => 8 | .swp => 9
  | .fadd => 10

/-- An operation code of a reduction (R454). -/
def encodeRed : RedOp → BitVec 2
  | .add => 0 | .min => 1 | .max => 2

/-- Fields of format SR. -/
def encSR (major : BitVec 6) (fn : BitVec 10) (f : FmtSR) : Fields := ⟨major, f.side, f.rd, f.rs1, f.rs2, fn⟩
/-- Fields of format SR, unary. -/
def encSRu (major : BitVec 6) (fn : BitVec 10) (f : FmtSRu) : Fields := ⟨major, f.side, f.rd, f.rs1, 0, fn⟩
/-- Fields of format SI. -/
def encSI (major : BitVec 6) (f : FmtSI) : Fields :=
  ⟨major, f.side, f.rd, f.rs1, f.imm.extractLsb' 10 5, f.imm.extractLsb' 0 10⟩
/-- A kind over seven zeros and a 6-bit number: imm15 of the shifts and of the lane skips. -/
def joinKind (k : BitVec 2) (n : BitVec 6) : BitVec 15 := k ++ (0#7 ++ n)
/-- Three bits over a 12-bit number: imm15 of CTLR, CTLW and the branches. -/
def joinTop (k : BitVec 3) (n : BitVec 12) : BitVec 15 := k ++ n
/-- Fields of a shift by a constant (R413). -/
def encShift (k : BitVec 2) (f : FmtShift) : Fields := encSI 0x0D ⟨f.side, f.rd, f.rs1, joinKind k f.n⟩
/-- Fields of format B (R356). -/
def encB (cond : BitVec 3) (f : FmtB) : Fields := encSI 0x03 ⟨f.side, f.rs1, f.rs2, joinTop cond f.off⟩
/-- Fields of the SYS group. -/
def encSys (fn : BitVec 10) : Fields := ⟨0x01, false, 0, 0, 0, fn⟩
/-- Bits [9:0] of scalar floating point. -/
def loFp (dbl : Bool) (op : BitVec 4) (sub : BitVec 5) : BitVec 10 := BitVec.ofBool dbl ++ (op ++ sub)
/-- Fields of scalar floating point (R372). -/
def encFp (op : BitVec 4) (sub : BitVec 5) (f : FmtFp) : Fields := ⟨0x10, false, f.rd, f.rs1, f.rs2, loFp f.dbl op sub⟩
/-- Fields of unary scalar floating point. -/
def encFpu (op : BitVec 4) (f : FmtFpu) : Fields := encFp op 0 ⟨f.rd, f.rs1, 0, f.dbl⟩
/-- Bits [9:0] of format TT. -/
def loTT (g : Guard) (fn : BitVec 6) : BitVec 10 := g.pg ++ (BitVec.ofBool g.pn ++ fn)
/-- Bits [9:0] of format M. -/
def loM (pg : BitVec 3) (mid : BitVec 3) (fn : BitVec 4) : BitVec 10 := pg ++ (mid ++ fn)
/-- Bits [9:0] of format MX. -/
def loMx (pg : BitVec 3) (rep : BitVec 5) (fn : BitVec 2) : BitVec 10 := pg ++ (rep ++ fn)
/-- Fields of format TT. -/
def encTT (major fn : BitVec 6) (f : FmtTT) : Fields := ⟨major, f.c, f.td, f.ta, f.tb, loTT f.g fn⟩
/-- Fields of format TT, unary. -/
def encTTu (major fn : BitVec 6) (f : FmtTTu) : Fields := ⟨major, f.c, f.td, f.ta, 0, loTT f.g fn⟩
/-- Fields of TSPL and TIOTA. -/
def encTTs (fn : BitVec 6) (f : FmtTTs) : Fields := ⟨0x25, f.c, f.td, f.sm, 0, loTT f.g fn⟩
/-- Fields of format TT outside convoys. -/
def encPerm (major fn : BitVec 6) (f : FmtPerm) : Fields := ⟨major, false, f.td, f.ta, f.tb, loTT f.g fn⟩
/-- Fields of format TT outside convoys, unary. -/
def encPermU (major fn : BitVec 6) (f : FmtPermU) : Fields := ⟨major, false, f.td, f.ta, 0, loTT f.g fn⟩
/-- A 3-bit number in a 5-bit field (R288). -/
def wide3 (x : BitVec 3) : BitVec 5 := 0#2 ++ x
/-- A queue number as its tile-operand code (R63). -/
def queueField (q : BitVec 2) : BitVec 5 := 7#3 ++ q
/-- Fields of PAND, POR, PXOR. -/
def encPred (fn : BitVec 6) (f : FmtPred) : Fields := ⟨0x29, false, wide3 f.pd, wide3 f.pa, wide3 f.pb, loTT f.g fn⟩
/-- Fields of format M. -/
def encM (major : BitVec 6) (fn : BitVec 4) (mid : BitVec 3) (pg : BitVec 3) (a b c : BitVec 5) : Fields :=
  ⟨major, false, a, b, c, loM pg mid fn⟩
/-- Bits [6:4] of an atomic or a fence: order over one more bit. -/
def midAmo (o : MemOrder) (d : Bool) : BitVec 3 := encodeOrder o ++ BitVec.ofBool d
/-- One bit over a function number, in funct6. -/
def joinFn (k : Bool) (fn : BitVec 5) : BitVec 6 := BitVec.ofBool k ++ fn
/-- log2 of a scale in bits [6:4]. -/
def midScale (x : BitVec 2) : BitVec 3 := 0#1 ++ x
/-- funct6 of a reduction. -/
def redFn (kind : BitVec 4) (op : RedOp) : BitVec 6 := kind ++ encodeRed op
/-- Bits [9:0] of a barrier. -/
def loBar (kind : BitVec 2) (k : BitVec 3) : BitVec 10 := kind ++ (0#5 ++ k)
/-- Fields of an atomic (R346). -/
def encAmo (major : BitVec 6) (fn : BitVec 4) (f : FmtAmo) : Fields :=
  encM major fn (midAmo f.ord f.dbl) (encodeScope f.sc) f.d f.b f.v
/-- Fields of LRET and LSKIP (R391). -/
def encLane (rs1 : BitVec 5) (imm : BitVec 15) : Fields := encSI 0x2C ⟨false, 0, rs1, imm⟩

/-- The fields of an instruction's word; none for an event, which has no word. -/
def encodeFields : Instr → Option Fields
  | .nop => some (encSys 0) | .halt => some (encSys 1) | .yield => some (encSys 2) | .wfe => some (encSys 3)
  | .brk => some (encSys 4) | .trap f => some ⟨0x01, f.side, 0, f.rs, 0, 5⟩ | .sysc => some (encSys 6)
  | .uien k => some ⟨0x01, false, 0, 0, if k then 1 else 0, 7⟩ | .uiret => some (encSys 8)
  | .tlbinv ava an => some ⟨0x01, true, 0, ava, an, 9⟩ | .tlbinvS2 => some (encSys 10) | .eret => some (encSys 11)
  | .ctlr side rd n => some (encSI 0x02 ⟨side, rd, 0, joinTop 0 n⟩)
  | .ctlw side rs n => some (encSI 0x02 ⟨side, 0, rs, joinTop 4 n⟩)
  | .beq f => some (encB 0 f) | .bne f => some (encB 1 f) | .blt f => some (encB 2 f) | .bge f => some (encB 3 f)
  | .bltn f => some (encB 4 f) | .bgen f => some (encB 5 f)
  | .jmp off => some ⟨0x04, off.getLsbD 25, off.extractLsb' 20 5, off.extractLsb' 15 5, off.extractLsb' 10 5,
      off.extractLsb' 0 10⟩
  | .jal side rd off => some ⟨0x05, side, rd, off.extractLsb' 15 5, off.extractLsb' 10 5, off.extractLsb' 0 10⟩
  | .jalr f => some (encSI 0x06 f)
  | .qput f => some ⟨0x07, f.side, 0, f.rs, 0, 0⟩ | .qget f => some ⟨0x07, f.side, f.rd, 0, 0, 1⟩
  | .add f => some (encSR 0x08 0 f) | .sub f => some (encSR 0x08 1 f) | .mul f => some (encSR 0x08 2 f)
  | .mulh f => some (encSR 0x08 3 f) | .mulhn f => some (encSR 0x08 4 f) | .div f => some (encSR 0x08 5 f)
  | .divn f => some (encSR 0x08 6 f) | .rem f => some (encSR 0x08 7 f) | .remn f => some (encSR 0x08 8 f)
  | .and f => some (encSR 0x08 9 f) | .or f => some (encSR 0x08 10 f) | .xor f => some (encSR 0x08 11 f)
  | .shl f => some (encSR 0x08 12 f) | .shr f => some (encSR 0x08 13 f) | .sra f => some (encSR 0x08 14 f)
  | .slt f => some (encSR 0x08 15 f) | .sltn f => some (encSR 0x08 16 f) | .min f => some (encSR 0x08 17 f)
  | .max f => some (encSR 0x08 18 f) | .minn f => some (encSR 0x08 19 f) | .maxn f => some (encSR 0x08 20 f)
  | .clz f => some (encSRu 0x08 21 f) | .ctz f => some (encSRu 0x08 22 f) | .popc f => some (encSRu 0x08 23 f)
  | .sel f => some (encSR 0x08 24 f)
  | .addi f => some (encSI 0x09 f) | .andi f => some (encSI 0x0A f) | .ori f => some (encSI 0x0B f)
  | .xori f => some (encSI 0x0C f)
  | .shli f => some (encShift 0 f) | .shri f => some (encShift 1 f) | .srai f => some (encShift 2 f)
  | .slti f => some (encSI 0x0E f)
  | .lih f => some ⟨0x0F, f.side, f.rd, f.q ++ (0#2 ++ f.imm.extractLsb' 15 1), f.imm.extractLsb' 10 5,
      f.imm.extractLsb' 0 10⟩
  | .fadd f => some (encFp 0 0 f) | .fsub f => some (encFp 1 0 f) | .fmul f => some (encFp 2 0 f)
  | .ffma f => some (encFp 3 0 f) | .fdiv f => some (encFp 4 0 f) | .fsqrt f => some (encFpu 5 f)
  | .fmin f => some (encFp 6 0 f) | .fmax f => some (encFp 7 0 f)
  | .fcmp f cc => some (encFp 8 (encodeCmp cc) f)
  | .fcvt rd rs cv => some (encFp 9 (encodeFcvt cv) ⟨rd, rs, 0, false⟩)
  | .fclass f => some (encFpu 10 f)
  | .shape f => some (encSR 0x11 0 f) | .shapei f => some (encSI 0x12 f)
  | .tbindRecord h sm => some ⟨0x13, false, wide3 h, sm, 0, loTT ⟨0, false⟩ 0⟩
  | .tbindTiles a b h => some ⟨0x13, false, a, wide3 h, b, loTT ⟨0, false⟩ 1⟩
  | .tbindSq a b h => some ⟨0x13, false, queueField a, wide3 h, queueField b, loTT ⟨0, false⟩ 2⟩
  | .tdead a b => some ⟨0x13, false, a, 0, b, loTT ⟨0, false⟩ 3⟩
  | .tzero t => some ⟨0x13, false, t, 0, 0, loTT ⟨0, false⟩ 4⟩
  | .ld d b i z => some (encM 0x14 0 (encodeLdSize z) 0 d b i) | .ldX d b i z => some (encM 0x14 1 (encodeLdSize z) 0 d b i)
  | .st s b i z => some (encM 0x15 0 (encodeStSize z) 0 s b i) | .stX s b i z => some (encM 0x15 1 (encodeStSize z) 0 s b i)
  | .ldt f => some (encM 0x16 0 0 f.pg f.t f.b f.i) | .stt f => some (encM 0x16 1 0 f.pg f.t f.b f.i)
  | .ldq f => some (encM 0x17 0 0 f.pg (queueField f.q) f.b f.i)
  | .stq f => some (encM 0x17 1 0 f.pg (queueField f.q) f.b f.i)
  | .stqu f => some (encM 0x17 2 0 f.pg (queueField f.q) f.b f.i)
  | .ldg f => some (encM 0x18 0 (midScale f.scale) f.pg f.t f.b f.x)
  | .sts f => some (encM 0x18 1 (midScale f.scale) f.pg f.t f.b f.x)
  | .feed q b => some (encM 0x19 0 0 0 (queueField q) b 0)
  | .pref b n => some (encM 0x19 1 0 0 0 b n) | .clean b n => some (encM 0x19 2 0 0 0 b n)
  | .inval b n => some (encM 0x19 3 0 0 0 b n)
  | .amoadd f => some (encAmo 0x1A 0 f) | .amoand f => some (encAmo 0x1A 1 f) | .amoor f => some (encAmo 0x1A 2 f)
  | .amoxor f => some (encAmo 0x1A 3 f) | .amomin f => some (encAmo 0x1A 4 f) | .amomax f => some (encAmo 0x1A 5 f)
  | .amominn f => some (encAmo 0x1A 6 f) | .amomaxn f => some (encAmo 0x1A 7 f) | .amoswp f => some (encAmo 0x1A 8 f)
  | .amofadd f => some (encAmo 0x1A 9 f) | .amocas f => some (encAmo 0x1B 0 f)
  | .tamo f => some ⟨0x1B, f.ts.getLsbD 1, f.t, f.b, f.x,
      loM f.pg (midAmo f.ord (f.ts.getLsbD 0)) (encodeTamoOp f.op)⟩
  | .fence sc ord => some (encM 0x1C 0 (midAmo ord false) (encodeScope sc) 0 0 0)
  | .fenceSt d => some (encM 0x1C 1 (midAmo .relaxed d) 6 0 0 0)
  | .wmpub a => some (encM 0x1C 2 0 0 0 a 0) | .wmwait h b => some (encM 0x1C 3 0 0 0 h b)
  | .bar k => some ⟨0x1D, false, 0, 0, 0, loBar 0 k⟩ | .arrive k => some ⟨0x1D, false, 0, 0, 0, loBar 1 k⟩
  | .await k => some ⟨0x1D, false, 0, 0, 0, loBar 2 k⟩
  | .tsend t r g => some (encM 0x1E 0 0 0 t r g) | .trecv t r g => some (encM 0x1E 1 0 0 t r g)
  | .engb t pd a pg => some (encM 0x1F 0 0 pg t (wide3 pd) a)
  | .engw d b => some (encM 0x1F 1 0 0 d b 0) | .engwChk d b => some (encM 0x1F 1 1 0 d b 0)
  | .engqRow d a => some (encM 0x1F 2 0 0 d a 0) | .engqCard d a => some (encM 0x1F 2 1 0 d a 0)
  | .engqFence d => some (encM 0x1F 2 2 0 d 0 0)
  | .tadd f => some (encTT 0x20 0 f) | .tsub f => some (encTT 0x20 1 f) | .tmul f => some (encTT 0x20 2 f)
  | .tdiv f => some (encTT 0x20 3 f) | .tsqrt f => some (encTTu 0x20 4 f) | .trsq f => some (encTTu 0x20 5 f)
  | .trcp f => some (encTTu 0x20 6 f) | .texp2 f => some (encTTu 0x20 7 f) | .tlog2 f => some (encTTu 0x20 8 f)
  | .tmin f => some (encTT 0x20 9 f) | .tmax f => some (encTT 0x20 10 f) | .tabs f => some (encTTu 0x20 11 f)
  | .tneg f => some (encTTu 0x20 12 f) | .tclamp f => some (encTT 0x20 13 f)
  | .tfma f => some (encTT 0x21 0 f) | .tfms f => some (encTT 0x21 1 f) | .tfnma f => some (encTT 0x21 2 f)
  | .tand f => some (encTT 0x22 0 f) | .tor f => some (encTT 0x22 1 f) | .txor f => some (encTT 0x22 2 f)
  | .tnot f => some (encTTu 0x22 3 f) | .tshl f => some (encTT 0x22 4 f) | .tshr f => some (encTT 0x22 5 f)
  | .tsra f => some (encTT 0x22 6 f)
  | .tcmp f => some ⟨0x23, f.c, wide3 f.pd, f.ta, f.tb, loTT f.g (joinFn false (encodeCmp f.cc))⟩
  | .tsel f => some (encTT 0x23 8 f)
  | .tcvt f => some (encTTu 0x24 0 f) | .tqnt f => some (encTTu 0x24 1 f) | .tdq f => some (encTTu 0x24 2 f)
  | .tspl f => some (encTTs 0 f) | .tbcr f => some (encPerm 0x25 1 f) | .tmov f => some (encTTu 0x25 2 f)
  | .tiota f => some (encTTs 3 f)
  | .tred f op => some (encPermU 0x26 (redFn 0 op) f) | .tredo f op => some (encPermU 0x26 (redFn 1 op) f)
  | .tredb f op => some (encPermU 0x26 (redFn 2 op) f) | .tscan f op => some (encPermU 0x26 (redFn 3 op) f)
  | .ttrn f => some (encPermU 0x27 0 f) | .tshf f => some (encPerm 0x27 1 f) | .tsld f => some (encPerm 0x27 2 f)
  | .trot f => some (encPerm 0x27 3 f) | .tsort f => some (encPermU 0x27 4 f) | .tsrch f => some (encPerm 0x27 5 f)
  | .cmprs f => some (encPerm 0x28 0 f) | .expnd f => some (encPermU 0x28 1 f)
  | .pand f => some (encPred 0 f) | .por f => some (encPred 1 f) | .pxor f => some (encPred 2 f)
  | .pnot f => some ⟨0x29, false, wide3 f.pd, wide3 f.pa, 0, loTT f.g 3⟩
  | .pset pd sa g => some ⟨0x29, false, wide3 pd, sa, 0, loTT g 4⟩
  | .pcnt sd pa g => some ⟨0x29, false, sd, wide3 pa, 0, loTT g 5⟩
  | .pff sd pa g => some ⟨0x29, false, sd, wide3 pa, 0, loTT g 6⟩
  | .pld p b => some (encM 0x2A 0 0 0 (wide3 p) b 0) | .pst p b => some (encM 0x2A 1 0 0 (wide3 p) b 0)
  | .map f fn => some (encPerm 0x2B (joinFn false fn) f) | .mapr f fn => some (encPerm 0x2B (joinFn true fn) f)
  | .lret => some (encLane 0 0)
  | .lskipNz a n => if n = 0 then none else some (encLane a (joinKind 2 n))
  | .lskipZ a n => if n = 0 then none else some (encLane a (joinKind 3 n))
  | .mopa f rep => some ⟨0x2D, f.latchB, f.tacc, f.ta, f.tb, loMx f.pg rep 0⟩
  | .mops f rep => some ⟨0x2D, f.latchB, f.tacc, f.ta, f.tb, loMx f.pg rep 1⟩
  | .mma f => some ⟨0x2E, false, f.tacc, f.ta, f.slab, loMx f.pg 0 0⟩
  | .mmad f tids => some ⟨0x2E, false, f.tacc, f.ta, f.slab, loMx f.pg tids 1⟩
  | .oload s b d => some (encM 0x2F 0 0 0 s b d) | .ofree s => some (encM 0x2F 1 0 0 s 0 0)
  | .apre a e .fetch => some (encM 0x2F 2 0 0 a e 0) | .apre a e .pin => some (encM 0x2F 2 1 0 a e 0)
  | .apre a e .unpin => some (encM 0x2F 2 2 0 a e 0)
  | .ainv a => some (encM 0x2F 3 0 0 a 0 0) | .ainvAll => some (encM 0x2F 3 1 0 0 0 0)
  | .adtb b l => some (encM 0x2F 4 0 0 0 b l)
  | .convoyIssue | .feedElementLoad _ | .queueDeadlock | .trapTaken _ | .preemption | .clusterPlacement _
  | .timeSliceExpiry | .recheckRerun _ | .stripRewind _ | .userInterruptEntry | .barrierPhaseComplete _
  | .adapterRowFetch _ | .cardStart _ _ | .cardComplete _ _ | .nvmeCompletion _ _ | .packetNop _ _
  | .packetLaunch _ _ | .packetGraphRun _ _ | .packetWrite _ _ | .packetSignal _ _ | .packetWriteSignal _ _
  | .packetWait _ _ | .waitConditionMet _ _ | .packetFence _ _ | .taskComplete _ _ | .taskEnd _ _ _
  | .completionEntryWrite _ _ | .quietIntervalExpiry _ _ | .msixUnmask _ _ | .queueSliceExpiry _
  | .qtailDoorbell _ _ _ | .qringWrite _ _ _ | .qcqWrite _ _ _ | .qctlWrite _ _ _ | .qctlErrClear _ _
  | .graphValidate _ _ _ | .gtrig _ _ | .graphNodeStart _ _ _ | .codeLoad _ _ | .codeUnload _ _
  | .codeSlotFree _ _ | .faultRecordWrite _ | .fqringWrite _ _ | .fqresResume _ _ | .fqresSkip _ _
  | .fqresKill _ _ | .presetKeep _ | .presetScrub _ | .pctlWrite _ _ | .sluiceEntryWrite _ _ _ _ _
  | .sluiceCloseComplete _ _ | .sluiceDown _ | .ownerMapWrite _ _ _ | .hoctlWrite _ | .handoverSwitch _
  | .attestQuote _ _ _ | .attestLog _ _ | .voteDissent _ _ _ | .resyncComplete _ _ | .controlMachineCheck _
  | .dieLinkRepair _ _ _ | .dieLinkResume _ | .causewayFlitReceive _ _ | .causewayReplay _ _ | .causewayRetrain _
  | .causewayPortDown _ | .causewayRequest | .causewayResponse | .causewayTimeout _ _ | .inboundPcieAccess _ _ _
  | .bringup _ | .fullRateTransition _ | .railLimit _ _ | .registerWrite _ _ _ _ | .failure _
  | .uncorrectableError _ | .qptabWrite _ _ _ _ => none

/-- The word of an instruction; none for an event. -/
def encode (i : Instr) : Option Word32 := (encodeFields i).map Fields.toWord

end Sys2Proof
end

