-- ==== Sys2Proof/Machine/Fetch.lean ====
section
/-! DEFINITION. Fetching an instruction word (R150, R286, R288). -/

namespace Sys2Proof.Machine

/-- What a fetch gives. A fetch consumes no mark (R260). -/
inductive Fetched where
  | word (w : Word32)
  | fails (c : Cause)
  | wait (r : RemNeed)
  deriving DecidableEq, Repr

/-- Fetch the word at an address: the page must allow X, and the aperture is no exception to translation (R139,
R150). -/
def fetchAt (s : State) (id : BlkId) (b : Block) (va : Nat) : Fetched :=
  match probe s (blockAcc s id b) needX va with
  | .error c => .fails c
  | .ok x => match physRead s b.remDone x.pa 4 with
    | .ok bs _ => .word (BitVec.ofNat 32 (leNat bs))
    | .fail c => .fails c
    | .need r => .wait r

/-- Fetch n words in a row; the first failure with its address. -/
def fetchRun (s : State) (id : BlkId) (b : Block) (va : Nat) : Nat → Except (Nat × Fetched) (List Word32)
  | 0 => .ok []
  | n + 1 => match fetchAt s id b va with
    | .word w => match fetchRun s id b (va + 4) n with
      | .ok l => .ok (w :: l)
      | .error e => .error e
    | e => .error (va, e)

end Sys2Proof.Machine
end

