-- ==== Sys2Proof/Machine/TileArith.lean ====
section
/-! DEFINITION. Convoy arithmetic: majors 0x20 to 0x24 and TSPL, TMOV, TIOTA of 0x25 (R422 to R425, R429, R434 to R437,
R439 to R446, R449 to R451, R460). -/

namespace Sys2Proof.Machine

/-! ### Element results -/

/-- Elementwise operations. -/
inductive TOp where
  | add | sub | mul | div | sqrt | rsq | rcp | exp2 | log2 | min | max | abs | neg | clamp | fma | fms | fnma
  | and | or | xor | not | shl | shr | sra
  deriving DecidableEq, Repr

/-- Integer results at width w (R87). -/
def intElem (op : TOp) (t : ElemType) (x y z : Nat) : Nat :=
  let w := typeWidth t
  let lt (a b : Nat) : Bool := decide (intVal t a < intVal t b)
  match op with
  | .add => (x + y) % 2 ^ w
  | .sub => (x + 2 ^ w - y) % 2 ^ w
  | .mul => (x * y) % 2 ^ w
  | .min => if lt y x then y else x
  | .max => if lt x y then y else x
  | .abs => if intVal t x < 0 then (2 ^ w - x) % 2 ^ w else x
  | .neg => (2 ^ w - x) % 2 ^ w
  | .clamp => let m := if lt z x then x else z
    if lt y m then y else m
  | .shl => (x <<< (y % w)) % 2 ^ w
  | .shr => x >>> (y % w)
  | .sra => ofInt w (toInt w x / ((2 ^ (y % w) : Nat) : Int))
  | _ => 0

/-- TCLAMP of floating values (R424). -/
def clampElem (f : Fmt) (env : FEnv) (old x y : FVal) : FRes :=
  if anySig [old, x, y] then nanRes f true
  else fMinMax f env false (f.val false (fMinMax f env true old x).1) y

/-- Floating results (R96, R98); `x`, `y` and the third source `z` are encodings. TABS and TNEG move bits (R89). -/
def fpElem (op : TOp) (f : Fmt) (env : FEnv) (x y z : Nat) : FRes :=
  let v := f.val env.fz
  let sgn := 2 ^ (f.width - 1)
  match op with
  | .add => fAdd f env (v x) (v y)
  | .sub => fSub f env (v x) (v y)
  | .mul => fMul f env (v x) (v y)
  | .div => fDiv f env (v x) (v y)
  | .sqrt => fSqrt f env (v x)
  | .rsq => fRsq f env (v x)
  | .rcp => fRcp f env (v x)
  | .exp2 => fExp2 f env (v x)
  | .log2 => fLog2 f env (v x)
  | .min => fMinMax f env false (v x) (v y)
  | .max => fMinMax f env true (v x) (v y)
  | .abs => (x % sgn, 0)
  | .neg => (x ^^^ sgn, 0)
  | .clamp => clampElem f env (v z) (v x) (v y)
  | .fma => fFma f env (v x) (v y) (v z)
  | .fms => fFma f env (v x) (v y) (negVal (v z))
  | .fnma => fFma f env (negVal (v x)) (v y) (v z)
  | _ => (0, 0)

/-- Bits and flags of an elementwise operation on elements of a type. -/
def elemOp (op : TOp) (t : ElemType) (fm : Word64) (x y z : Nat) : Nat × Nat :=
  match op with
  | .and => (x &&& y, 0)
  | .or => (x ||| y, 0)
  | .xor => (x ^^^ y, 0)
  | .not => (2 ^ typeWidth t - 1 - x, 0)
  | _ => match fmtOf t with
    | some f => fpElem op f (fenv fm) x y z
    | none => (intElem op t x y z, 0)

/-! ### Issue-time checks (R64, R69, R81, R97) -/

/-- Three tile operands. -/
def ttCheck (b : Block) (types : ElemType → Bool) (f : FmtTT) (tileDst : Bool) : Option Cause :=
  let c := b.core
  let h := dstRec c f.td
  shapeCause (!dstOk b.grantc c f.td || (tileDst && decide (28 ≤ f.td.toNat)) || !srcOk b.grantc c f.ta
      || !srcOk b.grantc c f.tb || predTooLong f.g (recElems h) false)
    (!types h.ty || !agree h (srcRec c f.ta) || !agree h (srcRec c f.tb))

/-- Two tile operands that agree. -/
def ttuCheck (b : Block) (types : ElemType → Bool) (f : FmtTTu) : Option Cause :=
  let c := b.core
  let h := dstRec c f.td
  shapeCause (!dstOk b.grantc c f.td || !srcOk b.grantc c f.ta || predTooLong f.g (recElems h) false)
    (!types h.ty || !agree h (srcRec c f.ta))

/-- A destination and an s-register. -/
def ttsCheck (b : Block) (types : ElemType → Bool) (f : FmtTTs) : Option Cause :=
  let h := dstRec b.core f.td
  shapeCause (!dstOk b.grantc b.core f.td || predTooLong f.g (recElems h) false) (!types h.ty)

/-- TCMP: the extent is that of its sources. -/
def tcmpCheck (b : Block) (f : FmtTcmp) : Option Cause :=
  let c := b.core
  let h := srcRec c f.ta
  shapeCause (!srcOk b.grantc c f.ta || !srcOk b.grantc c f.tb || predTooLong f.g (recElems h) true)
    (!isNum h.ty || !agree h (srcRec c f.tb))

/-- Types of TCVT (R436). -/
def isCvt (t : ElemType) : Bool := isNum t || decide (t = .e2m1)

/-- The wide floating types. -/
def isWide (t : ElemType) : Bool := decide (t = .f64) || decide (t = .f32) || decide (t = .f16) || decide (t = .bf16)

/-- TCVT, TQNT and TDQ: equal extents, and a pair of types. `tileSrc` and `tileDst` forbid queues. -/
def cvtCheck (b : Block) (ok : ElemType → ElemType → Bool) (f : FmtTTu) (tileDst tileSrc : Bool) : Option Cause :=
  let c := b.core
  let h := dstRec c f.td
  let k := srcRec c f.ta
  shapeCause (!dstOk b.grantc c f.td || !srcOk b.grantc c f.ta || predTooLong f.g (recElems h) false
      || (tileDst && decide (28 ≤ f.td.toNat)) || (tileSrc && decide (28 ≤ f.ta.toNat)))
    (!ok h.ty k.ty || !sameExtent h k)

/-! ### The common course -/

/-- An elementwise instruction with two sources. -/
def binOp (op : TOp) (types : ElemType → Bool) (f : FmtTT) (s : State) : Out :=
  withBlock s fun id b =>
    tileOp s id b (ttCheck b types f false) [f.ta, f.tb] (some f.td) fun c xs =>
      elementPlan c f.g f.td xs fun _ v => elemOp op (dstRec c f.td).ty c.fmode (v.getD 0 0) (v.getD 1 0) 0

/-- One that also reads its destination (R424, R444). -/
def triOp (op : TOp) (types : ElemType → Bool) (f : FmtTT) (s : State) : Out :=
  withBlock s fun id b =>
    tileOp s id b (ttCheck b types f true) [f.ta, f.tb] (some f.td) fun c xs =>
      elementPlan c f.g f.td (xs ++ [tileSrc c f.td.toNat]) fun _ v =>
        elemOp op (dstRec c f.td).ty c.fmode (v.getD 0 0) (v.getD 1 0) (v.getD 2 0)

/-- One source. -/
def unaryOp (op : TOp) (types : ElemType → Bool) (f : FmtTTu) (s : State) : Out :=
  withBlock s fun id b =>
    tileOp s id b (ttuCheck b types f) [f.ta] (some f.td) fun c xs =>
      elementPlan c f.g f.td xs fun _ v => elemOp op (dstRec c f.td).ty c.fmode (v.getD 0 0) 0 0

/-! ### Majors 0x20 and 0x21 (R422 to R424, R440 to R444) -/

/-- TADD (R423). -/
def execTadd (f : FmtTT) (s : State) : Out := binOp .add isNum f s
/-- TSUB (R423). -/
def execTsub (f : FmtTT) (s : State) : Out := binOp .sub isNum f s
/-- TMUL (R423). -/
def execTmul (f : FmtTT) (s : State) : Out := binOp .mul isNum f s
/-- TDIV (R423). -/
def execTdiv (f : FmtTT) (s : State) : Out := binOp .div isFp f s
/-- TSQRT (R441). -/
def execTsqrt (f : FmtTTu) (s : State) : Out := unaryOp .sqrt isFp f s
/-- TRSQ (R441). -/
def execTrsq (f : FmtTTu) (s : State) : Out := unaryOp .rsq isFp f s
/-- TRCP (R441). -/
def execTrcp (f : FmtTTu) (s : State) : Out := unaryOp .rcp isFp f s
/-- TEXP2 (R441). -/
def execTexp2 (f : FmtTTu) (s : State) : Out := unaryOp .exp2 isFp f s
/-- TLOG2 (R441). -/
def execTlog2 (f : FmtTTu) (s : State) : Out := unaryOp .log2 isFp f s
/-- TMIN (R423). -/
def execTmin (f : FmtTT) (s : State) : Out := binOp .min isNum f s
/-- TMAX (R423). -/
def execTmax (f : FmtTT) (s : State) : Out := binOp .max isNum f s
/-- TABS (R423). -/
def execTabs (f : FmtTTu) (s : State) : Out := unaryOp .abs isNum f s
/-- TNEG (R423). -/
def execTneg (f : FmtTTu) (s : State) : Out := unaryOp .neg isNum f s
/-- TCLAMP (R424). -/
def execTclamp (f : FmtTT) (s : State) : Out := triOp .clamp isNum f s
/-- TFMA (R444). -/
def execTfma (f : FmtTT) (s : State) : Out := triOp .fma isFp f s
/-- TFMS (R444). -/
def execTfms (f : FmtTT) (s : State) : Out := triOp .fms isFp f s
/-- TFNMA (R444). -/
def execTfnma (f : FmtTT) (s : State) : Out := triOp .fnma isFp f s

/-! ### Major 0x22 (R429) -/

/-- Every type of R66. -/
def anyType (_ : ElemType) : Bool := true

/-- TAND (R429). -/
def execTand (f : FmtTT) (s : State) : Out := binOp .and anyType f s
/-- TOR (R429). -/
def execTor (f : FmtTT) (s : State) : Out := binOp .or anyType f s
/-- TXOR (R429). -/
def execTxor (f : FmtTT) (s : State) : Out := binOp .xor anyType f s
/-- TNOT (R429). -/
def execTnot (f : FmtTTu) (s : State) : Out := unaryOp .not anyType f s
/-- TSHL (R429). -/
def execTshl (f : FmtTT) (s : State) : Out := binOp .shl isInt f s
/-- TSHR (R429). -/
def execTshr (f : FmtTT) (s : State) : Out := binOp .shr isInt f s
/-- TSRA (R429). -/
def execTsra (f : FmtTT) (s : State) : Out := binOp .sra isInt f s

/-! ### Major 0x23 (R434, R435, R460) -/

/-- One comparison of TCMP: outcome and flags (R98, R434). -/
def cmpElem (cc : CmpOp) (t : ElemType) (fm : Word64) (x y : Nat) : Bool × Nat :=
  match fmtOf t with
  | some f => let v := f.val (flag fm 3)
    fCompare cc (v x) (v y)
  | none =>
    let a := intVal t x
    let b := intVal t y
    (match cc with
      | .eq => decide (a = b) | .ne => decide (a ≠ b) | .lt => decide (a < b) | .le => decide (a ≤ b)
      | .gt => decide (b < a) | .ge => decide (b ≤ a), 0)

/-- TCMP (R434): the results are one bit each; an FP trap names ta. A strip of no element clears every bit (R81). -/
def execTcmp (f : FmtTcmp) (s : State) : Out :=
  withBlock s fun id b =>
    tileOp s id b (tcmpCheck b f) [f.ta, f.tb] none (fun c xs =>
      let h := srcRec c f.ta
      let act := activeIx c f.g (recElems h)
      let hits := readHits c (act.map fun i => (i, xs.map fun x => (x, i))) true
      let get (k i : Nat) : Nat := match xs[k]? with
        | some x => x.get i
        | none => 0
      let rs := act.map fun i =>
        let (r, fl) := cmpElem f.cc h.ty c.fmode (get 0 i) (get 1 i)
        (⟨i, if r then 1 else 0, none, fl⟩ : Res)
      let ok := rs.filter fun r => !(hits.any fun k => k.lin == r.lin)
      ⟨hits ++ fpHits c.fmode h f.ta.toNat ok, raisedBy rs,
        fun c => setPred c f.pd (bitsOf ((rs.filter fun r => r.val == 1).map fun r => r.lin))⟩)
      (idle := fun c => setPred c f.pd 0)

/-- A result that copies an element of an operand with its mark. -/
def copyRes (x : Src) (i j : Nat) : Res := ⟨i, x.get j, x.mark j, 0⟩

/-- TSEL (R460): every granted element is written; only the selected operand is read. -/
def execTsel (f : FmtTT) (s : State) : Out :=
  withBlock s fun id b =>
    tileOp s id b (ttCheck b isNum f false) [f.ta, f.tb] (some f.td) fun c xs =>
      match xs with
      | [xa, xb] =>
        let ix := upTo (recElems (dstRec c f.td))
        let pick (i : Nat) : Src := if isActive c f.g i then xa else xb
        ⟨readHits c (ix.map fun i => (i, [(pick i, i)])) false, [],
          fun c' => writeDst c' f.td (ix.map fun i => copyRes (pick i) i i) []⟩
      | _ => ⟨[], [], fun c' => c'⟩

/-! ### Major 0x24: conversions (R436, R439, R449 to R451) -/

/-- The rounding of TCVT and TQNT at destination element i: stochastic where R95 applies. -/
def cvtEnv (b : Block) (stoch : Bool) (i : Nat) : FEnv :=
  let env := fenv b.core.fmode
  if stoch ∧ flag b.core.fmode 5 then { env with mode := .sr (srBits b.blkid b.stripId b.core.fmode i) } else env

/-- One conversion (R100, R436). -/
def cvtElem (env : FEnv) (src dst : ElemType) (x : Nat) : FRes :=
  match fmtOf src, fmtOf dst with
  | some f, some g => fToF g env (f.val env.fz x)
  | some f, none => fToInt (typeWidth dst) (isSigned dst) env (f.val env.fz x)
  | none, some g => intToF g env (intVal src x)
  | none, none => intToInt (typeWidth dst) (isSigned dst) (intVal src x)

/-- Destinations of stochastic rounding by TCVT (R95). -/
def isStoch (t : ElemType) : Bool := decide (t = .bf16) || decide (t = .e4m3) || decide (t = .e5m2)

/-- Types of TCVT on both sides. -/
def tcvtTypes (d k : ElemType) : Bool := isCvt d && isCvt k

/-- TCVT (R436). -/
def execTcvt (f : FmtTTu) (s : State) : Out :=
  withBlock s fun id b =>
    tileOp s id b (cvtCheck b tcvtTypes f false false) [f.ta] (some f.td) fun c xs =>
      let d := (dstRec c f.td).ty
      let k := (srcRec c f.ta).ty
      elementPlan c f.g f.td xs fun i v => cvtElem (cvtEnv b (isStoch d) i) k d (v.getD 0 0)

/-- The element format of an mx type; none for mxi8 (R90). -/
def mxFmt : ElemType → Option Fmt
  | .mx8e4 => some fmtE4m3 | .mx8e5 => some fmtE5m2 | .mx4 => some fmtE2m1 | _ => none

/-- emax of an mx type (R90). -/
def mxEmax : ElemType → Int
  | .mx8e4 => 8 | .mx8e5 => 15 | .mx4 => 2 | _ => 0

/-- floor(log2) of the largest magnitude among finite non-zero values (R91 step 1). -/
def amaxLog (vs : List FVal) : Option Int :=
  vs.foldl (fun a v => match v with
    | .fin _ m e => if m = 0 then a else
        let l := e + bitLen m - 1
        match a with
        | none => some l
        | some x => some (if x < l then l else x)
    | _ => a) none

/-- Scale code and exponent k of a block (R91 steps 1 and 2). -/
def blockScale (t : ElemType) (vs : List FVal) : Nat × Int :=
  match amaxLog vs with
  | none => (0, 0)
  | some l =>
    let k := l - mxEmax t
    let k := if k < -127 then -127 else if 127 < k then 127 else k
    ((k + 127).toNat, k)

/-- Quantise one source value (R91 steps 3 to 6). -/
def quantElem (t : ElemType) (env : FEnv) (k : Int) (v : FVal) : FRes :=
  let env := { env with sat8 := true }
  match mxFmt t with
  | some f => match v with
    | .nan sg => if f.width = 4 then (0, fNV) else nanRes f sg
    | .inf n => if f.width = 4 then (f.top n, fSAT + fNX) else nanRes f true
    | .fin n m e => deliver f env n m (e - k) n
  | none => match v with
    | .nan _ => (0, fNV)
    | .inf n => (if n then 0x80 else 0x7F, fSAT + fNX)
    | .fin n m e =>
      let (x, nx) := roundInt env.mode n m (e - k + 6)
      if x < -128 then (0x80, fSAT + fNX) else if 127 < x then (0x7F, fSAT + fNX)
      else (ofInt 8 x, if nx then fNX else 0)

/-- Types of TQNT. -/
def tqntTypes (d k : ElemType) : Bool := isMx d && isWide k

/-- TQNT (R450). -/
def execTqnt (f : FmtTTu) (s : State) : Out :=
  withBlock s fun id b =>
    tileOp s id b (cvtCheck b tqntTypes f true false) [f.ta] (some f.td) fun c xs =>
      match xs with
      | [x] =>
        let h := dstRec c f.td
        let k := srcRec c f.ta
        let sf := (fmtOf k.ty).getD fmtF32
        let act := activeIx c f.g (recElems h)
        let hits := readHits c (act.map fun i => (i, [(x, i)])) true
        let blocks := (upTo (recRows h)).flatMap fun r => (upTo (ceilDiv h.gc 32)).map fun q => (r, q)
        let mx8 := decide (h.ty = .mx8e4) || decide (h.ty = .mx8e5)
        let out := blocks.filterMap fun (r, q) =>
          let cols := (span (32 * q) (Nat.min 32 (h.gc - 32 * q))).filter fun col => isActive c f.g (r * h.gc + col)
          if cols.isEmpty then none
          else
            let vals := cols.map fun col => (r * h.gc + col, sf.val (flag c.fmode 3) (x.get (r * h.gc + col)))
            let (code, e) := blockScale h.ty (vals.map Prod.snd)
            some ((r, q, code), vals.map fun (i, v) =>
              let (bits, fl) := quantElem h.ty (cvtEnv b mx8 i) e v
              (⟨i, bits, none, fl⟩ : Res))
        let rs := out.flatMap Prod.snd
        let ok := rs.filter fun r => !(hits.any fun k => k.lin == r.lin)
        ⟨hits ++ fpHits c.fmode h f.td.toNat ok, out.flatMap fun o => o.2.map fun r => (o.1.1 * h.gc + Nat.min h.gc (32 * o.1.2.1 + 32), r.flags),
          fun c' => writeTile c' f.td.toNat h false rs (out.map Prod.fst)⟩
      | _ => ⟨[], [], fun c' => c'⟩

/-- The value of an mx element under its scale code, with every NaN quiet (R90, R439). -/
def mxVal (t : ElemType) (x scale : Nat) : FVal :=
  if scale = 255 then .nan false
  else
    let k : Int := (scale : Int) - 127
    match mxFmt t with
    | some f => match f.val false x with
      | .fin n m e => .fin n m (e + k)
      | .inf n => .inf n
      | .nan _ => .nan false
    | none =>
      let v := toInt 8 x
      .fin (v < 0) v.natAbs (k - 6)

/-- Types of TDQ. -/
def tdqTypes (d k : ElemType) : Bool := isWide d && isMx k

/-- TDQ (R439). -/
def execTdq (f : FmtTTu) (s : State) : Out :=
  withBlock s fun id b =>
    tileOp s id b (cvtCheck b tdqTypes f false true) [f.ta] (some f.td) fun c xs =>
      let k := srcRec c f.ta
      let g := (fmtOf (dstRec c f.td).ty).getD fmtF32
      let sc (i : Nat) : Nat := match xs with
        | [x] => x.scale (i / k.gc) (i % k.gc / 32)
        | _ => 0
      elementPlan c f.g f.td xs fun i v => fToF g (fenv c.fmode) (mxVal k.ty (v.getD 0 0) (sc i))

/-! ### TSPL, TMOV, TIOTA (R445, R446) -/

/-- Element i of a destination takes a value formed from an s-register. -/
def splatOp (types : ElemType → Bool) (f : FmtTTs) (s : State) (v : Nat → Word64 → Nat) : Out :=
  withBlock s fun id b =>
    match (if inHandler b then some .illegalInstr else ttsCheck b types f) with
    | some c => raiseAt s id b c false 0
    | none =>
      unlessMarked s id b false [rmark b.core.sm f.sm]
        (tileOp s id b none [] (some f.td) fun c _ =>
          elementPlan c f.g f.td [] fun i _ => (v i (rget b.core.s f.sm) % 2 ^ typeWidth (dstRec c f.td).ty, 0))

/-- TSPL (R446). -/
def execTspl (f : FmtTTs) (s : State) : Out := splatOp (fun t => !isMx t) f s fun _ x => x.toNat
/-- TIOTA (R446). -/
def execTiota (f : FmtTTs) (s : State) : Out := splatOp isInt f s fun i x => x.toNat + i

/-- The scales of the blocks that hold one of the elements. -/
def scalesOf (x : Src) (h : ShapeRec) (ix : List Nat) : List (Nat × Nat × Nat) :=
  if isMx h.ty then ((ix.map fun i => (i / h.gc, i % h.gc / 32)).eraseDups).map fun (r, q) => (r, q, x.scale r q) else []

/-- TMOV (R446). -/
def execTmov (f : FmtTTu) (s : State) : Out :=
  withBlock s fun id b =>
    tileOp s id b (ttuCheck b anyType f) [f.ta] (some f.td) fun c xs =>
      match xs with
      | [x] =>
        let h := dstRec c f.td
        let act := activeIx c f.g (recElems h)
        ⟨readHits c (act.map fun i => (i, [(x, i)])) false, [],
          fun c' => writeDst c' f.td (act.map fun i => copyRes x i i) (scalesOf x h act)⟩
      | _ => ⟨[], [], fun c' => c'⟩

end Sys2Proof.Machine
end

