-- ==== Sys2Proof/Machine/Matrix.lean ====
section
/-! DEFINITION. The matrix arrays, B slabs and per-row adapters: majors 0x2D, 0x2E and 0x2F (R101, R102, R110 to R137,
R344, R345, R351, R397, R398, R400). -/

namespace Sys2Proof.Machine

/-! ### Outer products (R113 to R115, R398) -/

/-- A matrix operand of n consecutive tiles with g = 1 under one record (R110, R114). -/
def mxTileOk (b : Block) (t n : Nat) : Bool :=
  let c := b.core
  let h := vget 0 c.bindT t
  (recN c h).g == 0 && decide (t + n ≤ 28) && decide (t + n ≤ declared b.grantc)
    && (span t n).all fun j => vget 0 c.bindT j == h

/-- Types of MOPA and MOPS. -/
def mopType (t : ElemType) : Bool := isFp t

/-- Issue-time causes of MOPA and MOPS (R114). -/
def mopCheck (b : Block) (f : FmtMx) (r : Nat) : Option Cause :=
  let c := b.core
  let hd := srcRec c f.tacc
  let ha := srcRec c f.ta
  let hb := srcRec c f.tb
  let ra := if f.latchB then r else 1
  let rb := if f.latchB then 1 else r
  let meets (x n : Nat) : Bool := decide (x < f.tacc.toNat + r) && decide (f.tacc.toNat < x + n)
  shapeCause (!mxTileOk b f.tacc.toNat r || !mxTileOk b f.ta.toNat ra || !mxTileOk b f.tb.toNat rb
      || meets f.ta.toNat ra || meets f.tb.toNat rb || predTooLong ⟨f.pg, false⟩ (recElems hd) false)
    (ha.gr ≠ 1 || ha.gc ≠ hd.gr || hb.gr ≠ 1 || hb.gc ≠ hd.gc || ha.ty ≠ hb.ty || !mopType ha.ty
      || hd.ty ≠ (if ha.ty = .f64 then .f64 else .f32))

/-- MOPA and MOPS: step s updates accumulator s with one rounding for each element. DEAD_READ of any operand names the
element of tacc (R398). -/
def mopOp (f : FmtMx) (rep : BitVec 5) (neg : Bool) (s : State) : Out :=
  withBlock s fun id b =>
    let r := rep.toNat + 1
    match (if inHandler b ∨ 16 < r then some .illegalInstr else mopCheck b f r) with
    | some c => raiseAt s id b c false 0
    | none => tileOp s id b none [] none fun c _ =>
      let hd := srcRec c f.tacc
      let ha := srcRec c f.ta
      let hb := srcRec c f.tb
      let fo := (fmtOf ha.ty).getD fmtF32
      let fa := (fmtOf hd.ty).getD fmtF32
      let env := fenv c.fmode
      let act := activeIx c ⟨f.pg, false⟩ (recElems hd)
      let steps := (upTo r).map fun k =>
        let ca := tileSrcAs c ha (if f.latchB then f.ta.toNat + k else f.ta.toNat)
        let cb := tileSrcAs c hb (if f.latchB then f.tb.toNat else f.tb.toNat + k)
        let cd := tileSrcAs c hd (f.tacc.toNat + k)
        let hits := (readHits c (act.map fun e => (e, [(ca, e / hd.gc), (cb, e % hd.gc), (cd, e)])) true).map fun h =>
          if h.cause = .deadRead then { h with coord := coordAt hd (f.tacc.toNat + k) h.lin } else h
        let rs := act.map fun e =>
          let x := fo.val env.fz (ca.get (e / hd.gc))
          let y := fo.val env.fz (cb.get (e % hd.gc))
          let (v, fl) := fFma fa env (if neg then negVal x else x) y (fa.val env.fz (cd.get e))
          (⟨e, v, none, fl⟩ : Res)
        (k, hits, rs)
      let all := steps.flatMap fun x => x.2.2
      let te := fld c.fmode 14 8
      let cause : Cause := if unionFlags all &&& te = fSUS then .suspect else .fpEnabled
      let fp := steps.flatMap fun (k, hits, rs) =>
        (rs.filter fun x => x.flags &&& te != 0 && !(hits.any fun h => h.lin == x.lin)).map fun x =>
          (⟨x.lin, cause, none, coordAt hd (f.tacc.toNat + k) x.lin, 0⟩ : Hit)
      ⟨(steps.flatMap fun x => x.2.1) ++ fp, raisedBy all,
        fun c' => steps.foldl (fun c' (k, _, rs) => writeTile c' (f.tacc.toNat + k) hd false rs []) c'⟩

/-- MOPA (R114). -/
def execMopa (f : FmtMx) (rep : BitVec 5) (s : State) : Out := mopOp f rep false s
/-- MOPS (R114). -/
def execMops (f : FmtMx) (rep : BitVec 5) (s : State) : Out := mopOp f rep true s

/-! ### B slabs (R116 to R121, R400) -/

/-- Rows of B that one slab holds; none for a TYPE that no slab takes. -/
def kslab : ElemType → Option Nat
  | .e4m3 | .e5m2 => some 512
  | .f16 | .bf16 => some 256
  | .mx8e4 | .mx8e5 | .mxi8 => some 480
  | .mx4 => some 960
  | _ => none

/-- A span covers a slab. -/
def inSpan (head : Nat) (x : Slab) (k : Nat) : Bool := decide (head ≤ k) && decide (k < head + x.span)

/-- Free the spans that overlap n slabs from k on. -/
def freeSlabs (m : SMap Slab) (k n : Nat) : SMap Slab :=
  m.filter fun e => !(decide (e.1 < k + n) && decide (k < e.1 + e.2.span))

/-- Physical slabs that a block needs: those staged, and the copies that its rewind needs (R119). -/
def slabsNeeded (b : Block) (m : SMap Slab) : Nat :=
  (m.foldl (fun n e => n + e.2.span) 0)
    + b.ckpt.slabs.foldl (fun n e => if m.any fun x => x.1 == e.1 && !x.2.fresh then n else n + e.2.span) 0

/-- New slabs of a block; a strip whose rewind copies find no physical slab becomes non-rewindable (R119, R120). -/
def putSlabs (b : Block) (m : SMap Slab) : Block :=
  let b' := { b with core := { b.core with slabs := m } }
  if b.rewindable ∧ 32 < slabsNeeded b m then nonRewindable b' else b'

/-- The descriptor of OLOAD (R117): TYPE, K, N, row stride and span; none where it raises SHAPE_INVALID. -/
structure SlabDesc where
  ty : ElemType
  k : Nat
  n : Nat
  stride : Nat
  span : Nat
  per : Nat
  deriving DecidableEq, Repr

/-- Read a descriptor for a slab number. -/
def slabDesc (slab : Nat) (d : Word64) : Option SlabDesc :=
  match typeOfCode (fld d 4 0) with
  | none => none
  | some ty => match kslab ty with
    | none => none
    | some ks =>
      let k := fld d 31 16
      let sp := ceilDiv k ks
      if flag d 15 ∨ fld d 7 5 ≠ 0 ∨ k = 0 ∨ 32 < slab + sp then none
      else some ⟨ty, k, fld d 14 8 + 1, fld d 63 32, sp, ks⟩

/-- Element size in bytes for alignment; 4-bit elements have none. -/
def elemBytes (t : ElemType) : Nat := typeWidth t / 8

/-- The intervals that OLOAD reads: its rows, then the rows of scales (R118). -/
def slabRows (d : SlabDesc) (base : Nat) : List (Nat × Nat) :=
  (upTo d.k).map (fun k => ((base + k * d.stride) % 2 ^ 64, ceilDiv (d.n * typeWidth d.ty) 8))
    ++ if isMx d.ty then
        (upTo (ceilDiv d.k 32)).map fun q => ((base + d.k * d.stride + q * d.n) % 2 ^ 64, d.n)
      else []

/-- The pieces of OLOAD's intervals, each with the number of its elements or scales. -/
def slabPieces (d : SlabDesc) (base : Nat) : List (Nat × Nat × Nat) :=
  let cut (w : Nat) (r : Nat × Nat) : List (Nat × Nat × Nat) := (pieces128 r.1 r.2).map fun (va, k) =>
    let o := va - r.1
    (va, k, Nat.min d.n (8 * (o + k) / w) - 8 * o / w)
  let rows := slabRows d base
  (rows.take d.k).flatMap (cut (typeWidth d.ty)) ++ (rows.drop d.k).flatMap (cut 8)

/-- Element j of a row of bytes. -/
def packedElem (t : ElemType) (bs : List Byte) (j : Nat) : Nat :=
  if typeWidth t = 4 then field ((bs[j / 2]?.getD 0).toNat) (4 * (j % 2) + 3) (4 * (j % 2))
  else leNat ((bs.drop (j * elemBytes t)).take (elemBytes t))

/-- Its place in the row's bytes: offset and size. -/
def packedPlace (t : ElemType) (j : Nat) : Nat × Nat :=
  if typeWidth t = 4 then (j / 2, 1) else (j * elemBytes t, elemBytes t)

/-- Take the pieces of each row from the joined bytes of all rows. -/
def splitRows : List (Nat × Nat) → Nat → List Byte → List (Nat × List Byte)
  | [], _, _ => []
  | (_, n) :: t, off, bs => (off, bs.take n) :: splitRows t (off + n) (bs.drop n)

/-- The slab that the read bytes make. -/
def buildSlab (d : SlabDesc) (base : Nat) (bs : List Byte) (ms : List (Nat × Nat × Mark)) : Slab :=
  let rows := splitRows (slabRows d base) 0 bs
  let cols := upTo d.n
  let body := (upTo d.k).zip (rows.take d.k)
  let scal := (upTo (ceilDiv d.k 32)).zip (rows.drop d.k)
  let elems := body.foldl (fun m (k, _, x) => cols.foldl (fun m j => mapPutNat m (k * 128 + j) (packedElem d.ty x j)) m) []
  let scales := scal.foldl (fun m (q, _, x) => cols.foldl (fun m j => mapPutNat m (q * 128 + j) ((x[j]?.getD 0).toNat)) m) []
  let m1 := body.foldl (fun m (k, off, _) => cols.foldl (fun m j =>
    let (o, n) := packedPlace d.ty j
    match markOver ms (off + o) n with
    | some x => mapPut m (k / d.per * 128 + j) x
    | none => m) m) []
  let m2 := scal.foldl (fun m (q, off, _) => cols.foldl (fun m j => match markOver ms (off + j) 1 with
    | some x => mapPut m (q * 32 / d.per * 128 + j) x
    | none => m) m) m1
  ⟨d.ty, d.k, d.n, d.span, elems, scales, m2, true⟩

/-- OLOAD (R117 to R120, R400). A stride alone that is misaligned is reported at the base (DEDUCED, log 91). -/
def execOload (slab b_ d : RegNo) (s : State) : Out :=
  withBlock s fun id b =>
    let c := b.core
    unlessMarked s id b true [rmark c.am b_, rmark c.am d]
      (let base := (rget c.a b_).toNat
      match slabDesc slab.toNat (rget c.a d) with
      | none => raiseAt s id b .shapeInvalid true 0
      | some x =>
        let eb := elemBytes x.ty
        if eb ≠ 0 ∧ (base % eb ≠ 0 ∨ x.stride % eb ≠ 0) then raiseAt s id b .misalign true base
        else
          let acc := blockAcc s id b
          match probePieces s acc needRd (Nat.max 1 eb) (slabPieces x base) with
          | .error f => raiseSpan s id b f
          | .ok els => afterDrain id (loadDrain s id b els) fun s b => match loadPieces s b (fun k => 8 * k / typeWidth x.ty) els with
            | .wait r => holdAsk s id b r
            | .fail f => raiseSpan s id b f
            | .ok bs ms =>
              let s' := fillEls s acc els
              let m := mapPut (freeSlabs b.core.slabs slab.toNat x.span) slab.toNat (buildSlab x base bs ms)
              finish s' id (putSlabs (afterLoad els b) m))

/-- OFREE (R121): the span that holds the slab goes. -/
def execOfree (slab : RegNo) (s : State) : Out :=
  withBlock s fun id b =>
    finish s id { b with core := { b.core with slabs := b.core.slabs.filter fun e => !inSpan e.1 e.2 slab.toNat } }

/-! ### Adapters (R125 to R130) -/

/-- First byte of the adapter table. -/
def adtBaseVa (w : Word64) : Nat := fld w 54 5 <<< 5
/-- log2 of its entries; a value above 16 acts as 16. -/
def adtLog (w : Word64) : Nat := Nat.min (fld w 63 59) 16
/-- The address of an entry. -/
def adtEntry (w : Word64) (i : Nat) : Nat := adtBaseVa w + 32 * i

/-- A valid entry (R126): scale, rank, type, addresses. -/
structure AdFields where
  alpha : Nat
  r : Nat
  ty : ElemType
  la : Nat
  lb : Nat
  stride : Nat
  deriving DecidableEq, Repr

/-- Types of La and Lb. -/
def adType (t : ElemType) : Bool :=
  decide (t = .f32) || decide (t = .f16) || decide (t = .bf16) || decide (t = .e4m3) || decide (t = .e5m2)

/-- Read an entry's fields; none where R130 makes the row fault. -/
def adFields (e : List Byte) : Option AdFields :=
  let d0 := leWord (e.take 8)
  let d1 := leWord ((e.drop 8).take 8)
  let d2 := leWord ((e.drop 16).take 8)
  let d3 := leWord ((e.drop 24).take 8)
  match typeOfCode (fld d0 8 4) with
  | none => none
  | some ty =>
    if flag d0 0 ∧ adType ty ∧ 3 ≤ fld d0 3 1 ∧ fld d0 3 1 ≤ 7 ∧ fld d0 15 9 = 0 ∧ fld d1 63 55 = 0 ∧ fld d2 63 55 = 0
        ∧ fld d3 63 32 = 0 then
      some ⟨fld d0 63 32, 2 ^ fld d0 3 1, ty, fld d1 54 0, fld d2 54 0, fld d3 31 0⟩
    else none

/-- What fetching an adapter gives: it, a fault, requests to the causeways with the entry once it has been read, or a GEN
that has changed. -/
inductive AdFetch where
  | ok (e : AdEntry)
  | fault (c : Cause) (va : Nat)
  | need (rs : List RemNeed) (entry : Option (List Byte))
  | changed
  deriving DecidableEq, Repr

/-- The cause of a failing fetch: ADAPTER_FAULT for translation, permission, poison and alignment (R130), and
SLUICE_DOWN for itself. -/
def adCause (c : Cause) : Cause := if c = .sluiceDown then .sluiceDown else .adapterFault

/-- Read one part of an adapter; `entry` is kept over a wait. -/
def adRead (s : State) (c : Acc) (va n align : Nat) (entry : Option (List Byte)) (k : List Byte → AdFetch) : AdFetch :=
  if va % align ≠ 0 then .fault .adapterFault va
  else match readMem s c va n with
    | .ok bs [] => k bs
    | .ok _ (p :: _) => .fault .adapterFault (p - p % 128)
    | .fail e v => .fault (adCause e) v
    | .need r => .need r entry

/-- Read the rows of Lb. -/
def adRows (s : State) (c : Acc) (stride n align : Nat) (entry : Option (List Byte)) :
    Nat → Nat → List Byte → (List Byte → AdFetch) → AdFetch
  | 0, _, bs, k => k bs
  | q + 1, va, bs, k => adRead s c va n align entry fun x => adRows s c stride n align entry q (va + stride) (bs ++ x) k

/-- GEN of an entry's first bytes (R126). -/
def adGen (e : List Byte) : Nat := fld (leWord (e.take 8)) 31 16

/-- La and Lb of an entry, and then its bytes 0 to 7 again, whose GEN must be the one that was read (R129). -/
def fetchParts (s : State) (c : Acc) (adt : Word64) (i k n : Nat) (e : List Byte) : AdFetch :=
  let ea := adtEntry adt i
  match adFields e with
  | none => .fault .adapterFault ea
  | some f =>
    let eb := elemBytes f.ty
    adRead s c f.la (k * f.r * eb) eb (some e) fun la => adRows s c f.stride (n * eb) eb (some e) f.r f.lb [] fun lb =>
      adRead s c ea 8 1 (some e) fun g =>
        if adGen g = adGen e then .ok ⟨c.cu.getD 0, adtBaseVa adt, i, k, n, e, la, lb⟩ else .changed

/-- Fetch entry, La and Lb of an id for extents K and N (R129), going on from an attempt that has read the entry. -/
def fetchAdapter (s : State) (c : Acc) (adt : Word64) (i k n : Nat) (t : Option AdTry) : AdFetch :=
  match t.bind fun t => if t.id = i then t.entry else none with
  | some e => fetchParts s c adt i k n e
  | none => adRead s c (adtEntry adt i) 32 1 none (fetchParts s c adt i k n)

/-- Attempts of the id that the GEN check has rejected so far. -/
def triesOf (t : Option AdTry) (i : Nat) : Nat :=
  match t with
  | some x => if x.id = i then x.tries else 0
  | none => 0

/-- A fetch in the block's name: its end with the block's attempts forgotten, the wait for the causeways, a repetition, or
ADAPTER_FAULT after the fourth attempt (R129). -/
def fetchFor (s : State) (id : BlkId) (b : Block) (i k n : Nat) (ok : Block → AdEntry → Out)
    (bad : Block → Cause → Nat → Out) : Out :=
  let clear : Block := { b with adTry := none, remDone := [] }
  let tries := triesOf b.adTry i
  match fetchAdapter s (blockAcc s id b) b.adtBase i k n b.adTry with
  | .ok e => ok clear e
  | .fault c va => bad clear c va
  | .need rs e => .next (askAll (setBlock s id { b with adTry := some ⟨i, e, tries⟩ }) (blockReq id) rs)
  | .changed =>
    if 3 ≤ tries then bad clear .adapterFault (adtEntry b.adtBase i)
    else .next (setBlock s id { clear with adTry := some ⟨i, none, tries + 1⟩ })

/-! ### The adapter cache (R128) -/

/-- Numbers of the 256-byte lines that n bytes from an offset touch. -/
def linesOver (off n : Nat) : List Nat := if n = 0 then [] else span (off / 256) ((off + n - 1) / 256 + 1 - off / 256)

/-- The lines of a cached adapter that extents K and N need, by offsets that no extent changes: the entry's is 0, those of La
are odd and those of Lb even, each by its distance from the first (log 69). -/
def linesNeeded (e : AdEntry) (k n : Nat) : List Nat :=
  match adFields e.entry with
  | none => [0]
  | some f =>
    let eb := elemBytes f.ty
    0 :: ((linesOver 0 (k * f.r * eb)).map (2 * · + 1)
      ++ ((upTo f.r).flatMap fun q => linesOver (q * f.stride) (n * eb)).eraseDups.map (2 * · + 2))

/-- The line belongs to an adapter. -/
def AdLine.of (l : AdLine) (cu base i : Nat) : Bool := l.cu == cu && l.base == base && l.id == i

/-- A cached adapter all of whose lines for the extents are present (R128). -/
def findAdapter (s : State) (p cu base i k n : Nat) : Option AdEntry :=
  let x := getPolder s p
  x.adapters.find? fun e =>
    e.cu == cu && e.base == base && e.id == i && decide (k ≤ e.k) && decide (n ≤ e.n)
      && (linesNeeded e k n).all fun o => x.adLines.any fun l => l.of cu base i && l.off == o

/-- The ids whose lines a block's MMAD and MMA hold: one in progress, one that has just completed, and those whose recheck has
not retired (R129). -/
def Block.holdsIds (b : Block) : List Nat :=
  (b.mmad.map MmadProg.held).getD [] ++ b.adHeld ++ b.recheck.flatMap Recheck.held

/-- An MMAD of the polder holds the line (R129). -/
def lineHeld (x : Polder) (l : AdLine) : Bool :=
  x.blocks.any fun e => e.2.place.any (fun q => q.1 == l.cu) && adtBaseVa e.2.adtBase == l.base && e.2.holdsIds.contains l.id

/-- The set of a line. -/
def AdLine.set (l : AdLine) : BitVec 7 := Config.adapterSet l.base l.id l.off

/-- Bring a line in as the one used last: where its set is full, in the place of the line used least recently among those
that are neither pinned nor held, or not at all (R128). -/
def insertLine (x : Polder) (ls : List AdLine) (l : AdLine) : List AdLine :=
  if (ls.filter fun y => y.cu == l.cu).length < 16 then ls ++ [l]
  else
    let set := ls.filter fun y => y.cu == l.cu && y.set == l.set
    if set.length < 16 then ls ++ [l]
    else match set.find? fun y => y.pins.isEmpty && !lineHeld x y with
      | some y => dropFirst (fun z => decide (z = y)) ls ++ [l]
      | none => ls

/-- Lines of an adapter are used: they come last in the order of use. -/
def touchLines (s : State) (p cu base i : Nat) (offs : List Nat) : State :=
  let hit (l : AdLine) : Bool := l.of cu base i && offs.contains l.off
  updPolder s p fun x => { x with adLines := (x.adLines.filter fun l => !hit l) ++ x.adLines.filter hit }

/-- A fetch of the same adapter that a newer one replaces: it has the same extents, or another entry. -/
def replacedBy (e y : AdEntry) : Bool :=
  y.cu == e.cu && y.base == e.base && y.id == e.id && ((y.k == e.k && y.n == e.n) || y.entry != e.entry)

/-- Put an adapter into its CU's cache: lines that are there stay, pinned or held as they are, and come last in the order of
use; the others are brought in. -/
def cacheAdapter (s : State) (p : Nat) (e : AdEntry) : State :=
  updPolder s p fun x =>
    let ls := (linesNeeded e e.k e.n).foldl (fun ls o =>
      let here (l : AdLine) : Bool := l.of e.cu e.base e.id && l.off == o
      match ls.find? here with
      | some l => dropFirst here ls ++ [l]
      | none => insertLine x ls ⟨e.cu, e.base, e.id, o, []⟩) x.adLines
    { x with adLines := ls
             adapters := e :: x.adapters.filter fun y => !replacedBy e y && ls.any fun l => l.of y.cu y.base y.id }

/-! ### MMA and MMAD (R101, R122 to R130, R136, R137, R397) -/

/-- Issue-time causes (R110, R121, R123); `tids` is none for MMA. -/
def mmaCheck (b : Block) (f : FmtMma) (tids : Option TileCode) : Option Cause :=
  let c := b.core
  let hd := srcRec c f.tacc
  let ha := srcRec c f.ta
  let idsOk := match tids with
    | some t => mxTileOk b t.toNat 1
    | none => true
  match mapGet c.slabs f.slab.toNat with
  | none => some .shapeInvalid
  | some x =>
    let idsFit := match tids with
      | some t => let h := srcRec c t
        decide (h.ty = .n16) && h.gr == ha.gr && h.gc == 1
      | none => true
    shapeCause (!mxTileOk b f.tacc.toNat 1 || !mxTileOk b f.ta.toNat 1 || !idsOk
        || predTooLong ⟨f.pg, false⟩ (recElems hd) false)
      (ha.ty ≠ x.ty || ha.gc ≠ x.k || hd.ty ≠ .f32 || hd.gr ≠ ha.gr || hd.gc ≠ x.n || !idsFit)

/-- The rounding of the arrays: RNE, with FZ (R101, R127). -/
def mmaEnv (fm : Word64) : FEnv := ⟨.rne, flag fm 3, false⟩

/-- An mx element is a signalling NaN: only E5M2 has them, and a scale of 0xFF makes its block's NaNs quiet (R89, R90). -/
def mxSignals (t : ElemType) (x scale : Nat) : Bool :=
  decide (scale ≠ 255) && (mxFmt t).any fun f => decide (f.val false x = .nan true)

/-- The value of an operand element with its scale code; a signalling NaN stays one (R98). -/
def operandVal (t : ElemType) (fz : Bool) (x scale : Nat) : FVal :=
  if mxSignals t x scale then .nan true else if isMx t then mxVal t x scale else ((fmtOf t).getD fmtF32).val fz x

/-- Cut a list into runs of 32 pairs. -/
def runs32 : Nat → List (FVal × FVal) → List (List (FVal × FVal))
  | 0, _ => []
  | n + 1, l => if l.isEmpty then [] else l.take 32 :: runs32 n (l.drop 32)

/-- The bound of R136 for a type. -/
def susBound : ElemType → Option Int
  | .mx8e4 => some 22 | .mx8e5 => some 36 | .mx4 => some 10 | .mxi8 => some 7 | _ => none

/-- The block sum exceeds its bound. -/
def overBound (bound : Option Int) (x : BlockSum) : Bool :=
  match bound with
  | none => false
  | some k => !x.nan && !x.pinf && !x.ninf && decide (x.m ≠ 0) && decide (k < x.e + (bitLen x.m.natAbs : Int) - 1)

/-- acc ← RNE(acc + S) for each block in order; `bound q` is that of block q (R101, R136). -/
def kdot (env : FEnv) (bound : Nat → Option Int) : Nat → List (List (FVal × FVal)) → Nat × Nat → Nat × Nat
  | _, [], acc => acc
  | q, l :: t, (acc, fl) =>
    let x := l.foldl (fun x p => x.add p.1 p.2) BlockSum.zero
    let (v, f) := addBlock fmtF32 env (fmtF32.val env.fz acc) x
    kdot env bound (q + 1) t (v, fl ||| f ||| (if overBound (bound q) x then fSUS else 0))

/-- The dot product of two vectors in blocks of 32. -/
def dotFrom (env : FEnv) (bound : Nat → Option Int) (xs ys : List FVal) (acc : Nat) : Nat × Nat :=
  kdot env bound 0 (runs32 (xs.length + 1) (xs.zip ys)) (acc, 0)

/-- No bound. -/
def noBound (_ : Nat) : Option Int := none

/-- The adapter of a row. -/
inductive RowAd where
  | base
  | ready (e : AdEntry)
  | fault (c : Cause) (va : Nat)
  | miss
  deriving DecidableEq, Repr

/-- What a row finds in the adapter cache of its CU (R128, R129). -/
def rowAdapter (s : State) (id : BlkId) (b : Block) (i k n : Nat) : RowAd :=
  if i = 0 then .base
  else if 2 ^ adtLog b.adtBase ≤ i then .fault .adapterFault (adtEntry b.adtBase i)
  else match findAdapter s id.p ((b.place.map Prod.fst).getD 0) (adtBaseVa b.adtBase) i k n with
    | some e => .ready e
    | none => .miss

/-- Row i of MMAD's u: f32 bits and flags (R127). -/
def adapterU (env : FEnv) (e : AdEntry) (f : AdFields) (row : List FVal) : List Nat × Nat :=
  let g := (fmtOf f.ty).getD fmtF32
  let us := (upTo f.r).map fun q =>
    dotFrom env noBound row ((upTo row.length).map fun k => g.val env.fz (packedElem f.ty e.la (k * f.r + q))) 0
  (us.map Prod.fst, us.foldl (fun a u => a ||| u.2) 0)

/-- The adapter term added to a base value (R127). -/
def adapterAdd (env : FEnv) (e : AdEntry) (f : AdFields) (us : List Nat) (j : Nat) (base : Nat × Nat) : Nat × Nat :=
  let g := (fmtOf f.ty).getD fmtF32
  let col := (upTo f.r).map fun q => g.val env.fz (packedElem f.ty e.lb (q * e.n + j))
  let v := dotFrom env noBound (us.map (fmtF32.val env.fz)) col 0
  let w := fMul fmtF32 env (fmtF32.val env.fz f.alpha) (fmtF32.val env.fz v.1)
  let r := fAdd fmtF32 env (fmtF32.val env.fz base.1) (fmtF32.val env.fz w.1)
  (r.1, base.2 ||| v.2 ||| w.2 ||| r.2)

/-- The rows of tacc with an active element. -/
def mmaRows (c : Core) (f : FmtMma) : List Nat :=
  let h := srcRec c f.tacc
  ((activeIx c ⟨f.pg, false⟩ (recElems h)).map fun e => e / h.gc).eraseDups

/-- The record of an MMA or MMAD at pc: the one in progress, or a new one. -/
def mmadOf (b : Block) (rows : List Nat) : MmadProg :=
  let new : MmadProg := ⟨b.pc, bitsOf rows, 0, [], 0, 0, [], [], [], [], [], [], b.core.copies⟩
  match b.mmad with
  | some m => if m.pc = b.pc then m else new
  | none => new

/-- The rows that the instruction still has to do: those not in tacc (R130, R131). -/
def rowsLeft (b : Block) (rows : List Nat) : List Nat := rows.filter fun r => !bit (mmadOf b rows).done r

/-- The marks that a row's ta, Tids and slab columns carry, and its dead operands (R397), at the first active element. -/
def rowHits (c : Core) (x : Slab) (a d : Src) (ids : Option Src) (row : Nat) (els : List Nat) : List Hit :=
  let first := els.headD 0
  let chunks := ((upTo a.rc.gc).filter fun k => k * typeWidth a.rc.ty % 512 == 0).map fun k => row * a.rc.gc + k
  let ma := chunks.filterMap fun i => (a.mark i).map fun m => { markHit a i m with lin := first }
  let mi := match ids with
    | some t => ((t.mark row).map fun m => { markHit t row m with lin := first }).toList
    | none => []
  let ms := els.flatMap fun e => (x.marks.filter fun y => y.1 % 128 == e % d.rc.gc).map fun y => markHit d e y.2
  let da := if deadReads c ∧ a.dead (row * a.rc.gc) then [{ deadHit a (row * a.rc.gc) with lin := first }] else []
  let di := match ids with
    | some t => if deadReads c ∧ t.dead row then [{ deadHit t row with lin := first }] else []
    | none => []
  ma ++ mi ++ ms ++ da ++ di ++ readHits c (els.map fun e => (e, [(d, e)])) true

/-- The results of a row. -/
def rowResults (c : Core) (x : Slab) (a d : Src) (row : Nat) (els : List Nat) (ad : RowAd) : List Res :=
  let env := mmaEnv c.fmode
  let ty := a.rc.ty
  let k := a.rc.gc
  let av := (upTo k).map fun i => operandVal ty env.fz (a.get (row * k + i)) (a.scale row (i / 32))
  let ext := match ad with
    | .ready e => (adFields e.entry).map fun f => (e, f, adapterU env e f av)
    | _ => none
  els.map fun el =>
    let j := el % d.rc.gc
    let bv := (upTo k).map fun i =>
      operandVal ty env.fz (mapNat x.elems (i * 128 + j)) (mapNat x.scales (i / 32 * 128 + j))
    let bound (q : Nat) : Option Int := (susBound ty).map fun z =>
      z + (a.scale row q : Int) - 127 + (mapNat x.scales (q * 128 + j) : Int) - 127
    let base := dotFrom env bound av bv (d.get el)
    let (v, fl) := match ext with
      | some (e, f, us, fu) => let r := adapterAdd env e f us j base
        (r.1, r.2 ||| fu)
      | none => base
    ⟨el, v, none, fl⟩

/-- tacc as it was before the rows that pre-emptions have left in it (R397). -/
def undoRows (b : Block) (m : MmadProg) : Block :=
  { b with core := { b.core with tiles := m.orig.foldl (fun v t => vset v t.1 t.2) b.core.tiles }, mmad := none, prog := [] }

/-- The slab that an instruction names. -/
def slabOf (c : Core) (f : FmtMma) : Slab := (mapGet c.slabs f.slab.toNat).getD ⟨.f16, 0, 0, 1, [], [], [], false⟩

/-- The active elements of a row of tacc. -/
def rowEls (c : Core) (f : FmtMma) (row : Nat) : List Nat :=
  let h := srcRec c f.tacc
  (activeIx c ⟨f.pg, false⟩ (recElems h)).filter fun e => e / h.gc == row

/-- The end of MMA and MMAD: an ADAPTER_FAULT leaves the rows below it written and those at and above it as they were (R130),
any other cause no row. The flags are those of the rows that count, whenever they have finished (R108, R109). -/
def concludeMma (s : State) (id : BlkId) (b : Block) (f : FmtMma) (m : MmadProg) (hits : List Hit) (rs : List Res) (k : Out) : Out :=
  match pickHit hits with
  | some (x, more) =>
    let h := srcRec b.core f.tacc
    if x.cause = .adapterFault then
      let row := x.lin / h.gc
      let x0 := tileSrc b.core f.tacc.toNat
      let done := ((upTo row).filter (bit m.done)).flatMap fun r => (rowEls b.core f r).map fun e => (⟨e, x0.get e, none, 0⟩ : Res)
      let below := done ++ rs.filter fun r => decide (r.lin / h.gc < row)
      let c := orFlags (writeTile (undoRows b m).core f.tacc.toNat h false below [])
        (flagsUpTo row (m.flags.map fun e => (e.1 + 1, e.2)) ||| unionFlags below)
      let m' := { m with done := 2 ^ row - 1, flags := [], orig := [] }
      .next (takeTrapAs s id { b with core := c, mmad := some m', prog := [Progress.count row] }
        (elemTrap x.cause false more x.coord x.addr) row .at)
    else conclude s id (undoRows b m) false hits (allFlags m.flags ||| unionFlags rs) k
  | none => k

/-- The causes of a row apart from its adapter. -/
def mmaHits (c : Core) (f : FmtMma) (tids : Option TileCode) (row : Nat) : List Hit :=
  rowHits c (slabOf c f) (tileSrc c f.ta.toNat) (tileSrc c f.tacc.toNat) (tids.map fun t => tileSrc c t.toNat) row (rowEls c f row)

/-- The id of a row; 0 for MMA, and for a row with causes of its own. -/
def rowId (c : Core) (f : FmtMma) (tids : Option TileCode) (row : Nat) : Nat :=
  match tids with
  | some t => if (mmaHits c f tids row).isEmpty then (tileSrc c t.toNat).get row else 0
  | none => 0

/-- A row finishes with its adapter. -/
def MmadProg.finish (m : MmadProg) (c : Core) (f : FmtMma) (tids : Option TileCode) (row : Nat) (ad : RowAd) : MmadProg :=
  let rs := if (mmaHits c f tids row).isEmpty then
    rowResults c (slabOf c f) (tileSrc c f.ta.toNat) (tileSrc c f.tacc.toNat) row (rowEls c f row) ad else []
  let bad := rs.isEmpty || unionFlags rs &&& fld c.fmode 14 8 != 0
  { m with rows := setBit m.rows row true, fin := m.fin ++ rs.map fun r => (r.lin, r.val, r.flags),
           bad := if bad then setBit m.bad row true else m.bad, gain := if bad then m.gain else mapPut m.gain row (unionFlags rs) }

/-- A row goes on with what it found: it finishes, holding the lines it uses, it faults, or it is deferred (R129). -/
def MmadProg.step (m : MmadProg) (c : Core) (f : FmtMma) (tids : Option TileCode) (row : Nat) (ad : RowAd) : MmadProg :=
  match ad with
  | .base => m.finish c f tids row ad
  | .ready e => { (m.finish c f tids row ad) with held := if m.held.contains e.id then m.held else m.held ++ [e.id] }
  | .fault x va => { m with faults := m.faults ++ [(row, x, va)] }
  | .miss => m

/-- The results of the finished rows. -/
def MmadProg.results (m : MmadProg) : List Res := m.fin.map fun e => ⟨e.1, e.2.1, none, e.2.2⟩

/-- The rows that have ended, finished or not. -/
def MmadProg.ended (m : MmadProg) : Nat := m.faults.foldl (fun x e => setBit x e.1 true) m.rows

/-- tacc with the finished rows that meet no cause, for a save, and tacc without them (R131, R397). -/
def MmadProg.stand (m : MmadProg) (c : Core) (f : FmtMma) : MmadProg :=
  let h := srcRec c f.tacc
  let c' := writeTile c f.tacc.toNat h false (m.results.filter fun r => !bit m.bad (r.lin / h.gc)) []
  { m with part := [(f.tacc.toNat, getTile c' f.tacc.toNat)], copies := c'.copies,
           orig := if m.orig = [] then [(f.tacc.toNat, getTile c f.tacc.toNat)] else m.orig }

/-- The lines of the rows' adapters are used. -/
def touchRows (s : State) (id : BlkId) (k n : Nat) (l : List (Nat × RowAd)) : State :=
  l.foldl (fun s x => match x.2 with
    | .ready e => touchLines s id.p e.cu e.base e.id (linesNeeded e k n)
    | _ => s) s

/-- All rows have ended: the causes decide, or tacc is written. -/
def mmaEnd (s : State) (id : BlkId) (b : Block) (f : FmtMma) (tids : Option TileCode) (rows : List Nat) (m : MmadProg) : Out :=
  let c := b.core
  let h := srcRec c f.tacc
  let faults := m.faults.filterMap fun (r, e, va) => tids.map fun t =>
    (⟨(rowEls c f r).headD 0, e, none, coordOf t.toNat r 0 r, va⟩ : Hit)
  let rs := m.results
  let hits := (rows.flatMap (mmaHits c f tids)) ++ faults ++ fpHits c.fmode h f.tacc.toNat rs
  concludeMma s id b f m hits rs
    (let c' := orFlags (writeTile c f.tacc.toNat h false rs []) (allFlags m.flags ||| unionFlags rs)
    finish s id { b with mmad := none, mmadRows := 0, core := c', adHeld := m.held })

/-- MMA and MMAD: every row that has not ended looks its adapter up; the rows that miss are deferred (R129). -/
def mmaOp (f : FmtMma) (tids : Option TileCode) (s : State) : Out :=
  withBlock s fun id b =>
    match (if inHandler b then some .illegalInstr else mmaCheck b f tids) with
    | some c => raiseAt s id b c false 0
    | none =>
      let c := b.core
      let x := slabOf c f
      let all := mmaRows c f
      let rows := rowsLeft b all
      let look := (rows.filter fun r => !bit b.mmadRows r).map fun r => (r, rowAdapter s id b (rowId c f tids r) x.k x.n)
      let m := look.foldl (fun m e => m.step c f tids e.1 e.2) (mmadOf b all)
      let s1 := touchRows s id x.k x.n look
      if look.any fun e => decide (e.2 = .miss) then
        .next (setBlock s1 id { b with waiting := true, mmad := some (m.stand c f), mmadRows := m.ended })
      else mmaEnd s1 id b f tids rows m

/-- MMA (R123). -/
def execMma (f : FmtMma) (s : State) : Out := mmaOp f none s
/-- MMAD (R127). -/
def execMmad (f : FmtMma) (tids : TileCode) (s : State) : Out := mmaOp f (some tids) s

/-! ### Adapter maintenance (R133 to R135, R344, R345, R351) -/

/-- The extents of a recorded id are replaced in place (R351). -/
def repinned (l : List (Nat × Nat × Nat)) (i k n : Nat) : List (Nat × Nat × Nat) := mapIf (fun x => x.1 == i) (fun _ => (i, k, n)) l

/-- The pin record after a pin has been set: at most 64 ids, in order of pinning (R131, R351). -/
def addPin (l : List (Nat × Nat × Nat)) (i k n : Nat) : List (Nat × Nat × Nat) :=
  if l.any fun x => x.1 == i then repinned l i k n
  else if l.length < 64 then l ++ [(i, k, n)] else l

/-- A context gives up its pins of the lines that a test names. -/
def unpinLines (s : State) (p ctx : Nat) (named : AdLine → Bool) : State :=
  updPolder s p fun x => { x with adLines := mapIf named (fun l => { l with pins := l.pins.filter (· != ctx) }) x.adLines }

/-- Pinned lines of a line's set. -/
def pinnedWays (ls : List AdLine) (l : AdLine) : Nat :=
  (ls.filter fun y => y.cu == l.cu && !y.pins.isEmpty && y.set == l.set).length

/-- A pin of some lines of an adapter would exceed 12 pinned ways in a set (R128). -/
def pinFull (ls : List AdLine) (cu base i : Nat) (offs : List Nat) : Bool :=
  let new := ls.filter fun l => l.of cu base i && offs.contains l.off && l.pins.isEmpty
  let after := mapIf (fun l => new.contains l) (fun l => { l with pins := [0] }) ls
  decide (12 < (ls.filter fun y => y.cu == cu && !y.pins.isEmpty).length + new.length) && new.any fun l => decide (12 < pinnedWays after l)

/-- Pin the cached lines of an adapter for a context, if they are there and their sets have room. -/
def pinAdapter (s : State) (p cu base ctx i k n : Nat) : Option State :=
  match findAdapter s p cu base i k n with
  | none => none
  | some e =>
    let offs := linesNeeded e k n
    if pinFull (getPolder s p).adLines cu base i offs then none
    else some (updPolder s p fun x =>
      { x with adLines := mapIf (fun l => l.of cu base i && offs.contains l.off && !l.pins.contains ctx)
                            (fun l => { l with pins := l.pins ++ [ctx] }) x.adLines })

/-- The CU of a block. -/
def cuOf (b : Block) : Nat := (b.place.map Prod.fst).getD 0

/-- Prefetch an adapter: it is there, it could not be fetched (R133), or the causeways or the GEN check are awaited. -/
def prefetch (s : State) (id : BlkId) (b : Block) (i k n : Nat) (go : State → Block → Out) : Out :=
  if 2 ^ adtLog b.adtBase ≤ i then go s b
  else match findAdapter s id.p (cuOf b) (adtBaseVa b.adtBase) i k n with
    | some e => go (touchLines s id.p e.cu e.base e.id (linesNeeded e k n)) b
    | none => fetchFor s id { b with waiting := true, begun := true } i k n
        (fun b' e => go (cacheAdapter s id.p e) b') (fun b' _ _ => go s b')

/-- Pin for a block after its prefetch, recording the pin once it is set (R351). -/
def pinFor (s : State) (id : BlkId) (b : Block) (i k n : Nat) : State × Block :=
  match pinAdapter s id.p (cuOf b) (adtBaseVa b.adtBase) id.ctx i k n with
  | some s' => (s', { b with pins := addPin b.pins i k n })
  | none => (s, b)

/-- Before a block that has been resumed issues, the adapters that its context records are fetched and pinned again, in the
order of the record (R131, R351). One that cannot be fetched or pinned is passed over: a pin changes no result. -/
def repinNext (s : State) (id : BlkId) (b : Block) : Out :=
  match b.repins with
  | [] => .next s
  | (i, k, n) :: rest =>
    let next (s : State) (b : Block) : Out := .next (setBlock s id { b with repins := rest })
    let pin (s : State) (b : Block) : Out :=
      next ((pinAdapter s id.p (cuOf b) (adtBaseVa b.adtBase) id.ctx i k n).getD s) b
    match findAdapter s id.p (cuOf b) (adtBaseVa b.adtBase) i k n with
    | some _ => pin s b
    | none => fetchFor s id b i k n (fun b' e => pin (cacheAdapter s id.p e) b') (fun b' _ _ => next s b')

/-- APRE (R133, R351). -/
def execApre (a e : RegNo) (k : ApreOp) (s : State) : Out :=
  withBlock s fun id b =>
    let c := b.core
    unlessMarked s id b true [rmark c.am a, rmark c.am e]
      (let i := fld (rget c.a a) 15 0
      let kk := fld (rget c.a e) 15 0
      let n := fld (rget c.a e) 31 16
      let base := adtBaseVa b.adtBase
      if i = 0 then finish s id b
      else match k with
        | .fetch => prefetch s id b i kk n fun s b => finish s id { b with pins := repinned b.pins i kk n }
        | .pin => prefetch s id b i kk n fun s b =>
            let (s1, b1) := pinFor s id { b with pins := repinned b.pins i kk n } i kk n
            finish s1 id b1
        | .unpin => finish (unpinLines s id.p id.ctx fun l => l.of (cuOf b) base i) id { b with pins := b.pins.filter fun x => x.1 != i })

/-- An MMAD of another block of the polder holds lines of this table, of ids that are named (R134). -/
def linesHeld (s : State) (id : BlkId) (base : Nat) (named : Nat → Bool) : Bool :=
  (getPolder s id.p).blocks.any fun e =>
    e.1 != id.ctx && adtBaseVa e.2.adtBase == base && e.2.holdsIds.any named

/-- AINV (R134, R345): `which` is none for .all. -/
def ainvOp (s : State) (id : BlkId) (b : Block) (which : Option Nat) : Out :=
  let base := adtBaseVa b.adtBase
  let named (i : Nat) : Bool := match which with
    | some k => i == k
    | none => true
  if linesHeld s id base named then holdOn s id b
  else
    let unpin (y : Block) : Block :=
      if adtBaseVa y.adtBase == base then { y with pins := y.pins.filter fun p => !named p.1 } else y
    let s1 := updPolder s id.p fun x =>
      let ads := x.adapters.filter fun e => !(e.base == base && named e.id)
      let ls := x.adLines.filter fun l => !(l.base == base && named l.id)
      { x with adapters := ads, adLines := ls, blocks := x.blocks.map fun e => (e.1, unpin e.2) }
    finish s1 id { b with pins := b.pins.filter fun p => !named p.1 }

/-- AINV of one id. -/
def execAinv (a : RegNo) (s : State) : Out :=
  withBlock s fun id b =>
    unlessMarked s id b true [rmark b.core.am a] (ainvOp s id b (some (fld (rget b.core.a a) 15 0)))

/-- AINV.all. -/
def execAinvAll (s : State) : Out := withBlock s fun id b => ainvOp s id b none

/-- ADTB (R135, R344). -/
def execAdtb (b_ l : RegNo) (s : State) : Out :=
  withBlock s fun id b =>
    let c := b.core
    unlessMarked s id b true [rmark c.am b_, rmark c.am l]
      (let base := rget c.a b_
      if fld base 4 0 ≠ 0 ∨ fld base 63 55 ≠ 0 then raiseAt s id b .misalign true base.toNat
      else
        let v := BitVec.ofNat 64 ((fld base 54 5 <<< 5) + (fld (rget c.a l) 4 0 <<< 59))
        finish s id (nonRewindable { b with adtBase := v }))

end Sys2Proof.Machine
end

