-- ==== Sys2Proof/Machine/BlockEvents.lean ====
section
/-! DEFINITION. The events of one block: feed elements (R51, R52), QUEUE_DEADLOCK (R50), pre-emption and slice expiry
(R234, R252), strip rewind (R262), traps (R247), user interrupts (R221), barrier phases (R353), the adapter rows of MMAD
(R129) and an access into a lost polder (R269). -/

namespace Sys2Proof.Machine

/-- An event that is not enabled leaves the machine as it is (log 3). -/
def unchanged (s : State) : Out := .next s

/-! ### The halves (R43) -/

/-- The halves that execute a word. -/
inductive Half where
  | access | execute | both
  deriving DecidableEq, Repr

/-- The half of an instruction word by its fields (R43). -/
def halfOfFields (f : Fields) : Half :=
  let m := f.major.toNat
  let bySide : Half := if f.b25 then .access else .execute
  if m = 0x02 ∨ (0x08 ≤ m ∧ m ≤ 0x0F) then bySide
  else if m = 0x10 then .execute
  else if m = 0x07 then bySide
  else if m = 0x13 then (if f.fn6.toNat = 3 ∨ f.fn6.toNat = 4 then .execute else .both)
  else if (0x14 ≤ m ∧ m ≤ 0x1C) ∨ m = 0x1E ∨ m = 0x1F ∨ m = 0x2A ∨ m = 0x2F then .access
  else if (0x20 ≤ m ∧ m ≤ 0x29) ∨ m = 0x2B ∨ m = 0x2D ∨ m = 0x2E then .execute
  else .both

/-- The half of a word. -/
def halfOf (w : Word32) : Half := halfOfFields (Fields.ofWord w)

/-- TCAUSE.HALF of a trap at a word (R85): the half that owns it, and where both do, a free value (log 20). -/
def halfBit (b : Block) (w : Word32) : Bool :=
  match halfOf w with
  | .access => true
  | .execute => false
  | .both => jointSide b

/-- TCAUSE.HALF of a trap at the pc that either half may raise. -/
def halfAt (s : State) (id : BlkId) (b : Block) : Bool :=
  match fetchAt s id b b.pc with
  | .word w => halfBit b w
  | _ => jointSide b

/-- QUEUE_DEADLOCK (R50): at the earlier of the two waiting instructions, where the model stands. -/
def execQueueDeadlock (s : State) : Out :=
  withBlock s fun id b =>
    if b.stuck then raiseAt s id b .queueDeadlock (halfAt s id b) 0 else unchanged s

/-! ### Feeds (R51, R52) -/

/-- The indices of element number n, i0 fastest. -/
def feedIndex : Nat → List Nat → List Nat
  | _, [] => []
  | n, e :: t => n % e :: feedIndex (n / e) t

/-- The address of the next element, as a 64-bit number. -/
def Feed.addr (f : Feed) : Nat :=
  ofInt 64 (((feedIndex f.pos f.ext).zip f.stride).foldl (fun a x => a + (x.1 : Int) * x.2) (f.base : Int))

/-- Room that a feed may fill: the capacity, or more for an instruction that streams (R45, R46). -/
def feedLimit (b : Block) (k : Nat) : Nat :=
  let gc := (recN b.core (vget 0 b.core.bindL k)).gc
  b.need.foldl (fun m e => if e.1 = k then Nat.max m e.2 else m) (8 * gc)

/-- A feed may load its next element. -/
def feedReady (b : Block) (k : Nat) : Bool :=
  let x := vget ⟨none, none, true⟩ b.core.feeds k
  b.status == .resident && x.armed && (match x.cur with
    | some f => f.fault.isNone && !f.sizeBad
    | none => false) && decide ((vget ⟨[], 0⟩ b.core.lq k).elems.length < feedLimit b k)

/-- Replace the current feed of a queue, whose load has ended. -/
def setFeed (b : Block) (k : Nat) (f : Feed) : Block :=
  let x := vget ⟨none, none, true⟩ b.core.feeds k
  { b with waiting := false, feedDone := b.feedDone.filter fun e => e.1 != k, core := { b.core with feeds := vset b.core.feeds k (FeedSlot.settle { x with cur := some f }) } }

/-- FEED_ELEMENT_LOAD (R51, R52): one element, under the rules for loads; a fault is kept until the element is popped. -/
def execFeedElementLoad (k : BitVec 2) (s : State) : Out :=
  withBlock s fun id b =>
    if feedReady b k.toNat = false then unchanged s
    else match (vget ⟨none, none, true⟩ b.core.feeds k.toNat).cur with
    | none => unchanged s
    | some f =>
      let ty := (recN b.core (vget 0 b.core.bindL k.toNat)).ty
      if isMx ty ∨ typeWidth ty = 4 then .next (setBlock s id (setFeed b k.toNat { f with sizeBad := true }))
      else
        let size := typeWidth ty / 8
        let va := f.addr
        let acc := blockAcc s id b
        let keep (c : Cause) : Out := .next (setBlock s id (setFeed b k.toNat { f with fault := some (c, va) }))
        match elemProbe s acc needRd va size with
        | .error c => keep c
        | .ok w =>
          let els : List LoadEl := [⟨va, w, size⟩]
          match loadDrain s id b els with
          | .wait s1 b1 r => .next (askAll (setBlock s1 id b1) (blockReq id) r)
          | .down s1 b1 x c => raiseAt s1 id b1 c true x
          | .done s1 b1 => match loadEls s1 { b1 with remDone := (b1.feedDone.filter fun e => e.1 == k.toNat).map Prod.snd } els with
            | .wait r => .next (askAll (setBlock s1 id b1) (.feed id.p id.ctx k.toNat) r)
            | .fails l => keep ((l.map Prod.snd).headD .sluiceDown)
            | .done vs =>
              let (v, m) := vs.headD (0, none)
              let q := (vget ⟨[], 0⟩ b1.core.lq k.toNat).push [⟨v, m⟩]
              let b2 := { b1 with core := { b1.core with lq := vset b1.core.lq k.toNat q } }
              .next (setBlock (fillEls s1 acc els) id (setFeed (afterLoad els b2) k.toNat { f with pos := f.pos + 1 }))

/-! ### Pre-emption (R234, R252) -/

/-- Every cluster of a task, in every polder, is pre-empted: a persistent launch yields only as a whole (R41). -/
def saveTask (s : State) (creator handle : Nat) : State :=
  (upTo 16).foldl (fun s p => (getPolder s p).clusters.foldl (fun s c =>
    if c.creator == creator && c.handle == handle && c.resident then saveCluster s p c.cid else s) s) s

/-- Pre-empt a cluster, or all of its launch where that is persistent. -/
def preempt (s : State) (p : Nat) (c : Cluster) : State :=
  match getTask s c.creator c.handle with
  | some t => if t.pers then saveTask s c.creator c.handle else saveCluster s p c.cid
  | none => saveCluster s p c.cid

/-- PREEMPTION (R252): the scheduler's request stops and saves the block's cluster. -/
def execPreemption (s : State) : Out :=
  withBlock s fun id b =>
    match clusterOf s id.p b.cid with
    | some c => if c.resident then .next (preempt s id.p c) else unchanged s
    | none => unchanged s

/-- Every member of a cluster is at rest: none has still to complete an instruction (R252). -/
def atRest (s : State) (p : Nat) (c : Cluster) : Bool :=
  c.ctxs.all fun x => match getBlock s ⟨p, x⟩ with
    | some b => !b.begun
    | none => true

/-- The cluster waits for slots (R234). -/
def clusterWaits (s : State) (p : Nat) (c : Cluster) : Bool :=
  !c.resident && !c.suspended && (match getTask s c.creator c.handle with
    | some t => t.ended.isNone
    | none => false) && (c.ctxs.isEmpty || c.ctxs.any fun x => match getBlock s ⟨p, x⟩ with
    | some b => b.status != .halted
    | none => false) && atRest s p c

/-- Priority of a cluster's task. -/
def clusterPrio (s : State) (c : Cluster) : Nat := match getTask s c.creator c.handle with
  | some t => t.prio
  | none => 0

/-- TIME_SLICE_EXPIRY (R234): the block's cluster has used its QSLICE; it yields if one of equal priority waits. -/
def execTimeSliceExpiry (s : State) : Out :=
  withBlock s fun id b =>
    match clusterOf s id.p b.cid with
    | none => unchanged s
    | some c =>
      if c.resident && (getPolder s id.p).clusters.any fun d =>
          clusterWaits s id.p d && clusterPrio s d == clusterPrio s c
      then .next (preempt s id.p c)
      else unchanged s

/-! ### Rewind and traps -/

/-- STRIP_REWIND (R261, R262): a consumption of the mark at the pc rewinds the strip, or traps where R263 says so. -/
def execStripRewind (m : Mark) (s : State) : Out := withBlock s fun id b => consumeMark s id b m (halfAt s id b) 0

/-- TRAP_TAKEN (R247). -/
def execTrapTaken (t : TrapInfo) (s : State) : Out := withBlock s fun id b => raise s id b t

/-- SLUICE_DOWN (R269): the access at the pc ends with this cause. -/
def execSluiceDown (va : Word64) (s : State) : Out :=
  withBlock s fun id b => raiseAt s id b .sluiceDown (halfAt s id b) va.toNat

/-! ### User interrupts (R221) -/

/-- An interrupt can be taken at this boundary (R220, R221). Convoy members are no boundary. -/
def interruptReady (b : Block) : Bool :=
  b.status == .resident && flag b.uistat 0 && b.uien && !flag b.uistat 2 && fld b.uivec 54 2 != 0
    && b.convoy == 0 && b.openW.isEmpty && !b.skipC && !b.holding && !b.begun && b.prog.isEmpty && b.mmad.isNone

/-- USER_INTERRUPT_ENTRY (R221): entry is an acquire, and the strip is no longer rewindable (R262). -/
def execUserInterruptEntry (s : State) : Out :=
  withBlock s fun id b =>
    if interruptReady b then
      let b1 := swapShadow b
      .next (setBlock s id (nonRewindable
        { b1 with uistat := (b1.uistat &&& ~~~(1 : Word64)) ||| 4, uiret := b.pc, pc := fld b.uivec 54 2 * 4, recheck := [], prog := [] }.quiet))
    else unchanged s

/-! ### Barriers (R353) -/

/-- Every member of the cluster has arrived in the current phase, and some member has not halted. -/
def phaseReady (s : State) (p : Nat) (c : Cluster) (k : BitVec 3) : Bool :=
  let n := vget 0 c.phases k.toNat + 1
  let ms := c.ctxs.filterMap fun x => getBlock s ⟨p, x⟩
  (ms.all fun b => b.status == .halted || decide (n ≤ madeAt b k)) && ms.any fun b => b.status != .halted

/-- BARRIER_PHASE_COMPLETE (R353): the phase completes, and its waiters go on. -/
def execBarrierPhaseComplete (k : BitVec 3) (s : State) : Out :=
  withBlock s fun id b =>
    match clusterOf s id.p b.cid with
    | none => unchanged s
    | some c =>
      if phaseReady s id.p c k then
        let s1 := updCluster s id.p c.cid fun c => { c with phases := vset c.phases k.toNat (vget 0 c.phases k.toNat + 1) }
        .next (c.ctxs.foldl (fun s x => updBlock s ⟨id.p, x⟩ setEvent) s1)
      else unchanged s

/-! ### Adapter rows (R129) -/

/-- The MMAD at which a block waits, with the id of one of its rows that misses and its slab. -/
def missingRow (s : State) (id : BlkId) (b : Block) (row : Nat) : Option (FmtMma × TileCode × Nat × Slab) :=
  match fetchAt s id b b.pc with
  | .word w => match decode w with
    | .ok (.mmad f t) => match mapGet b.core.slabs f.slab.toNat with
      | some x =>
        if (mmaCheck b f (some t)).isNone && (rowsLeft b (mmaRows b.core f)).contains row && !bit b.mmadRows row then
          let i := rowId b.core f (some t) row
          if rowAdapter s id b i x.k x.n = .miss then some (f, t, i, x) else none
        else none
      | none => none
    | _ => none
  | _ => none

/-- The rows of a waiting MMAD that miss. -/
def missingRows (s : State) (id : BlkId) (b : Block) : List Nat :=
  (upTo 256).filter fun r => (missingRow s id b r).isSome

/-- ADAPTER_ROW_FETCH (R128, R129): the data of a deferred row are fetched, and the row is replayed alone with what that one
fetch brought (R329), or its fetch faults. -/
def execAdapterRowFetch (row : BitVec 8) (s : State) : Out :=
  withBlock s fun id b =>
    match missingRow s id b row.toNat with
    | none => unchanged s
    | some (f, t, i, x) =>
      if b.status ≠ .resident then unchanged s else
      let put (s : State) (b : Block) (ad : RowAd) : Out :=
        let m := ((mmadOf b (mmaRows b.core f)).step b.core f (some t) row.toNat ad).stand b.core f
        .next (setBlock s id { b with mmad := some m, mmadRows := m.ended, waiting := false })
      fetchFor s id b i x.k x.n (fun b e => put (cacheAdapter s id.p e) b (.ready e)) fun b c va => put s b (.fault c va)

end Sys2Proof.Machine
end

