-- ==== Sys2Proof/Machine/CardEvents.lean ====
section
/-! DEFINITION. The engines at work: the start of cards (R187, R192, R219), their completion (R189, R207, R211, R213,
R221), NVMe commands and completions (R191, R219), and changes of the queue-pair table (R217). -/

namespace Sys2Proof.Machine

/-! ### Edges between cards -/

/-- A later card must wait for an earlier one on its regions (R187). -/
def regionEdge (late early : Card) : Bool :=
  runsOverlap late.rdPa early.wrPa || runsOverlap late.wrPa early.rdPa || runsOverlap late.wrPa early.wrPa

/-- The cards that were accepted before a card. -/
def cardsBefore (x : Polder) (n : Nat) : List Card := x.cards.takeWhile fun c => c.num != n

/-- The block ranges in the list of a Dataset Management card (R218): sixteen bytes each, in NVMe format. -/
def dsmRanges (bs : List Byte) : Nat → List (Nat × Nat)
  | 0 => []
  | n + 1 => (leNat ((bs.drop 8).take 8), leNat ((bs.drop 4).take 4)) :: dsmRanges (bs.drop 16) n

/-- The list of a Dataset Management card as memory holds it, once no earlier card may still write it; none before, or while
it cannot be read. -/
def listedRanges (s : State) (x : Polder) (c : Card) : Option (List (Nat × Nat)) :=
  if (cardsBefore x c.num).any (regionEdge c) then none
  else match readPaPieces s c.rem (paPieces c.rdPa (cSrc c.data) (16 * (field (cdw c.data 5) 7 0 + 1))) with
    | .ok bs _ => some (dsmRanges bs (field (cdw c.data 5) 7 0 + 1))
    | _ => none

/-- The block ranges of a card on its namespace, with whether it writes them (R192, R218). A Dataset Management card may
touch any block of its namespace until its list can be read. -/
def lbaRanges (s : State) (x : Polder) (c : Card) : List (Nat × Nat) × Bool :=
  let d := c.data
  if cKind d ≠ 5 then ([], false)
  else match cOpc d with
    | 1 => ([(cSlba d, cNlb d + 1)], true)
    | 2 => ([(cSlba d, cNlb d + 1)], false)
    | 9 => (if c.started then c.ranges else (listedRanges s x c).getD [(0, 2 ^ 65)], true)
    | _ => ([], false)

/-- A later card must wait for an earlier one on its namespace (R192). -/
def lbaEdge (s : State) (x : Polder) (late early : Card) : Bool :=
  let (l, w) := lbaRanges s x late
  let (e, v) := lbaRanges s x early
  cNsid late.data == cNsid early.data && (w || v) && l.any fun a => e.any fun b => overlaps a.1 a.2 b.1 b.2

/-- No earlier card holds a card back. -/
def edgesFree (s : State) (x : Polder) (c : Card) : Bool :=
  (cardsBefore x c.num).all fun e => !regionEdge c e && !lbaEdge s x c e

/-! ### NVMe commands (R219) -/

/-- The card has an NVMe pair. -/
def onPair (c : Card) (k : Nat) : Bool := cKind c.data == 5 && cQp c.data == k

/-- The pair can take a command: its tail slot is free and one slot stays empty. -/
def pairRoom (x : Polder) (q : QueuePair) (k : Nat) : Bool :=
  let busy := x.cards.filterMap fun c => if onPair c k then c.slot else none
  !busy.contains q.tail && decide (busy.length + 1 < qpDepth q)

/-- A card can start (R187, R192, R219): nothing holds it back, and on its pair nothing that only a full queue holds. -/
def canStart (s : State) (p : Nat) (c : Card) : Bool :=
  let x := getPolder s p
  let k := cQp c.data
  !c.started && edgesFree s x c
    && (cKind c.data != 5 || (pairRoom x (getQp s p k) k
      && (cardsBefore x c.num).all fun e => e.started || !onPair e k || !edgesFree s x e))

/-- Bus address of a PA of the polder, by BAR4 of virtual function 8p (R21, R219). -/
def busAddr (s : State) (p pa : Nat) : Nat :=
  ofInt 64 ((s.dev.vfBar4.toNat : Int) + 8 * p * s.dev.vfBar4Size.toNat + (pa : Int) - p * polderBytes)

/-- An SGL descriptor: address, length, type in the high nibble of its last byte (NVMe Base). -/
def sglDesc (addr len ty : Nat) : List Byte := leBytes 8 addr ++ leBytes 4 len ++ leBytes 4 (ty <<< 28)

/-- The runs of a card's buffer. -/
def bufferRuns (c : Card) (blk : Nat) : List PaRun :=
  match nvmeBuffer blk c.data with
  | none => []
  | some (va, n) =>
    let l := if isNvRead c.data && cDcomp c.data == 0 then c.wrPa else c.rdPa
    joinRuns (l.filter fun r => decide (va ≤ r.va) && decide (r.va < va + n))

/-- CDW10 to CDW12 of a command (NVM Command Set). -/
def cmdDwords (d : Nat) : List Byte :=
  match cOpc d with
  | 1 | 2 => leBytes 8 (cSlba d) ++ leBytes 4 (cNlb d)
  | 9 => leBytes 4 (field (cdw d 5) 7 0) ++ leBytes 4 (field (cdw d 5) 10 8) ++ leBytes 4 0
  | _ => leBytes 12 0

/-- Start an NVMe card: the command is built in the tail slot, and the tail doorbell is rung. -/
def startNvme (s : State) (p : Nat) (c : Card) : State :=
  let k := cQp c.data
  let q := getQp s p k
  let slot := q.tail
  let runs := bufferRuns c (qpBlock q)
  let sgl := qpSq q + 64 * qpDepth q + 4096 * slot
  let descs := runs.flatMap fun r => sglDesc (busAddr s p r.pa) r.len 0
  let one := decide (runs.length ≤ 1)
  let dptr := if runs.isEmpty then leBytes 16 0 else if one then descs else sglDesc (busAddr s p sgl) (16 * runs.length) 3
  let cmd := leBytes 4 (cOpc c.data + (1 <<< 14) + (slot <<< 16)) ++ leBytes 4 (cNsid c.data) ++ leBytes 16 0 ++ dptr
    ++ cmdDwords c.data ++ leBytes 12 0
  let s1 := if one then s else hbmWrite s sgl descs false
  let s2 := hbmWrite s1 (qpSq q + 64 * slot) cmd false
  let tail := (slot + 1) % qpDepth q
  let s3 := busWrite s2 q.sqdb.toNat (leBytes 4 tail)
  updPolder s3 p fun x =>
    { x with qptab := vset x.qptab k { q with tail := tail },
             cards := mapIf (fun e => e.num == c.num) (fun e =>
               { e with started := true, slot := some slot, ranges := if cOpc c.data = 9 then (listedRanges s x c).getD [(0, 2 ^ 65)] else [] }) x.cards }

/-- CARD_START (R187, R219). -/
def execCardStart (p : PolderNo) (n : Nat) (s : State) : Out :=
  match (getPolder s p.toNat).cards.find? fun c => c.num == n with
  | none => unchanged s
  | some c =>
    if canStart s p.toNat c = false then unchanged s
    else if cKind c.data = 5 then .next (startNvme s p.toNat c)
    else .next (updPolder s p.toNat fun x =>
      { x with cards := mapIf (fun e => e.num == n) (fun e => { e with started := true }) x.cards })

/-! ### Completion (R189, R211 to R213, R221) -/

/-- A user interrupt of a card (R221). -/
def cardInterrupt (b : Block) (c : Card) (status : Nat) : Block :=
  let v := ((cTag c.data % 65536) <<< 48) + ((c.seq % 2 ^ 40) <<< 8) + (status <<< 4)
  let low := fld b.uistat 2 0
  let low' := if bit low 0 then low ||| 2 else low ||| 1
  { b with uistat := BitVec.ofNat 64 (v + low') }

/-- What the issuing block records (R211, R213, R215, R221, R293). -/
def recordCard (b : Block) (c : Card) (status bytes nvst : Nat) : Block :=
  if c.seq = 0 then
    let hit (f : FlushRec) : Bool := f.nsid == cNsid c.data && f.qp == cQp c.data && f.status.isNone
    setEvent { b with flushes := mapIf hit (fun f => { f with status := some status }) b.flushes }
  else
    let out := if status = 0 ∨ status = 1 ∨ status = 2 then bytes else 0
    let upd (r : CardRec) : CardRec := { r with status := some status, bytes := out, nvst := nvst }
    let b1 := { b with cardRecs := mapIf (fun r => r.seq == c.seq) upd b.cardRecs,
                       lastErr := if status = 0 then b.lastErr else status }
    let wm := BitVec.ofNat 64 (cWmval c.data)
    let up (x : Word64) : Word64 := if x.ult wm then wm else x
    let b2 := if cWma c.data && status == 0 then
        (if b.status = .halted then { b1 with wmark := up b1.wmark }
         else { b1 with core := { b1.core with wmPend := up b1.core.wmPend } })
      else b1
    setEvent (if cUint c.data then cardInterrupt b2 c status else b2)

/-- A card completes: it leaves the engines, its block records it, and the padding of its batch spares the bytes that it
wrote validly (R207). -/
def endCard (s : State) (p : Nat) (c : Card) (status bytes nvst : Nat) (valid : List (Nat × Nat)) : State :=
  let s1 := updPolder s p fun x =>
    { x with cards := mapIf (fun e => e.batch == c.batch) (fun e => { e with avoid := e.avoid ++ valid })
                        (x.cards.filter fun e => e.num != c.num) }
  updBlock s1 ⟨p, c.ctx⟩ fun b => recordCard b c status bytes nvst

/-- A region of the card lies behind a sluice that has gone down (R211, R269). -/
def behindSluice (s : State) (p : Nat) (c : Card) : Bool := (c.rdPa ++ c.wrPa).any fun r => lostSluice s p r.pa

/-- CARD_COMPLETE (R211): a started card that is no NVMe card is performed and completes. -/
def execCardComplete (p : PolderNo) (n : Nat) (s : State) : Out :=
  match (getPolder s p.toNat).cards.find? fun c => c.num == n with
  | none => unchanged s
  | some c =>
    if !c.started || cKind c.data == 5 then unchanged s
    else if behindSluice s p.toNat c then .next (endCard s p.toNat c 5 0 0 [])
    else match performCard s c with
      | .done s1 st bytes valid => .next (endCard s1 p.toNat c st bytes 0 valid)
      | .need rs => .next (askAll s (.card p.toNat n) rs)

/-- Dword 3 of the completion entry at the head of a pair. -/
def cqeDw3 (s : State) (q : QueuePair) : Nat := memNat s.hbm (qpCq q + 16 * q.head + 12) 4

/-- A completion entry with a new phase tag stands at the head (R191): VF Memory Space Enable plays no part (R219), and a
command that is under way completes whatever has since been written to the reserved bits (log 72). -/
def cqeNew (s : State) (p k : Nat) : Bool :=
  let q := getQp s p k
  (qpInService s p k || (getPolder s p).cards.any fun c => onPair c k && c.slot.isSome) && bit (cqeDw3 s q) 16 == q.phase

/-- The head moves on, and the head doorbell is rung (R219). -/
def takeCqe (s : State) (p k : Nat) : State :=
  let q := getQp s p k
  let h := (q.head + 1) % qpDepth q
  let s1 := busWrite s q.cqdb.toNat (leBytes 4 h)
  updPolder s1 p fun x =>
    { x with qptab := vset x.qptab k { q with head := h, phase := if h = 0 then !q.phase else q.phase } }

/-- NVME_COMPLETION (R191, R219): the entry is matched by CID. A region behind a sluice that has gone down gives SLUICE_DOWN
(R269). A Read is checked or decompressed before it completes. -/
def execNvmeCompletion (p : PolderNo) (qp : BitVec 6) (s : State) : Out :=
  let pn := p.toNat
  let k := qp.toNat
  if cqeNew s pn k = false then unchanged s
  else
    let w := cqeDw3 s (getQp s pn k)
    match (getPolder s pn).cards.find? fun c => onPair c k && c.slot == some (w % 65536) with
    | none => .next (takeCqe s pn k)
    | some c =>
      let nvst := w / 65536
      if w / 131072 ≠ 0 then .next (endCard (takeCqe s pn k) pn c 4 0 nvst [])
      else if behindSluice s pn c then .next (endCard (takeCqe s pn k) pn c 5 0 nvst [])
      else if isNvRead c.data then
        match performRead s c (qpBlock (getQp s pn k)) with
        | .done s1 st bytes valid => .next (endCard (takeCqe s1 pn k) pn c st bytes nvst valid)
        | .need rs => .next (askAll s (.card pn c.num) rs)
      else .next (endCard (takeCqe s pn k) pn c 0 0 nvst [])

/-! ### The queue-pair table (R217) -/

/-- Replace a dword of an entry. -/
def setQpWord (q : QueuePair) (w : BitVec 2) (v : Word64) : QueuePair :=
  match w with
  | 0 => { q with w0 := v }
  | 1 => { q with w1 := v }
  | 2 => { q with sqdb := v }
  | _ => { q with cqdb := v }

/-- A pair that starts afresh (log 7). -/
def QueuePair.afresh (q : QueuePair) : QueuePair := { q with tail := 0, head := 0, phase := true }

/-- A write changes a field of the entry: reserved bits are none (R5, log 72). -/
def qpChanges (q : QueuePair) (w : BitVec 2) (v : Word64) : Bool := qpWord q w.toNat &&& qpMask w.toNat != v &&& qpMask w.toNat

/-- QPTAB_WRITE (R217): a changed entry starts afresh and ends the incomplete cards on it with NVME_STATUS and a status field of
zero. A write of reserved bits alone changes no field and does neither (R5); R217 has them count for EN (log 72). -/
def execQptabWrite (p : PolderNo) (e : BitVec 6) (w : BitVec 2) (v : Word64) (s : State) : Out :=
  let q := getQp s p.toNat e.toNat
  let put (n : QueuePair) : State := updPolder s p.toNat fun x => { x with qptab := vset x.qptab e.toNat n }
  if qpChanges q w v = false then .next (put (setQpWord q w v))
  else
    let s1 := put (setQpWord q w v).afresh
    let open' := (getPolder s1 p.toNat).cards.filter fun c => onPair c e.toNat
    .next (open'.foldl (fun s c => endCard s p.toNat c 4 0 0 []) s1)

end Sys2Proof.Machine
end

