-- ==== Sys2Proof/Machine/Queues.lean ====
section
/-! DEFINITION. Host queues after the start of a packet: completion, the completion ring and its interrupts (R226, R227,
R232, R237, R238), and the events that they have of their own. -/

namespace Sys2Proof.Machine

/-! ### Queues -/

/-- Queue q of polder p. -/
def getQueue (s : State) (p q : Nat) : HostQueue := vget HostQueue.init (getPolder s p).queues q

/-- Replace a queue. -/
def setQueue (s : State) (p q : Nat) (h : HostQueue) : State :=
  updPolder s p fun x => { x with queues := vset x.queues q h }

/-- Update a queue. -/
def updQueue (s : State) (p q : Nat) (f : HostQueue → HostQueue) : State := setQueue s p q (f (getQueue s p q))

/-- Remote results that have been used leave their queue. -/
def dropUsed (s : State) (p q : Nat) (used : List RemNeed) : State :=
  updQueue s p q fun h => { h with remDone := used.foldl (fun l n =>
    dropFirst (fun r : RemResult => r.dom == n.1 && r.addr == n.2.1 && decide (r.op = n.2.2)) l) h.remDone }

/-- The virtual function of a queue (R226). -/
def queueFn (p q : Nat) : FnId := .vf (BitVec.ofNat 7 (8 * p + q / 8))

/-- QCTL.EN. -/
def HostQueue.en (h : HostQueue) : Bool := flag h.qctl 0
/-- QCTL.IEN. -/
def HostQueue.ien (h : HostQueue) : Bool := flag h.qctl 2
/-- QCTL.ERR. -/
def HostQueue.err (h : HostQueue) : Bool := flag h.qctl 3

/-- Bytes of the packet ring, zero where LOGSZ puts it out of service (R226). -/
def HostQueue.ringSize (h : HostQueue) : Nat :=
  let l := fld h.qring 4 0
  if 12 ≤ l ∧ l ≤ 24 then 2 ^ l else 0

/-- Entries of the completion ring, zero where LOGN puts it out of service. -/
def HostQueue.cqSize (h : HostQueue) : Nat :=
  let l := fld h.qcq 4 0
  if 7 ≤ l ∧ l ≤ 16 then 2 ^ l else 0

/-- The completion ring is full, or out of service (R237). -/
def HostQueue.cqFull (h : HostQueue) : Bool :=
  h.cqSize == 0 || (h.cqIndex + 1) % h.cqSize == fld h.qcqHead 15 0

/-- The accessor that the command processor is for a root (R148). -/
def cpAcc (p root : Nat) (rem : List RemResult) : Acc := { p := p, root := root, cu := none, rem := rem }

/-- QROOT as an address. -/
def HostQueue.root (h : HostQueue) : Nat := fld h.qroot 51 16 <<< 16

/-! ### Messages (R19, R238) -/

/-- A function's MSI-X state. -/
def msixOf (s : State) (fn : FnId) : Msix :=
  match fn with
  | .pf0 => s.dev.msixPf
  | .vf v => (mapGet s.dev.msixVf v.toNat).getD ⟨0xFFFF, 0⟩

/-- Replace it. -/
def setMsix (s : State) (fn : FnId) (m : Msix) : State :=
  match fn with
  | .pf0 => updDev s fun d => { d with msixPf := m }
  | .vf v => updDev s fun d => { d with msixVf := mapPut d.msixVf v.toNat m }

/-- Send a message, or set the pending bit of a masked vector. Without the PCIe interface it reaches nobody (R273). -/
def sendMsix (s : State) (fn : FnId) (vec : Nat) : State :=
  let m := msixOf s fn
  if bit m.masked vec then setMsix s fn { m with pending := setBit m.pending vec true }
  else if s.dev.pcieUp then updDev s fun d => { d with out := d.out ++ [.msix fn vec] }
  else s

/-- MSIX_UNMASK (R238): an unmasked vector sends the message that is pending. -/
def execMsixUnmask (fn : FnId) (vec : BitVec 4) (s : State) : Out :=
  let m := msixOf s fn
  let s1 := setMsix s fn ⟨setBit m.masked vec.toNat false, setBit m.pending vec.toNat false⟩
  .next (if bit m.pending vec.toNat then updDev s1 fun d => { d with out := d.out ++ [.msix fn vec.toNat] } else s1)

/-! ### Completion entries (R237) -/

/-- An entry waits for its place in the ring, phase bit clear. -/
def addEntry (s : State) (p q task tag off ty detail status : Nat) : State :=
  let w (n : Nat) : Word64 := BitVec.ofNat 64 n
  let e : List Word64 := [w (task % 2 ^ 48), w (((tag % 2 ^ 32) <<< 32) + ((off / 64 % 2 ^ 18) <<< 14) + ty % 256), w detail,
    w (status % 65536)]
  updQueue s p q fun h => { h with cqWaiting := h.cqWaiting ++ [e] }

/-- The message of a queue is sent: count and interval start again (R238). -/
def announce (s : State) (p q : Nat) : State :=
  let h := getQueue s p q
  sendMsix (setQueue s p q { h with unannounced := 0 }) (queueFn p q) (fld h.qctl 39 36)

/-- What an entry does to interrupts (R238). -/
def countEntry (s : State) (p q status : Nat) : State :=
  let h := getQueue s p q
  if h.ien = false then setQueue s p q { h with unannounced := 0 }
  else
    let n := h.unannounced + 1
    let s1 := setQueue s p q { h with unannounced := n }
    if status ≠ 0 ∨ Nat.max 1 (fld h.qctl 47 40) ≤ n then announce s1 p q else s1

/-- COMPLETION_ENTRY_WRITE (R237): the oldest waiting entry is written once the ring has room. -/
def execCompletionEntryWrite (p : PolderNo) (q : QueueNo) (s : State) : Out :=
  let h := getQueue s p.toNat q.toNat
  match h.cqWaiting with
  | [] => .next s
  | e :: t =>
    if h.cqFull ∨ s.dev.pcieUp = false then .next s
    else
      let last := (e.getD 3 0) ||| (if h.cqPhase then 0x8000000000000000 else 0)
      let bytes := ((e.take 3) ++ [last]).flatMap fun w => leBytes 8 w.toNat
      let i := (h.cqIndex + 1) % h.cqSize
      let h1 := { h with cqWaiting := t, cqIndex := i, cqPhase := if i = 0 then !h.cqPhase else h.cqPhase }
      let s1 := setQueue s p.toNat q.toNat h1
      let s2 := busWrite s1 ((fld h.qcq 63 12 <<< 12) + 32 * h.cqIndex) bytes
      .next (countEntry s2 p.toNat q.toNat (fld (e.getD 3 0) 15 0))

/-- QUIET_INTERVAL_EXPIRY (R238). -/
def execQuietIntervalExpiry (p : PolderNo) (q : QueueNo) (s : State) : Out :=
  let h := getQueue s p.toNat q.toNat
  if h.ien && fld h.qctl 63 48 != 0 && h.unannounced != 0 then .next (announce s p.toNat q.toNat) else .next s

/-! ### Completing a packet (R232) -/

/-- Every packet that a FENCE waits for has completed. -/
def fenceMet (x : Polder) (q : Nat) (f : Started) : Bool :=
  let ahead (k : Nat) : Bool := (vget HostQueue.init x.queues k).started.any fun e => decide (e.sn < f.sn)
  if f.allq then (span (8 * (q / 8)) 8).all fun k => !ahead k else !ahead q

/-- Take a started packet off, with its entry where CQE asks for one. -/
def retire (s : State) (p q : Nat) (e : Started) (status detail task : Nat) : State :=
  let s1 := updQueue s p q fun h => { h with started := h.started.filter fun y => y.sn != e.sn }
  if e.cqe then addEntry s1 p q task e.tag e.off e.ty detail status else s1

/-- A FENCE that can complete: its queue and packet. -/
def readyFence (x : Polder) : Option (Nat × Started) :=
  (upTo 64).findSome? fun q =>
    ((vget HostQueue.init x.queues q).started.find? fun e => e.ty == 8 && fenceMet x q e).map fun e => (q, e)

/-- Complete every FENCE that can complete. -/
def settleFences (p : Nat) : Nat → State → State
  | 0, s => s
  | n + 1, s => match readyFence (getPolder s p) with
    | some (q, e) => settleFences p n (retire s p q e 0 0 0)
    | none => s

/-- Packets in flight in a polder. -/
def inFlight (x : Polder) : Nat := x.queues.toList.foldl (fun n h => n + h.started.length) 0

/-- A packet completes (R232), and with it the FENCEs that waited for it. -/
def completePacket (s : State) (p q : Nat) (e : Started) (status detail task : Nat) : State :=
  let s1 := retire s p q e status detail task
  settleFences p (inFlight (getPolder s1 p)) s1

/-- The status of a packet whose access fails (R233, R269). -/
def packetStatus (c : Cause) : Nat := if c = .xlate then 6 else 7

end Sys2Proof.Machine
end

