-- ==== Sys2Proof/Machine/Tasks.lean ====
section
/-! DEFINITION. Tasks: creation from a launch (R33 to R41, R231, R235, R315, R473), and the placement of clusters (R39,
R41, R73, R234, R254 to R256). -/

namespace Sys2Proof.Machine

/-! ### Launches (R231) -/

/-- A dword of an image. -/
def dw (w : List Word64) (i : Nat) : Word64 := w.getD i 0

/-- Where a launch comes from: the image, the SCOPE, the queue that supplies QROOT and QSLICE, its root, the origin of the
task, and the handle that HEN places. -/
structure Launch where
  img : List Word64
  scope : Nat
  queue : Nat
  root : Nat
  origin : Origin
  prior : Nat

/-- What a launch gives: a task, a refusal with status and DETAIL, or a wait for the causeways. -/
inductive LaunchRes where
  | created (s : State) (handle blocks : Nat)
  | refused (status detail : Nat)
  | need (rs : List RemNeed)

/-- The kernel of a loaded slot that a launch names (R315): slot number, slot and kernel. -/
def findKernel (x : Polder) (gen va entry : Nat) : Option (Nat × CodeSlot × Kernel) :=
  ((upTo 64).zip x.code.toList).findSome? fun (e, c) =>
    if decide (c.st = .loaded) && c.gen == gen && c.va == va then
      (c.kernels.find? fun k => va + c.textOff + k.entryOff == entry).map fun k => (e, c, k)
    else none

/-- The loop table as KIND and CHUNK of each level, with the reserved bits (R34). -/
def loopLevels (bs : List Byte) : List (Nat × Nat × Nat) :=
  (dwords 4 bs).map fun w => (fld w 63 62, fld w 31 0, fld w 61 32)

/-- A level is spatial. -/
def isSpatial (kind : Nat) : Bool := decide (2 ≤ kind)

/-- Extent of a level: 1 unless it is spatial (R36). -/
def levelExt (kind chunk count : Nat) : Nat := if isSpatial kind then ceilDiv count chunk else 1

/-- Numbers of the blocks along each level. -/
def levelExts (loops : List (Nat × Nat)) (counts : List Nat) : List Nat :=
  (loops.zip counts).map fun ((k, c), n) => levelExt k c n

/-- The rules of R35 that a loop table breaks. -/
def loopsBad (l : List (Nat × Nat × Nat)) (counts : List Nat) : Bool :=
  let kinds := l.map Prod.fst
  let used := (l.zip counts).filter fun x => x.1.1 != 0
  let gap := (kinds.zip (kinds.drop 1)).any fun x => x.1 == 0 && x.2 != 0
  (l.any fun x => x.2.2 != 0) || gap
    || (l.any fun x => if isSpatial x.1 then x.2.1 == 0 else x.2.1 != 0)
    || ((l.zip counts).any fun x => x.1.1 == 0 && x.2 != 0)
    || ((kinds.drop 1).any fun k => k == 3)
    || decide (2 ^ 64 ≤ used.foldl (fun (n : Nat) x => n * x.2) 1)
    || decide (2 ^ 32 < (levelExts (l.map fun x => (x.1, x.2.1)) counts).foldl (· * ·) 1)

/-- Dies that hold polders of a list, ascending. -/
def diesOf (ps : List Nat) : List Nat := (ps.map (· / 8)).eraseDups

/-- The clusters of a launch with their polders (R38, R39): runs of `len` blocks, cluster size `sz`, the die of each run;
`k` counts the clusters already placed on each die. -/
def planRun (ps : List Nat) (sz : Nat) : Nat → Nat → Nat → Nat → Nat → List (Nat × List Nat)
  | 0, _, _, _, _ => []
  | fuel + 1, first, left, die, k =>
    if left = 0 then []
    else
      let n := Nat.min sz left
      let here := ps.filter fun p => p / 8 == die
      (here.getD (k % Nat.max 1 here.length) 0, span first n) :: planRun ps sz fuel (first + n) (left - n) die (k + 1)

/-- All clusters: `runs` runs of `len` blocks each. -/
def planClusters (ps : List Nat) (sz len : Nat) (dies : Bool) : Nat → Nat → List (Nat × Nat) → List (Nat × List Nat)
  | 0, _, _ => []
  | runs + 1, r, ks =>
    let ds := diesOf ps
    let die := if dies then ds.getD (r % Nat.max 1 ds.length) 0 else ds.getD 0 0
    let k := mapNat ks die
    planRun ps sz len (r * len) len die k
      ++ planClusters ps sz len dies runs (r + 1) (mapPut ks die (k + ceilDiv len sz))

/-- Slots of a polder's CUs in service (R9, R73). -/
def polderSlots (x : Polder) : List (Nat × Nat) :=
  (upTo 12).flatMap fun cu => if vget 0 x.lgc cu = 0 then [] else (upTo 4).map fun k => (cu, k)

/-- A task that still holds or awaits slots. -/
def taskLive (s : State) (c : Cluster) : Option Task :=
  match getTask s c.creator c.handle with
  | some t => if t.ended.isSome then none else some t
  | none => none

/-- Members of a cluster that have not halted. -/
def liveMembers (s : State) (p : Nat) (c : Cluster) : Nat :=
  if c.ctxs.isEmpty then c.blkids.length
  else (c.ctxs.filter fun x => match getBlock s ⟨p, x⟩ with
    | some b => b.status != .halted && b.status != .ended
    | none => false).length

/-- Slots that persistent launches hold or have been promised in a polder (R41). That a launch which holds none at present
keeps its claim is DEDUCED (log 85). -/
def persistentHeld (s : State) (p : Nat) : Nat :=
  (getPolder s p).clusters.foldl (fun n c => match taskLive s c with
    | some t => if t.pers then n + liveMembers s p c else n
    | none => n) 0

/-- A persistent launch can be resident as a whole (R41). -/
def persistentFits (s : State) (plan : List (Nat × List Nat)) : Bool :=
  (upTo 16).all fun p =>
    let want := (plan.filter fun x => x.1 == p).foldl (fun n x => n + x.2.length) 0
    want == 0 || decide (want + persistentHeld s p ≤ (polderSlots (getPolder s p)).length)

/-- Add a cluster to its polder's waiting order (R234). -/
def addCluster (creator handle : Nat) (s : State) (e : Nat × Nat × List Nat) : State :=
  updPolder s e.2.1 fun x =>
    let c : Cluster := ⟨x.nextCid, creator, handle, e.1, e.2.2, [], Vector.replicate 8 0, false, false, x.nextOrder, 0⟩
    { x with nextCid := x.nextCid + 1, nextOrder := x.nextOrder + 1, clusters := x.clusters ++ [c] }

/-- The feeds of an image (R231): none where V = 0. -/
def imageFeeds (w : List Word64) : List (Option Feed) :=
  (upTo 4).map fun k =>
    match parseFeed (((w.drop (26 + 8 * k)).take 8).flatMap fun x => leBytes 8 x.toNat) with
    | some (true, f) => some f
    | _ => none

/-- The arguments, with the handle that HEN places (R235). -/
def imageArgs (l : Launch) : List Word64 :=
  let as := (l.img.drop 10).take 16
  let h := fld (dw l.img 4) 33 30
  if flag (dw l.img 4) 34 then (as.zip (upTo 16)).map fun x => if x.2 = h then BitVec.ofNat 64 l.prior else x.1 else as

/-- The task of a launch that R473 does not refuse. -/
def newTask (l : Launch) (handle slot : Nat) (c : CodeSlot) (k : Kernel) (loops : List (Nat × Nat)) (n : Nat) : Task :=
  let w := dw l.img
  { handle := handle, origin := l.origin, queue := l.queue, entry := fld (w 2) 54 0, textVa := c.va + c.textOff, slot := slot,
    gen := c.gen, tilesCode := k.tilesCode, feedRec := k.feedRec, fns := k.fns, root := l.root,
    counts := (span 6 4).map fun i => (w i).toNat, loops := loops, args := imageArgs l, feeds := imageFeeds l.img,
    prio := fld (w 4) 47 44, weight := fld (w 4) 43 40 + 1, clsz := fld (w 4) 39 36, pers := flag (w 4) 35, scope := l.scope,
    ctAddr := fld (w 58) 54 0, ctVal := w 59, nblocks := n, placed := 0, halted := 0, ended := none, faulted := none }

/-- The remote requests that reading a launch's loop table makes. -/
def loopNeeds (s : State) (p : Nat) (l : Launch) (rem : List RemResult) : List RemNeed :=
  readNeeds s (cpAcc p l.root rem) (fld (dw l.img 5) 54 0) 32

/-- Create the task of a launch in polder p, or refuse it on the first ground of R473. -/
def createTask (s : State) (p : Nat) (l : Launch) (rem : List RemResult) : LaunchRes :=
  let w := dw l.img
  let x := getPolder s p
  match findKernel x (fld (w 4) 63 48) (fld (w 3) 54 0) (fld (w 2) 54 0) with
  | none => .refused 5 0
  | some (slot, c, k) =>
    let sz := fld (w 4) 39 36
    if sz = 0 ∨ 12 < sz then .refused 3 0
    else
      let va := fld (w 5) 54 0
      match readClean s (cpAcc p l.root rem) va 32 with
      | .fail e v => .refused (packetStatus e) v
      | .need rs => .need rs
      | .ok bs _ =>
        let lv := loopLevels bs
        let counts := (span 6 4).map fun i => (w i).toNat
        if va % 32 ≠ 0 ∨ loopsBad lv counts = true then .refused 2 0
        else
          let loops := lv.map fun y => (y.1, y.2.1)
          let ext := levelExts loops counts
          let n := ext.foldl (· * ·) 1
          let dies := (loops.getD 0 (0, 0)).1 == 3
          let runs := if dies then ext.getD 0 0 else 1
          let plan := if n = 0 then [] else planClusters (partitionPolders s p) sz (n / Nat.max 1 runs) dies runs 0 []
          let t := newTask l x.nextTask slot c k loops n
          if t.pers && !persistentFits s plan then .refused 4 n
          else
            let s1 := setPolder s p { x with nextTask := x.nextTask + 1, tasks := mapPut x.tasks t.handle t }
            .created (((upTo plan.length).zip plan).foldl (addCluster p t.handle) s1) t.handle n

/-! ### Blocks (R36, R37, R52, R73) -/

/-- LOOPIX of each level for a block (R36): the innermost spatial level varies fastest. -/
def loopIndex : List Nat → Nat → List Nat
  | [], _ => []
  | _ :: t, n =>
    let inner := t.foldl (· * ·) 1
    (n / Nat.max 1 inner) :: loopIndex t (n % Nat.max 1 inner)

/-- s1 to s4 (R37). -/
def levelCount (kind chunk count ix : Nat) : Nat :=
  if kind = 0 then 0 else if isSpatial kind then Nat.min chunk (count - ix * chunk) else count

/-- Contents of s1 to s5 and s16 to s31, by register number. -/
def startRegs (t : Task) (ix : List Nat) : List (Nat × Word64) :=
  let lv := ((t.loops.zip t.counts).zip ix).map fun (((k, c), n), i) => (k, levelCount k c n i)
  let used := lv.filter fun x => x.1 != 0
  let total := if used.isEmpty then 0 else used.foldl (fun a x => a * x.2) 1
  ((span 1 4).zip lv).map (fun x => (x.1, BitVec.ofNat 64 x.2.2)) ++ [(5, BitVec.ofNat 64 total)]
    ++ (span 16 16).zip t.args

/-- A register file at block start. -/
def startFile (l : List (Nat × Word64)) : RegFile := l.foldl (fun v x => vset v x.1 x.2) (Vector.replicate 32 0)

/-- The launch feeds with the records of FEEDREC (R52, R312). -/
def startFeeds (t : Task) (c : Core) : Core :=
  ((upTo 4).zip t.feeds).foldl (fun c x => match x.2 with
    | none => c
    | some f =>
      let r : PredNo := BitVec.ofNat 3 (t.feedRec >>> (3 * x.1))
      { c with bindL := vset c.bindL x.1 r, feeds := vset c.feeds x.1 { (FeedSlot.settle ⟨some f, none, true⟩) with armed := false } }) c

/-- GRANTC of a CU for a declared tile count (R73). -/
def grantWord (x : Polder) (cu tilesCode : Nat) : Word64 :=
  let lgc := vget 0 x.lgc cu
  let u := vget 0 x.slotu cu
  let tiles := declared (BitVec.ofNat 64 (tilesCode <<< 12))
  BitVec.ofNat 64 ((u * 65536 / tiles) * 2 ^ 32 + lgc * 2 ^ 16 + tilesCode * 2 ^ 12 + (10 + lgc.log2) * 2 ^ 8 + u)

/-- The ceiling of strip 0: a TILEB above that of 28 tiles first applies at the block's first SHAPE (R73), for a TBIND in
strip 0 too (DEDUCED, log 83). -/
def firstCeiling (g : Word64) : Word64 :=
  let low := g.toNat % 2 ^ 32
  BitVec.ofNat 64 (fld g 4 0 * 65536 / 28 * 2 ^ 32 + low)

/-- A block as its first placement makes it (R37, R53, R62, R67). -/
def newBlock (t : Task) (cid blkid rank : Nat) (grant : Word64) (place : Nat × Nat) : Block :=
  let ix := loopIndex (levelExts t.loops t.counts) blkid
  let f := startFile (startRegs t ix)
  let core := startFeeds t { Core.init with a := f, s := f }
  { core := core, ckpt := core, ckptPc := t.entry, pc := t.entry, recheck := [], prog := [], begun := false, stored := false,
    devDone := 0, pcie := [], convoy := 0, openW := [], skipC := false, sbuf := [], rewindable := true, consumed := [], rewinds := 0, stripId := 0, wmark := 0, tcause := 0, tcoord := 0, taddr := 0,
    fltpc := 0, progix := 0, grantc := grant, ceiling := firstCeiling grant, blkid := blkid, clrank := rank,
    loopix := (upTo 4).foldl (fun v k => vset v k (ix.getD k 0)) (Vector.replicate 4 0), uivec := 0, uistat := 0, uien := false,
    shadowA := Vector.replicate 7 0, shadowS := Vector.replicate 7 0, shadowAm := Vector.replicate 7 none,
    shadowSm := Vector.replicate 7 none, uiret := 0, cardSeq := 0, cardRecs := [], engRows := [], lastErr := 0, fenceSeq := 0,
    covered := 0, flushes := [], adtBase := 0, pins := [], repins := [], mmad := none, mmadRows := 0, adTry := none, adHeld := [], eventFlag := false, shared := [],
    sharedMarks := [], sharedTop := 0, msgs := [], arrMade := Vector.replicate 8 0, remDone := [], feedDone := [], ahead := none, runsAhead := false, taken := [], status := .resident,
    resume := .at, waiting := false, holding := false, room := false, stuck := false, look := 0, need := [], cid := cid,
    place := some place }

/-! ### Placement (R234, R41, R255, R256) -/

/-- Free slots of a polder, in the order in which the model fills them (log 11). -/
def freeSlots (x : Polder) : List (Nat × Nat) :=
  let taken := x.blocks.filterMap fun e => e.2.place
  (polderSlots x).filter fun c => !taken.contains c

/-- Slots that are free or will be, of blocks that have been stopped and still complete an instruction (R252). -/
def comingSlots (x : Polder) : Nat :=
  (freeSlots x).length + (x.blocks.filter fun e => e.2.status == .preempted && e.2.place.isSome).length

/-- Context numbers that are not reserved (R255). -/
def freeCtxs (x : Polder) : List Nat := (upTo (fld x.ctxpool 15 0)).filter fun n => (mapGet x.blocks n).isNone

/-- The saved context of a block cannot be restored (R255): it holds a poisoned line, or the polder no longer reaches it. -/
def ctxPoisoned (s : State) (id : BlkId) (b : Block) : Bool :=
  !ctxReached s id || s.poison.any fun e => ctxLine (ctxAddr s id) (ctxUnits id b) e.1

/-- Place a member for the first time. -/
def placeNew (s : State) (p : Nat) (c : Cluster) (t : Task) (rank blkid ctx : Nat) (slot : Nat × Nat) : State :=
  let b := newBlock t c.cid blkid rank (grantWord (getPolder s p) slot.1 t.tilesCode) slot
  let s1 := setBlock s ⟨p, ctx⟩ b
  writeHeader (updTask s1 c.creator c.handle fun t => { t with placed := t.placed + 1 }) ⟨p, ctx⟩ b

/-- Place a saved member again (R256). Its pinned adapters are to be pinned again before it issues (R131). -/
def placeSaved (s : State) (id : BlkId) (t : Task) (slot : Nat × Nat) : State :=
  match getBlock s id with
  | none => s
  | some b =>
    let b1 := { b with status := .resident, place := some slot, grantc := grantWord (getPolder s id.p) slot.1 t.tilesCode,
                       repins := b.pins }
    unpinLines (writeHeader (setBlock s id b1) id b1) id.p id.ctx fun _ => true

/-- Members of a saved cluster that need slots. -/
def savedMembers (s : State) (p : Nat) (c : Cluster) : List Nat :=
  c.ctxs.filter fun x => match getBlock s ⟨p, x⟩ with
    | some b => b.status != .halted && b.status != .ended
    | none => false

/-- Place a cluster on free slots, which suffice. -/
def placeCluster (s : State) (p : Nat) (c : Cluster) (t : Task) : State :=
  let x := getPolder s p
  let slots := freeSlots x
  let mark (s : State) (ctxs : List Nat) : State :=
    updPolder (updCluster s p c.cid fun d => { d with ctxs := ctxs, resident := true, placedAt := x.nextPlaced }) p fun y =>
      { y with nextPlaced := y.nextPlaced + 1 }
  if c.ctxs.isEmpty then
    let ctxs := (freeCtxs x).take c.blkids.length
    let s1 := mark s ctxs
    (((upTo c.blkids.length).zip (c.blkids.zip ctxs)).zip slots).foldl
      (fun s e => placeNew s p c t e.1.1 e.1.2.1 e.1.2.2 e.2) s1
  else
    let ms := savedMembers s p c
    match ms.find? fun x => match getBlock s ⟨p, x⟩ with
      | some b => ctxPoisoned s ⟨p, x⟩ b
      | none => false with
    | some _ =>
      let d : Word64 := BitVec.ofNat 64 (causeCode .uncorrectable)
      endTask (updTask s c.creator c.handle fun t => { t with faulted := some d }) c.creator c.handle d
    | none =>
      let s1 := mark s c.ctxs
      (ms.zip slots).foldl (fun s e => placeSaved s ⟨p, e.1⟩ t e.2) s1

/-- Clusters in the order in which a rule takes them. -/
def inOrder (before : Cluster → Cluster → Bool) (cs : List Cluster) : List Cluster := cs.foldr (placeBy before) []

/-- The waiting clusters of a polder in the order of R234. -/
def waitingOrder (s : State) (p : Nat) : List Cluster :=
  inOrder (fun a b => decide (clusterPrio s b < clusterPrio s a) || (clusterPrio s a == clusterPrio s b && decide (a.order < b.order)))
    ((getPolder s p).clusters.filter (clusterWaits s p))

/-- The clusters that are placed together with the head: all that wait of a persistent launch, else it alone (R41). -/
def placementUnit (s : State) (p : Nat) (c : Cluster) (t : Task) : List (Nat × Cluster) :=
  if t.pers then (upTo 16).flatMap fun q => ((waitingOrder s q).filter fun d =>
      d.creator == c.creator && d.handle == c.handle).map fun d => (q, d)
  else [(p, c)]

/-- Resident clusters of a polder that may be pre-empted for a launch, in the order of R234 and R41: lower priority, or any
that is not persistent when a persistent launch is placed for the first time; lowest priority first, then latest placed. -/
def victims (s : State) (q : Nat) (t : Task) (first : Bool) : List Cluster :=
  inOrder (fun a b => decide (clusterPrio s a < clusterPrio s b)
      || (clusterPrio s a == clusterPrio s b && decide (b.placedAt < a.placedAt)))
    ((getPolder s q).clusters.filter fun d => d.resident && (match taskLive s d with
      | some u => !u.pers && (decide (u.prio < t.prio) || (t.pers && first))
      | none => false))

/-- Victims until enough slots are free; none where they do not suffice. -/
def pickVictims (s : State) (q : Nat) : Nat → List Cluster → Option (List Cluster)
  | 0, _ => some []
  | _ + 1, [] => none
  | n + 1, d :: t => (pickVictims s q (n + 1 - liveMembers s q d) t).map (d :: ·)

/-- Room for a unit in polder q: the clusters to pre-empt, or none where it must wait (R234, R255). -/
def roomFor (s : State) (q : Nat) (t : Task) (cs : List Cluster) : Option (List Cluster) :=
  let x := getPolder s q
  let want := cs.foldl (fun n c => n + liveMembers s q c) 0
  let ctxs := (cs.filter fun c => c.ctxs.isEmpty).foldl (fun n c => n + c.blkids.length) 0
  if (freeCtxs x).length < ctxs then none
  else pickVictims s q (want - comingSlots x) (victims s q t (cs.any fun c => c.ctxs.isEmpty))

/-- Room for the whole unit, polder by polder. -/
def roomForAll (s : State) (t : Task) (u : List (Nat × Cluster)) : List Nat → Option (List (Nat × List Cluster))
  | [] => some []
  | q :: qs => match roomFor s q t ((u.filter fun e => e.1 == q).map Prod.snd), roomForAll s t u qs with
    | some v, some r => some ((q, v) :: r)
    | _, _ => none

/-- The scheduler of a polder may place blocks (R266). -/
def placing (s : State) (p : Nat) : Bool := flag (getPolder s p).pctl 63 && !polderDown s p

/-- The slots that a unit needs are free in every polder. -/
def slotsFree (s : State) (u : List (Nat × Cluster)) : Bool :=
  (u.map Prod.fst).all fun q =>
    decide ((u.filter fun e => e.1 == q).foldl (fun n e => n + liveMembers s q e.2) 0 ≤ (freeSlots (getPolder s q)).length)

/-- What CLUSTER_PLACEMENT would place: the task, the clusters, those that make room. Nothing is placed while a write of the
owner map waits for the blocks to come to rest (R265). -/
def nextPlacement (s : State) (p : Nat) : Option (Task × List (Nat × Cluster) × List (Nat × List Cluster)) :=
  if placing s p = false ∨ (getPolder s p).ownerWrites ≠ [] then none
  else match waitingOrder s p with
  | [] => none
  | c :: _ => match getTask s c.creator c.handle with
    | none => none
    | some t =>
      let u := placementUnit s p c t
      (roomForAll s t u (u.map Prod.fst).eraseDups).map fun v => (t, u, v)

/-- CLUSTER_PLACEMENT (R234): the first waiting cluster is placed, or a persistent launch as a whole, and whatever R234
says is pre-empted for it. Where a pre-empted block has still to complete an instruction, the placing itself comes later. -/
def execClusterPlacement (p : PolderNo) (s : State) : Out :=
  match nextPlacement s p.toNat with
  | none => unchanged s
  | some (t, u, v) =>
    let s1 := v.foldl (fun s e => e.2.foldl (fun s d => saveCluster s e.1 d.cid) s) s
    .next (if slotsFree s1 u then u.foldl (fun s e => placeCluster s e.1 e.2 t) s1 else s1)

end Sys2Proof.Machine
end

