-- ==== Sys2Proof/Machine/PacketOps.lean ====
section
/-! DEFINITION. What packets and graph nodes share: validity (R228 to R231), the writes and signals (R230, R232, R233),
and the conditions of WAIT (R230, R235, R236). -/

namespace Sys2Proof.Machine

/-! ### Validity (R229) -/

/-- The TYPE of an image. -/
def pktType (w : List Word64) : Nat := fld (dw w 0) 7 0
/-- SCOPE. -/
def pktScope (w : List Word64) : Nat := fld (dw w 0) 16 14

/-- A check: byte offset of a dword, and its offending bits. -/
abbrev Check := Nat × Nat

/-- Bits from lo on. -/
def bitsFrom (x : Word64) (lo : Nat) : Nat := (x.toNat >>> lo) <<< lo

/-- An address in dword i: 55 bits, aligned to `al` (R230). -/
def addrCheck (w : List Word64) (i al : Nat) : Check := (8 * i, bitsFrom (dw w i) 55 + (dw w i).toNat % al)

/-- Dwords lo to hi that must be zero. -/
def zeroChecks (w : List Word64) (lo hi : Nat) : List Check := (span lo (hi + 1 - lo)).map fun i => (8 * i, (dw w i).toNat)

/-- A rule that the lowest byte of a dword breaks. -/
def ruleCheck (i : Nat) (bad : Bool) : Check := (8 * i, if bad then 1 else 0)

/-- The checks of a feed record at dword b (R231). -/
def feedChecks (w : List Word64) (b : Nat) : List Check :=
  (8 * b, fld (dw w b) 62 55 <<< 55)
    :: ((span (b + 3) 4).map fun i => ruleCheck i (decide (2 ^ 47 < (dw w i).toInt.natAbs))) ++ [(8 * (b + 7), (dw w (b + 7)).toNat)]

/-- Checks of a LAUNCH body up to byte 479 (R231). CTADDR needs no alignment: R231 names none (DESIGN CHOICE, log 105). -/
def launchChecks (w : List Word64) : List Check :=
  [(8, (dw w 1).toNat), addrCheck w 2 4, addrCheck w 3 1, (32, fld (dw w 4) 29 0), addrCheck w 5 1]
    ++ [26, 34, 42, 50].flatMap (feedChecks w) ++ [addrCheck w 58 1]

/-- Checks of a WAIT body (R230): an unused condition's fields are free. -/
def waitChecks (w : List Word64) : List Check :=
  let n := fld (dw w 1) 1 0
  let k (i : Nat) : Nat := fld (dw w 1) (4 + 3 * i) (2 + 3 * i)
  [ruleCheck 1 (n == 0 || n == 3 || decide (4 < k 0) || decide (4 < k 1)), (8, bitsFrom (dw w 1) 8)]
    ++ (upTo n).flatMap fun i => if k i = 4 then [(8 * (4 + 3 * i), (dw w (4 + 3 * i)).toNat)] else [addrCheck w (2 + 3 * i) 8]

/-- Checks of a body by its TYPE (R230). -/
def bodyChecks (w : List Word64) : List Check :=
  let al : Nat := if flag (dw w 1) 0 then 8 else 4
  match pktType w with
  | 1 => zeroChecks w 1 7
  | 2 => launchChecks w
  | 3 => [(8, bitsFrom (dw w 1) 6), addrCheck w 2 256, (24, bitsFrom (dw w 3) 11), ruleCheck 3 (decide (1024 < fld (dw w 3) 10 0)),
          addrCheck w 4 8] ++ zeroChecks w 6 7
  | 4 => [(8, bitsFrom (dw w 1) 1), addrCheck w 2 al] ++ zeroChecks w 4 7
  | 5 => [ruleCheck 1 (decide (1 < fld (dw w 1) 1 0)), (8, bitsFrom (dw w 1) 2), addrCheck w 2 8] ++ zeroChecks w 4 7
  | 6 => [ruleCheck 1 (decide (1 < fld (dw w 1) 2 1)), (8, bitsFrom (dw w 1) 3), addrCheck w 2 al, addrCheck w 4 8]
          ++ zeroChecks w 6 7
  | 7 => waitChecks w
  | _ => (8, bitsFrom (dw w 1) 1) :: zeroChecks w 2 7

/-- The lowest byte of a check that holds an offending bit. -/
def Check.byte (c : Check) : Option Nat :=
  ((upTo 8).find? fun k => field c.2 (8 * k + 7) (8 * k) != 0).map fun k => c.1 + k

/-- Byte offset of the lowest offending byte of an image (R229, R237); `rest` are further checks. -/
def invalidByte (w : List Word64) (rest : List Check) : Option Nat :=
  let t := pktType w
  if t = 0 ∨ 8 < t then some 0
  else
    let len := fld (dw w 0) 11 8
    let sc := pktScope w
    leastOf ((if len ≠ (if t = 2 then 7 else 0) ∨ sc < 2 ∨ 5 < sc then [1] else [])
      ++ (((0, fld (dw w 0) 31 17 <<< 17) :: bodyChecks w) ++ rest).filterMap Check.byte)

/-- The further checks of a packet: the last dwords of a LAUNCH are reserved (R231). -/
def packetRest (w : List Word64) : List Check := if pktType w = 2 then zeroChecks w 60 63 else []

/-! ### Writes and signals (R232, R233) -/

/-- The place of an access, or its failure. -/
def cpPlace (s : State) (c : Acc) (n : Need) (va : Nat) : Except (Nat × Nat) Nat :=
  match probe s c n va with
  | .ok x => .ok x.pa
  | .error e => .error (packetStatus e, va)

/-- The place of a signal: a PCIe completer that refuses AtomicOps answers Unsupported Request, which is PERM (R179). -/
def signalPlace (s : State) (c : Acc) (va : Nat) : Except (Nat × Nat) Nat :=
  match cpPlace s c needRw va with
  | .ok pa => if refusesAtomics s pa then .error (packetStatus .perm, va) else .ok pa
  | .error e => .error e

/-- The bytes that WRITE writes. -/
def writeBytes (w : List Word64) : List Byte := leBytes (if flag (dw w 1) 0 then 8 else 4) (dw w 3).toNat

/-- The steps of WRITE, SIGNAL or WRITE_SIGNAL: every address is probed before any step runs (R233); the signal follows the
write. -/
def packetSteps (s : State) (c : Acc) (w : List Word64) : Except (Nat × Nat) (List CpStep) := do
  let a := fld (dw w 2) 54 0
  match pktType w with
  | 4 => do
    let pa ← cpPlace s c needWr a
    pure [.write pa a (writeBytes w)]
  | 5 => do
    let pa ← signalPlace s c a
    pure [.signal pa a (fld (dw w 1) 1 0) (dw w 3).toNat]
  | _ => do
    let b := fld (dw w 4) 54 0
    let pa ← cpPlace s c needWr a
    let pb ← signalPlace s c b
    pure [.write pa a (writeBytes w), .signal pb b (fld (dw w 1) 2 1) (dw w 5).toNat]

/-- A signal's function code: SET is a swap (R232). -/
def signalFn (op : Nat) : Nat := if op = 0 then 8 else 0

/-- What a step comes to: performed, with the remote results it used; a failure with status and DETAIL; requests that it waits
for, of which a step that waits for stores to registers has none (R474). -/
inductive StepRes where
  | done (s : State) (used : List RemNeed)
  | fail (status detail : Nat)
  | need (rs : List RemNeed)

/-- Perform a step. A signal to poisoned data is not performed and fails (R27, R29, log 75). -/
def cpStep (s : State) (c : Acc) : CpStep → StepRes
  | .write pa va bs => match physWrite s c.rem pa bs false with
    | .ok s' => .done s' (remoteAt s pa (.write bs)).toList
    | .fail e => .fail (packetStatus e) va
    | .need r => .need [r]
  | .signal pa va op v =>
    let ro := RemOp.atomic (signalFn op) true v 0
    match remoteAt s pa ro with
    | some (d, a, _) => match remDo s c.rem d a ro with
      | .ok _ false => .done s [(d, a, ro)]
      | .ok _ true => .fail 7 va
      | .fail e => .fail (packetStatus e) va
      | .need r => .need [r]
    | none => if refusesAtomics s pa then .fail (packetStatus .perm) va
      else if regStoresDue s && isRegister s pa then .need []
      else match physRead s [] pa 8 with
      | .ok _ true => .fail 7 va
      | .ok bs false => match physWrite s [] pa (leBytes 8 (amoNew (signalFn op) true (leNat bs) v)) false with
        | .ok s' => .done s' []
        | .fail e => .fail (packetStatus e) va
        | .need _ => .fail 7 va
      | .fail e => .fail (packetStatus e) va
      | .need _ => .fail 7 va

/-- What running steps comes to: the state, the remote results used, the steps left and the requests they wait for, or a
failure with status and DETAIL. -/
structure StepsRes where
  s : State
  used : List RemNeed
  left : List CpStep
  needs : List RemNeed
  fail : Option (Nat × Nat)

/-- Run steps in order, up to one that waits or fails. -/
def runSteps (c : Acc) : List CpStep → State → List RemNeed → StepsRes
  | [], s, u => ⟨s, u, [], [], none⟩
  | t :: r, s, u => match cpStep s c t with
    | .done s1 v => runSteps c r s1 (u ++ v)
    | .fail st d => ⟨s, u, [], [], some (st, d)⟩
    | .need n => ⟨s, u, t :: r, n, none⟩

/-! ### WAIT (R230, R236) -/

/-- What evaluating conditions gives, with the remote results it used: all met, with the last value; the index of the
first that is not met; a failure; a wait for the causeways at a condition. -/
inductive WaitRes where
  | met (v : Nat) (used : List RemNeed)
  | wait (i : Nat) (used : List RemNeed)
  | fail (status detail : Nat) (used : List RemNeed)
  | need (i : Nat) (rs used : List RemNeed)
  deriving DecidableEq, Repr

/-- A condition holds of a value. -/
def condHolds (k x v m : Nat) : Bool :=
  match k with
  | 0 => x &&& m == v
  | 1 => x &&& m != v
  | 2 => decide (v ≤ x &&& m)
  | 3 => decide (x &&& m < v)
  | _ => decide (v ≤ x)

/-- Evaluate the conditions of a WAIT from index i on; `n` is how many are left. A read waits for stores to registers (R474). -/
def waitEval (s : State) (c : Acc) (w : List Word64) : Nat → Nat → Nat → List RemNeed → WaitRes
  | 0, _, last, u => .met last u
  | n + 1, i, _, u =>
    let k := fld (dw w 1) (4 + 3 * i) (2 + 3 * i)
    let a := (dw w (2 + 3 * i)).toNat
    let go (x : Nat) (u : List RemNeed) : WaitRes :=
      if condHolds k x (dw w (3 + 3 * i)).toNat (dw w (4 + 3 * i)).toNat then waitEval s c w n (i + 1) x u else .wait i u
    if k = 4 then (if namesTask s c.p a then go (taskMark s c.p a) u else .fail 7 a u)
    else if regStoresDue s then .need i [] u
    else
      let v := u ++ readNeeds s c a 8
      match readClean s c a 8 with
      | .ok bs _ => go (leNat bs) v
      | .fail e x => .fail (packetStatus e) x v
      | .need rs => .need i rs u

/-- Evaluate a WAIT from index i on. -/
def waitFrom (s : State) (c : Acc) (w : List Word64) (i : Nat) : WaitRes := waitEval s c w (fld (dw w 1) 1 0 - i) i 0 []

end Sys2Proof.Machine
end

