-- ==== Sys2Proof/Machine/Graphs.lean ====
section
/-! DEFINITION. Task graphs (R239 to R241): validation, runs, patches, and nodes. -/

namespace Sys2Proof.Machine

/-! ### Nodes -/

/-- A graph slot at reset. -/
def GraphSlot.init : GraphSlot := ⟨0, 0, 0, none, none, 0, [], []⟩

/-- Graph slot g. -/
def getSlot (s : State) (p g : Nat) : GraphSlot := vget GraphSlot.init (getPolder s p).gslots g

/-- Replace a slot. -/
def setSlot (s : State) (p g : Nat) (x : GraphSlot) : State := updPolder s p fun y => { y with gslots := vset y.gslots g x }

/-- CNT. -/
def GraphSlot.cnt (x : GraphSlot) : Nat := fld x.gdesc 24 12
/-- FIRST. -/
def GraphSlot.first (x : GraphSlot) : Nat := fld x.gdesc 11 0
/-- Q. -/
def GraphSlot.q (x : GraphSlot) : Nat := fld x.gdesc 37 32

/-- The 64 dwords of node n of a slot (R239). -/
def nodeImg (s : State) (p : Nat) (x : GraphSlot) (n : Nat) : List Word64 :=
  dwords 64 (memBytes (getPolder s p).sched (512 * (x.first + n)) 512)

/-- The valid successors of a node. -/
def succsOf (w : List Word64) : List Nat :=
  (upTo 8).filterMap fun k =>
    let e := fld (dw w (62 + k / 4)) (16 * (k % 4) + 15) (16 * (k % 4))
    if bit e 15 then some (e % 4096) else none

/-- NPRED. -/
def npred (w : List Word64) : Nat := fld (dw w 60) 11 0

/-- Predecessors of node n among the images of a graph. -/
def predsOf (imgs : List (List Word64)) (n : Nat) : List Nat :=
  ((upTo imgs.length).zip imgs).filterMap fun e => if (succsOf e.2).contains n then some e.1 else none

/-- The images of a slot's nodes. -/
def slotImgs (s : State) (p : Nat) (x : GraphSlot) : List (List Word64) := (upTo x.cnt).map (nodeImg s p x)

/-! ### Validation (R240) -/

/-- A node is invalid under R229: only six types are nodes, and a shorter one is padded with zeros to byte 479. -/
def nodeBad (w : List Word64) : Bool :=
  let t := pktType w
  t == 3 || t == 8 || (invalidByte w (if t = 2 then [] else zeroChecks w 8 59)).isSome

/-- Nodes left after taking away those whose predecessors have all gone, again and again: a rest means a cycle. -/
def peel (succs : List (List Nat)) : Nat → List Nat → List Nat
  | 0, left => left
  | k + 1, left =>
    let rest := left.filter fun n => left.any fun m => (succs.getD m []).contains n
    if rest.length = left.length then left else peel succs k rest

/-- The first node on which a graph is rejected, or none. -/
def graphFault (s : State) (p : Nat) (x : GraphSlot) : Option Nat :=
  if x.cnt = 0 ∨ 4096 < x.cnt ∨ 4096 < x.first + x.cnt then some 0
  else
    let imgs := slotImgs s p x
    let succs := imgs.map succsOf
    let entries (n : Nat) : Nat := succs.foldl (fun k l => k + l.count n) 0
    match (upTo x.cnt).find? fun n =>
        let w := imgs.getD n []
        nodeBad w || ((succs.getD n []).any fun m => decide (x.cnt ≤ m)) || npred w != entries n with
    | some n => some n
    | none => (peel succs x.cnt (upTo x.cnt)).head?

/-- RW bits of GDESC (R240). -/
def gdescMask : Word64 := 0x8000003F01FFFFFF

/-- An entry of a graph run that no packet asked for: TAG and ring offset zero, TYPE that of GRAPH_RUN. -/
def graphEntry (s : State) (p q task detail status : Nat) : State := addEntry s p q task 0 0 3 detail status

/-- GRAPH_VALIDATE (R240): a write of GDESC; with VALID = 1 the graph is checked. -/
def execGraphValidate (p : PolderNo) (g : BitVec 6) (v : Word64) (s : State) : Out :=
  let x := getSlot s p.toNat g.toNat
  let x1 := { x with gdesc := v &&& gdescMask }
  if flag v 63 then
    match graphFault s p.toNat x1 with
    | none => .next (setSlot s p.toNat g.toNat x1)
    | some n => .next (graphEntry (setSlot s p.toNat g.toNat { x1 with gdesc := x1.gdesc &&& 0x7FFFFFFFFFFFFFFF })
        p.toNat x1.q 0 n 9)
  else .next (setSlot s p.toNat g.toNat x1)

/-! ### Runs (R241) -/

/-- The queue that supplies a slot's QROOT (R240). -/
def slotQueue (s : State) (p : Nat) (x : GraphSlot) : HostQueue := getQueue s p x.q

/-- The accessor of a run's nodes. -/
def nodeAcc (s : State) (p : Nat) (x : GraphSlot) : Acc :=
  let h := slotQueue s p x
  cpAcc p h.root h.remDone

/-- The queue whose QROOT a run's own addresses use: that of the packet that asked for it, or the slot's. -/
def runQueue (x : GraphSlot) (r : GraphRun) : Nat := (r.origin.map Prod.fst).getD x.q

/-- The requester of a run's own accesses. -/
def runReq (p : Nat) (x : GraphSlot) (r : GraphRun) : Requester := .packet p (runQueue x r)

/-- The accessor of a run's own addresses. -/
def runAcc (s : State) (p : Nat) (x : GraphSlot) (r : GraphRun) : Acc :=
  let h := getQueue s p (runQueue x r)
  cpAcc p h.root h.remDone

/-- The started packet that asked for a run. -/
def runPacket (s : State) (p : Nat) (r : GraphRun) : Option (Nat × Started) :=
  match r.origin with
  | none => none
  | some (q, sn) => ((getQueue s p q).started.find? fun e => e.sn == sn).map fun e => (q, e)

/-- Report a run: the packet completes, or an entry goes to the slot's queue. -/
def reportRun (s : State) (p : Nat) (x : GraphSlot) (r : GraphRun) (status detail : Nat) : State :=
  match runPacket s p r with
  | some (q, e) => completePacket s p q e status detail r.number
  | none => if r.origin.isSome then s else graphEntry s p x.q r.number detail status

/-- Nodes of the graph that may start: not started, all predecessors completed. -/
def readyNodes (imgs : List (List Word64)) (r : GraphRun) : List Nat :=
  (upTo imgs.length).filter fun n => !bit r.started n && (predsOf imgs n).all (bit r.done)

/-- Every node that has started has ended. -/
def allEnded (r : GraphRun) : Bool := r.started == r.done ||| r.failed

/-- Write one argument of a stored node (R241). -/
def patchNode (s : State) (p : Nat) (x : GraphSlot) (e : Word64 × Word64) : State :=
  let a := 512 * (x.first + fld e.1 11 0) + 80 + 8 * fld e.1 15 12
  updPolder s p fun y => { y with sched := memSetNat y.sched a 8 e.2.toNat }

/-- The entries of a patch list. -/
def patchList (bs : List Byte) (n : Nat) : List (Word64 × Word64) :=
  let d := dwords (2 * n) bs
  (upTo n).map fun k => (dw d (2 * k), dw d (2 * k + 1))

/-- A run has ended: the slot takes up the pending one (R241). -/
def nextRun (s : State) (p g : Nat) : State :=
  let x := getSlot s p g
  setSlot s p g { x with running := x.pending, pending := none, waits := [], steps := [] }

/-- A run starts: the whole patch list is read, checked and applied. -/
def beginRun (s : State) (p g : Nat) (x : GraphSlot) (r : GraphRun) : State :=
  let ok (s : State) (es : List (Word64 × Word64)) : State :=
    setSlot (es.foldl (fun s e => patchNode s p x e) s) p g { x with running := some { r with begun := true } }
  if r.npatch = 0 then ok s []
  else
    let c := runAcc s p x r
    let s1 := dropUsed s p (runQueue x r) (readNeeds s c r.patch (16 * r.npatch))
    match readClean s c r.patch (16 * r.npatch) with
    | .need rs => askAll s (runReq p x r) rs
    | .fail e v => nextRun (reportRun s1 p x r (packetStatus e) v) p g
    | .ok bs _ =>
      let es := patchList bs r.npatch
      match es.find? fun e => decide (x.cnt ≤ fld e.1 11 0) || pktType (nodeImg s p x (fld e.1 11 0)) != 2
          || e.1.toNat / 65536 != 0 with
      | some e => nextRun (reportRun s1 p x r 9 (fld e.1 11 0)) p g
      | none => ok s1 es

/-- Where the end of a run leads: the completion target is written, the run reported, the next one begins. -/
def endRun (s : State) (p g : Nat) (x : GraphSlot) (r : GraphRun) : State :=
  match r.fault with
  | some (st, d) => nextRun (reportRun s p x r st d.toNat) p g
  | none =>
    if r.ctAddr = 0 then nextRun (reportRun s p x r 0 0) p g
    else
      let c := runAcc s p x r
      let bs := leBytes 8 r.ctVal.toNat
      let drop (s1 : State) : State := dropUsed s1 p (runQueue x r) (writeNeeds s c r.ctAddr bs)
      match writeMem s c r.ctAddr bs false with
      | .ok s1 => nextRun (reportRun (drop s1) p x r 0 0) p g
      | .fail e _ => nextRun (reportRun (drop s) p x r (packetStatus e) r.ctAddr) p g
      | .need rs => askAll s (runReq p x r) rs

/-- A run ends once every node has completed; after a fault, once its started nodes have ended and no other can start
(R241, R251). -/
def settleRun (s : State) (p g : Nat) : State :=
  let x := getSlot s p g
  match x.running with
  | none => s
  | some r =>
    if r.begun && allEnded r && (r.done == 2 ^ x.cnt - 1 || (r.fault.isSome && (readyNodes (slotImgs s p x) r).isEmpty)) then
      endRun s p g x r
    else s

/-- Begin what has been triggered: the run in progress, if its patches wait. -/
def tryBegin (s : State) (p g : Nat) : State :=
  let x := getSlot s p g
  match x.running with
  | some r => if r.begun then s else beginRun s p g x r
  | none => s

/-- A node ends: completed, or with a status and DETAIL that fault the run (R233, R251, R315). -/
def endNode (s : State) (p g n : Nat) (res : Option (Nat × Nat)) : State :=
  let x := getSlot s p g
  match x.running with
  | none => s
  | some r =>
    let r1 := match res with
      | none => { r with done := setBit r.done n true }
      | some (st, d) => { r with failed := setBit r.failed n true, fault := some (r.fault.getD (st, BitVec.ofNat 64 d)) }
    settleRun (setSlot s p g { x with running := some r1, waits := x.waits.filter (fun y => y.1 != n),
                                      steps := x.steps.filter fun y => y.1 != n }) p g

/-- A trigger of a slot (R241): a run starts, waits as the pending one, or meets GRAPH_BUSY. A slot that is not in service
rejects it. -/
def triggerRun (s : State) (p g : Nat) (r : GraphRun) : State :=
  let x := getSlot s p g
  if flag x.gdesc 63 = false then reportRun s p x { r with number := 0 } 9 0
  else
    let r1 := { r with number := x.runs + 1 }
    let x1 := { x with runs := x.runs + 1 }
    match x.running, x.pending with
    | none, _ => tryBegin (setSlot s p g { x1 with running := some r1 }) p g
    | some _, none => setSlot s p g { x1 with pending := some r1 }
    | some _, some _ => reportRun s p x { r with number := 0 } 10 g

/-- A run not yet numbered. -/
def freshRun (patch npatch ctAddr : Nat) (ctVal : Word64) (origin : Option (Nat × Nat)) : GraphRun :=
  { number := 0, begun := false, patch := patch, npatch := npatch, ctAddr := ctAddr, ctVal := ctVal, origin := origin,
    started := 0, done := 0, failed := 0, tasks := [], fault := none }

/-- GTRIG (R241). While PCTL.EN = 0 no run starts (R266). A count above 1,024 is rejected as GRAPH_INVALID. -/
def execGtrig (p : PolderNo) (v : Word64) (s : State) : Out :=
  let g := fld v 63 58
  let x := getSlot s p.toNat g
  if placing s p.toNat then
    if 1024 < fld v 57 47 then .next (graphEntry s p.toNat x.q 0 0 9)
    else .next (triggerRun s p.toNat g (freshRun (fld v 46 0 * 256) (fld v 57 47) (fld x.ctaddr 54 0) x.ctval none))
  else unchanged s

/-! ### Node starts -/

/-- The list of regions of a node whose incoming edges cross a privileged channel (R196, R239). A node without
predecessors has no such edge. -/
def listBytes (w : List Word64) : Nat := if npred w ≠ 0 ∧ flag (dw w 60) 15 then 16 * fld (dw w 60) 23 16 else 0

/-- The VA of the list. -/
def listVa (w : List Word64) : Nat := fld (dw w 61) 54 0

/-- Why CLEAN or INVAL of a region fails (R182, R359, R381): its first page without RD. -/
def regionFault (s : State) (c : Acc) (va n : Nat) : Option (Cause × Nat) :=
  if n = 0 then none
  else if 2 ^ 55 < va + n then some (.xlate, va)
  else (span 0 ((va + n - 1) / 65536 + 1 - va / 65536)).findSome? fun j =>
    let x := if j = 0 then va else (va / 65536 + j) * 65536
    match probe s c needRd x with
    | .ok _ => none
    | .error e => some (e, x)

/-- The PCIe targets in a region. -/
def regionBuses (s : State) (c : Acc) (va n : Nat) : List Nat :=
  (pieces128 va n).filterMap fun (v, _) => match probe s c needRd v with
    | .ok x => match physTarget s x.pa with
      | .bus a => some (Config.pcieTarget a)
      | _ => none
    | .error _ => none

/-- The entries of a region list. -/
def regionEntriesOf (bs : List Byte) : List (Nat × Nat) := (patchList bs (bs.length / 16)).map fun e => (e.1.toNat, e.2.toNat)

/-- CLEAN and INVAL over the listed regions, before the node starts (R196, R241): their first failure, or the state with
the zero-length reads of CLEAN sent (log 76). -/
def applyRegions (s : State) (c : Acc) (l : List (Nat × Nat)) : Except (Cause × Nat) State :=
  match l.findSome? fun e => regionFault s c e.1 e.2 with
  | some f => .error f
  | none => .ok (zeroReads s (l.flatMap fun e => regionBuses s c e.1 e.2))

/-- The handle that HEN places in a node (R239): that of its lowest-numbered LAUNCH predecessor. -/
def nodePrior (s : State) (p : Nat) (x : GraphSlot) (r : GraphRun) (n : Nat) : Nat :=
  let imgs := slotImgs s p x
  match (predsOf imgs n).find? fun m => pktType (imgs.getD m []) == 2 with
  | some m => ((r.tasks.find? fun t => t.1 == m).map Prod.snd).getD 0
  | none => 0

/-- A node has started. -/
def markStarted (r : GraphRun) (n : Nat) : GraphRun := { r with started := setBit r.started n true }

/-- A node that writes or signals goes on with its steps. -/
def runNodeSteps (s : State) (p g n : Nat) (l : List CpStep) : State :=
  let x := getSlot s p g
  let y := runSteps (nodeAcc s p x) l s []
  let s1 := dropUsed y.s p x.q y.used
  match y.fail with
  | some f => endNode s1 p g n (some f)
  | none =>
    if y.left.isEmpty then endNode s1 p g n none
    else askAll (setSlot s1 p g { x with steps := (x.steps.filter fun e => e.1 != n) ++ [(n, y.left)] }) (.packet p x.q) y.needs

/-- A WAIT node is evaluated from the first condition not yet met. -/
def runNodeWait (s : State) (p g n : Nat) (w : List Word64) (i : Nat) : State :=
  let x := getSlot s p g
  let hold (u : List RemNeed) (k : Nat) : State :=
    setSlot (dropUsed s p x.q u) p g { x with waits := (x.waits.filter fun e => e.1 != n) ++ [(n, k)] }
  match waitFrom s (nodeAcc s p x) w i with
  | .met _ u => endNode (dropUsed s p x.q u) p g n none
  | .fail st d u => endNode (dropUsed s p x.q u) p g n (some (st, d))
  | .wait k u => hold u k
  | .need k rs u => askAll (hold u k) (.packet p x.q) rs

/-- Start the packet of a node (R232, R241). -/
def startNode (s : State) (p g n : Nat) (x : GraphSlot) (r : GraphRun) (w : List Word64) : State :=
  let c := nodeAcc s p x
  let s1 := setSlot s p g { x with running := some (markStarted r n) }
  match pktType w with
  | 1 => endNode s1 p g n none
  | 2 =>
    let l : Launch := ⟨w, pktScope w, x.q, c.root, .node g n, nodePrior s p x r n⟩
    let drop (s : State) : State := dropUsed s p x.q (loopNeeds s p l c.rem)
    match createTask s p l c.rem with
    | .created s2 h _ =>
      setSlot (drop s2) p g { x with running := some { markStarted r n with tasks := r.tasks ++ [(n, h)] },
                                     steps := x.steps.filter fun e => e.1 != n }
    | .refused st d => endNode (drop s1) p g n (some (st, d))
    | .need rs => askAll (setSlot s1 p g { getSlot s1 p g with steps := (x.steps.filter fun e => e.1 != n) ++ [(n, [])] })
        (.packet p x.q) rs
  | 7 => runNodeWait s1 p g n w 0
  | _ => match packetSteps s c w with
    | .ok l => runNodeSteps s1 p g n l
    | .error f => endNode s1 p g n (some f)

/-- GRAPH_NODE_START (R241): a node whose predecessors have completed starts, after the acquire of its edges and the
regions of privileged ones; a node that waits is taken up again; a run that waits for its patches begins, and one that
waits for its completion target ends. -/
def execGraphNodeStart (p : PolderNo) (g : BitVec 6) (n : BitVec 12) (s : State) : Out :=
  let pn := p.toNat
  let gn := g.toNat
  let x := getSlot s pn gn
  match x.running with
  | none => unchanged s
  | some r =>
    if placing s pn = false then unchanged s
    else if r.begun = false then .next (tryBegin s pn gn)
    else
      let imgs := slotImgs s pn x
      let k := n.toNat
      let w := imgs.getD k []
      match x.steps.find? fun y => y.1 == k, x.waits.find? fun y => y.1 == k with
      | some y, _ => .next (if pktType w = 2 then startNode s pn gn k x r w else runNodeSteps s pn gn k y.2)
      | none, some y => .next (runNodeWait s pn gn k w y.2)
      | none, none =>
        if (readyNodes imgs r).contains k then
          let c := nodeAcc s pn x
          let fail (s1 : State) (f : Cause × Nat) : Out :=
            .next (endNode (setSlot s1 pn gn { x with running := some (markStarted r k) }) pn gn k (some (packetStatus f.1, f.2)))
          let s1 := dropUsed s pn x.q (readNeeds s c (listVa w) (listBytes w))
          match readClean s c (listVa w) (listBytes w) with
          | .need rs => .next (askAll s (.packet pn x.q) rs)
          | .fail e v => fail s1 (e, v)
          | .ok bs _ => match applyRegions s1 c (regionEntriesOf bs) with
            | .error f => fail s1 f
            | .ok s2 => .next (startNode s2 pn gn k x r w)
        else .next (settleRun s pn gn)

end Sys2Proof.Machine
end

