-- ==== Sys2Proof/Machine/Packets.lean ====
section
/-! DEFINITION. The command processor: the packet at QHEAD, the start of packets (R226 to R236), the completion and the end
of tasks (R195, R232, R251), and the writes of queue registers (R226, R227, R229). -/

namespace Sys2Proof.Machine

/-! ### The ring -/

/-- Bytes of the packet ring from an offset on, wrapping at its end (R228). -/
def ringBytes (s : State) (h : HostQueue) (off : Nat) : Nat → List Byte
  | 0 => []
  | n + 1 => memByte s.bus ((fld h.qring 63 12 <<< 12) + off % h.ringSize) :: ringBytes s h (off + 1) n

/-- Ring offset of the next packet. -/
def HostQueue.headOff (h : HostQueue) : Nat := h.qhead.toNat % Nat.max 1 h.ringSize

/-- Units from QHEAD up to the tail (R226). -/
def HostQueue.units (h : HostQueue) : Nat :=
  let n := h.ringSize
  if n = 0 then 0 else ((h.qtail.toNat % n + n - h.headOff) % n) / 64

/-- Units of the packet with a header dword: eight for a LAUNCH that says so. -/
def headUnits (w0 : Word64) : Nat := if fld w0 7 0 = 2 ∧ fld w0 11 8 = 7 then 8 else 1

/-- The image of the packet at QHEAD, if the ring holds it whole. -/
def headImg (s : State) (h : HostQueue) : Option (List Word64) :=
  if h.units = 0 then none
  else
    let w0 := leWord (ringBytes s h h.headOff 8)
    if h.units < headUnits w0 then none else some (dwords (8 * headUnits w0) (ringBytes s h h.headOff (64 * headUnits w0)))

/-- The queue may start the packet at QHEAD (R226, R227, R229, R232). -/
def startable (s : State) (h : HostQueue) : Option (List Word64) :=
  if h.en && !h.err && h.ringSize != 0 && h.waitIx.isNone then
    match headImg s h with
    | none => none
    | some w =>
      if flag (dw w 0) 13 && !h.started.isEmpty then none
      else if flag (dw w 0) 12 && (h.cqFull || !h.cqWaiting.isEmpty) then none
      else some w
  else none

/-- The queues in the order of service, from one on (R236). -/
def serviceOrder (q : Nat) : List Nat := (upTo 64).map fun k => (q + k) % 64

/-- The queue that the command processor serves next, with its packet. The rings are out of reach without the PCIe interface
(R273), and a packet in hand is never split (R236). -/
def pickQueue (s : State) (p q : Nat) : Option (Nat × List Word64) :=
  if placing s p ∧ s.dev.pcieUp ∧ (getPolder s p).cpBusy.isNone then (serviceOrder q).findSome? fun k => (startable s (getQueue s p k)).map fun w => (k, w) else none

/-- QUEUE_SLICE_EXPIRY (R236): service moves on to the next queue that is ready. -/
def execQueueSliceExpiry (p : PolderNo) (s : State) : Out :=
  let x := getPolder s p.toNat
  match pickQueue s p.toNat ((x.served + 1) % 64) with
  | some (k, _) => .next (updPolder s p.toNat fun y => { y with served := k })
  | none => unchanged s

/-! ### Starting a packet -/

/-- QHEAD moves over some units. -/
def advanceHead (h : HostQueue) (bytes : Nat) : HostQueue :=
  { h with qhead := BitVec.ofNat 64 ((h.headOff + bytes) % Nat.max 1 h.ringSize) }

/-- An invalid packet halts its queue (R229). -/
def haltQueue (s : State) (p q : Nat) (w : List Word64) (at_ : Nat) : State :=
  let h := getQueue s p q
  let t := pktType w
  let units := if t = 0 ∨ 8 < t then 1 else fld (dw w 0) 11 8 + 1
  let h1 := { h with qctl := h.qctl ||| 8, skip := 64 * units }
  addEntry (setQueue s p q h1) p q 0 (fld (dw w 0) 63 32) h.headOff t at_ 1

/-- The packet starts: it is in flight, and QHEAD moves on. -/
def enterPacket (s : State) (p q : Nat) (w : List Word64) : State × Started :=
  let x := getPolder s p
  let h := getQueue s p q
  let e : Started := ⟨x.nextStart, h.headOff, pktType w, fld (dw w 0) 63 32, flag (dw w 0) 12, pktScope w,
    pktType w == 8 && flag (dw w 1) 0⟩
  let h1 := advanceHead { h with started := h.started ++ [e] } (8 * w.length)
  let s1 := updPolder s p fun y => { y with nextStart := y.nextStart + 1, served := q,
                                            qpend := setBit y.qpend q (h1.units != 0) }
  (setQueue s1 p q h1, e)

/-- The accessor of a queue's packets. -/
def queueAcc (s : State) (p q : Nat) : Acc :=
  let h := getQueue s p q
  cpAcc p h.root h.remDone

/-! ### The packet in hand -/

/-- The command processor keeps a packet in hand while the causeways answer (R29, R236). -/
def holdJob (s : State) (p : Nat) (j : CpJob) : State :=
  askAll (updPolder s p fun x => { x with cpBusy := some j }) (.packet p j.q) j.needs

/-- The packet in hand completes. TASK of its entry is 0, also for a LAUNCH that is refused (R237; DESIGN CHOICE, log 106). -/
def endJob (s : State) (p : Nat) (j : CpJob) (status detail : Nat) : State :=
  completePacket (updPolder s p fun x => { x with cpBusy := none }) p j.q j.pkt status detail 0

/-- WRITE, SIGNAL and WRITE_SIGNAL go on (R232, R236). -/
def stepJob (s : State) (p : Nat) (j : CpJob) : State :=
  let r := runSteps (queueAcc s p j.q) j.steps s []
  let s1 := dropUsed r.s p j.q r.used
  match r.fail with
  | some (st, d) => endJob s1 p j st d
  | none =>
    if r.left.isEmpty then endJob s1 p j 0 0
    else holdJob s1 p { j with steps := r.left, wrote := j.wrote || decide (r.left.length < j.steps.length), needs := r.needs }

/-- LAUNCH goes on: the task is created or refused once its loop table has been read (R231, R232, R473). After a refused LAUNCH
the next one of the queue gets the handle that this one would have got (R235; DESIGN CHOICE, log 106). -/
def launchJob (s : State) (p : Nat) (j : CpJob) : State :=
  let h := getQueue s p j.q
  let l : Launch := ⟨j.img, pktScope j.img, j.q, h.root, .packet j.q j.pkt.sn, h.lastTask⟩
  let used := loopNeeds s p l h.remDone
  match createTask s p l h.remDone with
  | .need rs => holdJob s p { j with needs := rs }
  | .refused st d => endJob (dropUsed s p j.q used) p j st d
  | .created s1 n _ =>
    updQueue (updPolder (dropUsed s1 p j.q used) p fun x => { x with cpBusy := none }) p j.q fun h => { h with lastTask := n }

/-- WAIT is evaluated from the first condition not yet met (R236): it completes, holds its queue and gives up the processor to
the next one, or waits for the causeways. -/
def waitJob (s : State) (p : Nat) (j : CpJob) (i : Nat) : State :=
  let leave (u : List RemNeed) (ix : Option (List Word64 × Nat)) : State :=
    updQueue (updPolder (dropUsed s p j.q u) p fun x => { x with cpBusy := none }) p j.q fun h => { h with waitIx := ix }
  let pass (s : State) : State := updPolder s p fun x => { x with served := (j.q + 1) % 64 }
  match waitFrom s (queueAcc s p j.q) j.img i with
  | .met v u => endJob (leave u none) p j 0 v
  | .fail st d u => endJob (leave u none) p j st d
  | .wait k u => pass (leave u (some (j.img, k)))
  | .need k rs u => holdJob (leave u (some (j.img, k))) p { j with needs := rs }

/-- The packet in hand goes on. -/
def resumeJob (s : State) (p : Nat) (j : CpJob) : State :=
  match j.pkt.ty with
  | 2 => launchJob s p j
  | 7 => waitJob s p j (((getQueue s p j.q).waitIx.map Prod.snd).getD 0)
  | _ => stepJob s p j

/-- The packet of TYPE `t` that a queue has in hand, or that is at QHEAD of the queue served next, or what an invalid one
there does. A TYPE that is not listed is met by PACKET_NOP. -/
def startPacket (t : Nat) (p : PolderNo) (q : QueueNo) (s : State) (k : Nat → Nat → List Word64 → Out) : Out :=
  let pn := p.toNat
  let qn := q.toNat
  match (getPolder s pn).cpBusy with
  | some j => if j.q = qn ∧ j.pkt.ty = t then .next (resumeJob s pn j) else unchanged s
  | none => match pickQueue s pn (getPolder s pn).served with
    | none => unchanged s
    | some (n, w) =>
      let ty := pktType w
      if n ≠ qn ∨ (ty ≠ t ∧ ¬(t = 1 ∧ (ty = 0 ∨ 8 < ty))) then unchanged s
      else match invalidByte w (packetRest w) with
        | some o => .next (haltQueue s pn qn w o)
        | none => k pn qn w

/-- The packet that starts, in hand. -/
def newJob (q : Nat) (e : Started) (w : List Word64) (steps : List CpStep) : CpJob := ⟨q, e, w, steps, false, []⟩

/-- PACKET_NOP (R232). -/
def execPacketNop (p : PolderNo) (q : QueueNo) (s : State) : Out :=
  startPacket 1 p q s fun p q w =>
    let (s1, e) := enterPacket s p q w
    .next (completePacket s1 p q e 0 0 0)

/-- PACKET_LAUNCH (R231, R232, R473). -/
def execPacketLaunch (p : PolderNo) (q : QueueNo) (s : State) : Out :=
  startPacket 2 p q s fun p q w =>
    let (s1, e) := enterPacket s p q w
    .next (launchJob s1 p (newJob q e w []))

/-- PACKET_GRAPH_RUN (R241). -/
def execPacketGraphRun (p : PolderNo) (q : QueueNo) (s : State) : Out :=
  startPacket 3 p q s fun p q w =>
    let (s1, e) := enterPacket s p q w
    .next (triggerRun s1 p (fld (dw w 1) 5 0)
      (freshRun (fld (dw w 2) 54 0) (fld (dw w 3) 10 0) (fld (dw w 4) 54 0) (dw w 5) (some (q, e.sn))))

/-- WRITE, SIGNAL and WRITE_SIGNAL: every address is probed, then the steps run (R232, R233, R236). -/
def storePacket (t : Nat) (p : PolderNo) (q : QueueNo) (s : State) : Out :=
  startPacket t p q s fun p q w =>
    let (s1, e) := enterPacket s p q w
    match packetSteps s (queueAcc s p q) w with
    | .ok l => .next (stepJob s1 p (newJob q e w l))
    | .error (st, d) => .next (completePacket s1 p q e st d 0)

/-- PACKET_WRITE (R232). -/
def execPacketWrite (p : PolderNo) (q : QueueNo) (s : State) : Out := storePacket 4 p q s
/-- PACKET_SIGNAL (R232). -/
def execPacketSignal (p : PolderNo) (q : QueueNo) (s : State) : Out := storePacket 5 p q s
/-- PACKET_WRITE_SIGNAL (R232). -/
def execPacketWriteSignal (p : PolderNo) (q : QueueNo) (s : State) : Out := storePacket 6 p q s

/-- PACKET_WAIT (R232, R236): the conditions are evaluated in order; the first that is not met holds the queue. -/
def execPacketWait (p : PolderNo) (q : QueueNo) (s : State) : Out :=
  startPacket 7 p q s fun p q w =>
    let (s1, e) := enterPacket s p q w
    .next (waitJob (updQueue s1 p q fun h => { h with waitIx := some (w, 0) }) p (newJob q e w []) 0)

/-- WAIT_CONDITION_MET (R236): the queue resumes at its WAIT, unless another queue's packet is in hand. -/
def execWaitConditionMet (p : PolderNo) (q : QueueNo) (s : State) : Out :=
  let h := getQueue s p.toNat q.toNat
  let mine := match (getPolder s p.toNat).cpBusy with
    | some j => j.q == q.toNat
    | none => true
  match h.waitIx, h.started.find? fun e => e.ty == 7 with
  | some (w, i), some e => if mine then .next (waitJob s p.toNat (newJob q.toNat e w []) i) else unchanged s
  | _, _ => unchanged s

/-- PACKET_FENCE (R232): it completes as soon as the packets before it have. -/
def execPacketFence (p : PolderNo) (q : QueueNo) (s : State) : Out :=
  startPacket 8 p q s fun p q w =>
    let (s1, _) := enterPacket s p q w
    .next (settleFences p (inFlight (getPolder s1 p)) s1)

/-! ### The end of a task (R195, R251) -/

/-- The clusters of a task with their polders. -/
def taskClusters (s : State) (creator handle : Nat) : List (Nat × Cluster) :=
  (upTo 16).flatMap fun p => ((getPolder s p).clusters.filter fun c => c.creator == creator && c.handle == handle).map
    fun c => (p, c)

/-- A card of the task is incomplete (R195, R251). -/
def taskCardsOpen (s : State) (creator handle : Nat) : Bool :=
  (taskClusters s creator handle).any fun e => (getPolder s e.1).cards.any fun c => e.2.ctxs.contains c.ctx

/-- The task's contexts return to the pool. -/
def releaseTask (s : State) (creator handle : Nat) : State :=
  let s1 := (taskClusters s creator handle).foldl (fun s e => updPolder s e.1 fun x =>
    { x with clusters := x.clusters.filter (fun c => c.cid != e.2.cid),
             blocks := x.blocks.filter fun b => !e.2.ctxs.contains b.1 }) s
  updPolder s1 creator fun x => { x with tasks := mapDel x.tasks handle }

/-- The packet or node of a task completes. -/
def reportTask (s : State) (p : Nat) (t : Task) (status detail : Nat) : State :=
  match t.origin with
  | .packet q sn => match (getQueue s p q).started.find? fun e => e.sn == sn with
    | some e => completePacket s p q e status detail t.handle
    | none => s
  | .node g n => endNode s p g n (if status = 0 then none else some (status, detail))

/-- Every block of a task is at rest in one polder (R251, R252). -/
def taskAtRest (s : State) (creator handle p : Nat) : Bool :=
  (getPolder s p).clusters.all fun c => !(c.creator == creator && c.handle == handle) || atRest s p c

/-- A task can complete: all its blocks have halted, or it has ended and they are at rest, and no card of it is open. -/
def taskDone (s : State) (p : Nat) (t : Task) : Bool :=
  ((t.ended.isSome && (upTo 16).all (taskAtRest s p t.handle)) || t.halted == t.nblocks) && !taskCardsOpen s p t.handle

/-- TASK_COMPLETE (R195, R232, R251): the completion target is written and the packet or node completes; a task that has
ended writes none and completes with TASK_FAULT. -/
def execTaskComplete (p : PolderNo) (h : Nat) (s : State) : Out :=
  let pn := p.toNat
  match getTask s pn h with
  | none => unchanged s
  | some t =>
    if taskDone s pn t = false then unchanged s
    else match t.ended with
    | some tc => .next (reportTask (releaseTask s pn h) pn t 8 tc.toNat)
    | none =>
      let fin (s : State) (st d : Nat) : Out := .next (reportTask (releaseTask s pn h) pn t st d)
      let c := cpAcc pn t.root (getQueue s pn t.queue).remDone
      let bs := leBytes 8 t.ctVal.toNat
      let drop (s1 : State) : State := dropUsed s1 pn t.queue (writeNeeds s c t.ctAddr bs)
      if t.ctAddr = 0 then fin s 0 t.nblocks
      else match writeMem s c t.ctAddr bs false with
        | .ok s1 => fin (drop s1) 0 t.nblocks
        | .fail e _ => fin (drop s) (packetStatus e) t.ctAddr
        | .need rs => .next (askAll s (.packet pn t.queue) rs)

/-- TASK_END (R251). -/
def execTaskEnd (p : PolderNo) (h : Nat) (tcause : Word64) (s : State) : Out := .next (endTask s p.toNat h tcause)

/-! ### Queue registers (R226, R227, R229) -/

/-- QTAIL_DOORBELL (R226, R243). -/
def execQtailDoorbell (p : PolderNo) (q : QueueNo) (v : Word64) (s : State) : Out :=
  let h := { getQueue s p.toNat q.toNat with qtail := v &&& 0xFFFFC0 }
  .next (updPolder (setQueue s p.toNat q.toNat h) p.toNat fun x => { x with qpend := setBit x.qpend q.toNat (h.units != 0) })

/-- RW bits of QRING and QCQ. -/
def ringMask : Word64 := 0xFFFFFFFFFFFFF01F

/-- QRING_WRITE (R226): ignored while EN = 1. -/
def execQringWrite (p : PolderNo) (q : QueueNo) (v : Word64) (s : State) : Out :=
  let h := getQueue s p.toNat q.toNat
  if h.en then unchanged s
  else .next (setQueue s p.toNat q.toNat { h with qring := v &&& ringMask, qhead := 0, qtail := 0 })

/-- QCQ_WRITE (R226): ignored while EN = 1. -/
def execQcqWrite (p : PolderNo) (q : QueueNo) (v : Word64) (s : State) : Out :=
  let h := getQueue s p.toNat q.toNat
  if h.en then unchanged s
  else .next (setQueue s p.toNat q.toNat { h with qcq := v &&& ringMask, cqIndex := 0, cqPhase := true })

/-- ERR is cleared, and the queue resumes after the packet that halted it (R229). -/
def clearErr (h : HostQueue) : HostQueue :=
  if h.err then { advanceHead h h.skip with qctl := h.qctl &&& ~~~(8 : Word64), skip := 0 } else h

/-- QCTL_ERR_CLEAR (R229). -/
def execQctlErrClear (p : PolderNo) (q : QueueNo) (s : State) : Out :=
  .next (updQueue s p.toNat q.toNat clearErr)

/-- RW bits of QCTL (R227). -/
def qctlMask : Word64 := 0xFFFFFFF000000005

/-- QCTL_WRITE (R227, R229, R238). -/
def execQctlWrite (p : PolderNo) (q : QueueNo) (v : Word64) (s : State) : Out :=
  let h := getQueue s p.toNat q.toNat
  let h1 := if flag v 3 then clearErr h else h
  let h2 := { h1 with qctl := maskWrite h1.qctl v qctlMask }
  .next (setQueue s p.toNat q.toNat (if h2.ien then h2 else { h2 with unannounced := 0 }))

end Sys2Proof.Machine
end

