-- ==== Sys2Proof/Machine/Code.lean ====
section
/-! DEFINITION. Code objects and the 64 code slots (R311 to R317). -/

namespace Sys2Proof.Machine

/-! ### Reading an object (R311 to R314) -/

/-- Why LOAD fails: a status of CODERES (R314), or a wait for the causeways. -/
inductive LoadStop where
  | status (n : Nat)
  | need (rs : List RemNeed)

/-- Read bytes of an object: RD alone is needed, a page without it gives PERM, an unmapped one XLATE. -/
def objRead (s : State) (c : Acc) (va n : Nat) : Except LoadStop (List Byte) :=
  match readClean s c va n with
  | .ok bs _ => .ok bs
  | .fail e _ => .error (.status (if e = .xlate then 3 else 4))
  | .need rs => .error (.need rs)

/-- FORMAT unless a rule holds. -/
def rule (ok : Bool) : Except LoadStop Unit := if ok then .ok () else .error (.status 2)

/-- A header (R311). -/
structure ObjHead where
  ldep : Bool
  nkern : Nat
  textOff : Nat
  textLen : Nat
  dataOff : Nat
  dataLen : Nat
  ktab : Nat
  img : Nat
  deriving DecidableEq, Repr

/-- First byte after the object: after its text or its data. -/
def ObjHead.size (h : ObjHead) : Nat := Nat.max (h.textOff + h.textLen) (h.dataOff + h.dataLen)

/-- A number inside some bytes. -/
def numAt (bs : List Byte) (o n : Nat) : Nat := leNat ((bs.drop o).take n)

/-- Read and check the header. -/
def readHead (s : State) (c : Acc) (va : Nat) : Except LoadStop ObjHead := do
  let bs ← objRead s c va 64
  let fl := numAt bs 6 2
  let h : ObjHead := ⟨bit fl 0, numAt bs 8 4, numAt bs 16 8, numAt bs 24 8, numAt bs 32 8, numAt bs 40 8, numAt bs 48 8,
    numAt bs 56 8⟩
  rule (va % 65536 == 0 && numAt bs 0 4 == 0x52594731 && numAt bs 4 2 == 1 && decide (fl < 4) && numAt bs 12 4 == 0)
  rule (decide (1 ≤ h.nkern) && decide (h.nkern ≤ 1024) && h.textOff % 65536 == 0 && h.textOff != 0 && h.textLen % 4 == 0)
  rule ((h.dataOff == 0) == (h.dataLen == 0) && decide (va + h.size ≤ 2 ^ 55))
  rule (decide (h.ktab + 64 * h.nkern ≤ h.size))
  pure h

/-- Read and check lane-function entries (R313). -/
def readFns (s : State) (c : Acc) (h : ObjHead) : Nat → Nat → Except LoadStop (List LaneFn)
  | 0, _ => pure []
  | n + 1, va => do
    let bs ← objRead s c va 16
    let f : LaneFn := ⟨numAt bs 0 8, numAt bs 8 2, numAt bs 10 1⟩
    rule (f.off % 4 == 0 && decide (1 ≤ f.len) && decide (f.len ≤ 64) && (f.results == 1 || f.results == 2)
      && numAt bs 11 5 == 0 && decide (f.off + 4 * f.len ≤ h.textLen))
    let t ← readFns s c h n (va + 16)
    pure (f :: t)

/-- Read and check kernel entries (R312). -/
def readKernels (s : State) (c : Acc) (va : Nat) (h : ObjHead) : Nat → Nat → Except LoadStop (List Kernel)
  | 0, _ => pure []
  | n + 1, o => do
    let bs ← objRead s c (va + o) 64
    let entry := numAt bs 0 8
    let loopt := numAt bs 8 8
    let lft := numAt bs 16 8
    let nlf := numAt bs 24 2
    rule (entry % 4 == 0 && decide (entry < h.textLen) && loopt % 32 == 0 && decide (loopt + 32 ≤ h.size) && decide (nlf ≤ 32)
      && (nlf == 0 || lft != 0) && decide (lft + 16 * nlf ≤ h.size) && decide (numAt bs 26 1 < 4) && decide (numAt bs 27 1 < 16)
      && decide (numAt bs 28 4 < 4096) && decide (numAt bs 32 8 < h.size) && numAt bs 40 24 == 0)
    let _ ← objRead s c (va + loopt) 32
    let fns ← readFns s c h nlf (va + lft)
    let t ← readKernels s c va h n (o + 64)
    pure (⟨entry, numAt bs 26 1, numAt bs 28 4, fns⟩ :: t)

/-- Read and check the image list up to its all-zero entry; how many ranges it has (R313). -/
def readImages (s : State) (c : Acc) (va : Nat) (h : ObjHead) : Nat → Nat → Except LoadStop Nat
  | 0, _ => .error (.status 2)
  | n + 1, o => do
    rule (decide (o + 16 ≤ h.size))
    let bs ← objRead s c (va + o) 16
    if bs.all (· == 0) then pure 0
    else do
      let lg := numAt bs 14 1
      rule (decide (9 ≤ lg) && decide (lg ≤ 16) && numAt bs 15 1 == 0 && decide (numAt bs 0 8 + numAt bs 8 6 ≤ h.size))
      let k ← readImages s c va h n (o + 16)
      pure (k + 1)

/-- Read and check an object. -/
def readObject (s : State) (c : Acc) (va : Nat) : Except LoadStop (ObjHead × List Kernel) := do
  let h ← readHead s c va
  let ks ← readKernels s c va h h.nkern h.ktab
  let n ← if h.img = 0 then pure 0 else readImages s c va h (h.size / 16 + 1) h.img
  rule (h.ldep == (n != 0))
  pure (h, ks)

/-! ### The slots (R314, R317) -/

/-- A free slot. -/
def CodeSlot.init : CodeSlot := ⟨0, 0, 0, .free, 0, 0, [], 0⟩

/-- The GENs of slots that are not free. -/
def heldGens (x : Polder) : List Nat := (x.code.toList.filter fun c => !decide (c.st = .free)).map CodeSlot.gen

/-- The first number after g, modulo 65,536, that is neither 0 nor held. -/
def nextGen (held : List Nat) : Nat → Nat → Nat
  | 0, g => g
  | n + 1, g =>
    let h := (g + 1) % 65536
    if h = 0 ∨ held.contains h then nextGen held n h else h

/-- PGEN advances by one (R314). -/
def advanceGen (x : Polder) : Polder := { x with pgen := nextGen (heldGens x) 66 x.pgen }

/-- CODERES after a LOAD. -/
def loadResult (gen status : Nat) : Word64 := BitVec.ofNat 64 ((gen <<< 48) + status)

/-- CODERES after an UNLOAD: the GEN of the last LOAD stays. -/
def unloadResult (x : Polder) (status : Nat) : Word64 := BitVec.ofNat 64 ((fld x.coderes 63 48 <<< 48) + status)

/-- The results of reads leave a queue once the object has been read. -/
def dropReads (h : HostQueue) : HostQueue :=
  { h with remDone := h.remDone.filter fun r => match r.op with
      | .read _ => false
      | _ => true }

/-- CODE_LOAD (R314): the object is checked and takes a free slot with GEN = PGEN. FULL comes after the checks. -/
def execCodeLoad (p : PolderNo) (v : Word64) (s : State) : Out :=
  let pn := p.toNat
  let q := fld v 61 56
  let va := fld v 54 0
  let h := getQueue s pn q
  let x := advanceGen (getPolder s pn)
  let set (x : Polder) : Out := .next (updQueue (setPolder s pn x) pn q dropReads)
  let refuse (n : Nat) : Out := set { x with coderes := loadResult 0 n }
  match readObject s (cpAcc pn h.root h.remDone) va with
  | .error (.need rs) =>
    let s1 := askAll s (.packet pn q) rs
    .next { s1 with sched := s1.sched ++ [.event (.codeLoad p v)] }
  | .error (.status n) => refuse n
  | .ok (o, ks) =>
    match firstIx (fun c : CodeSlot => decide (c.st = .free)) x.code.toList with
    | none => refuse 1
    | some e =>
      let c : CodeSlot := ⟨va, x.pgen, 0, .loaded, o.textOff, o.textLen, ks, 0⟩
      set { x with code := vset x.code e c, coderes := loadResult x.pgen 0 }

/-- CODE_UNLOAD (R314, R317). -/
def execCodeUnload (p : PolderNo) (v : Word64) (s : State) : Out :=
  let x := advanceGen (getPolder s p.toNat)
  match firstIx (fun c : CodeSlot => decide (c.st = .loaded) && c.gen == fld v 15 0) x.code.toList with
  | none => .next (setPolder s p.toNat { x with coderes := unloadResult x 5 })
  | some e =>
    let c := vget CodeSlot.init x.code e
    .next (setPolder s p.toNat { x with code := vset x.code e { c with st := .unloading, ugen := x.pgen, passed := 0 },
                                        coderes := unloadResult x 0 })

/-- A task of a slot runs on: its blocks, those saved among them, have not all halted, and it has not ended (R317, log 27). -/
def slotBusy (x : Polder) (e : Nat) (c : CodeSlot) : Bool :=
  x.tasks.any fun t => t.2.slot == e && t.2.gen == c.gen && t.2.ended.isNone && t.2.halted != t.2.nblocks

/-- The task of a block runs from a slot that is unloading, with UGEN at most u. -/
def unloadingBy (x : Polder) (p u : Nat) (b : Block) : Bool :=
  match x.clusters.find? fun c => c.cid == b.cid with
  | some c => match mapGet x.tasks c.handle with
    | some t =>
      let d := vget CodeSlot.init x.code t.slot
      c.creator == p && decide (d.st = .unloading) && d.gen == t.gen && decide (d.ugen ≤ u)
    | none => false
  | none => false

/-- A CU can pass generation u (R317): it holds no resident block of an unloading slot with UGEN at most u. -/
def cuPasses (x : Polder) (p u cu : Nat) : Bool :=
  !x.blocks.any fun e => (match e.2.place with
    | some y => y.1 == cu
    | none => false) && unloadingBy x p u e.2

/-- CODE_SLOT_FREE (R317): the CUs that can pass UGEN pass it; the slot becomes free once every CU and every saved context
of its tasks has passed. -/
def execCodeSlotFree (p : PolderNo) (e : BitVec 6) (s : State) : Out :=
  let x := getPolder s p.toNat
  let c := vget CodeSlot.init x.code e.toNat
  if c.st = .unloading then
    let now := (upTo 12).foldl (fun m k => if cuPasses x p.toNat c.ugen k then setBit m k true else m) c.passed
    let c1 := if now = 4095 ∧ slotBusy x e.toNat c = false then CodeSlot.init else { c with passed := now }
    .next (setPolder s p.toNat { x with code := vset x.code e.toNat c1 })
  else unchanged s

end Sys2Proof.Machine
end

