-- ==== Sys2Proof/Machine/FaultQueue.lean ====
section
/-! DEFINITION. The fault queue of a polder and the resolution of its records (R248 to R251). -/

namespace Sys2Proof.Machine

/-- Records of the ring, zero where LOGN puts it out of service (R248). -/
def FaultQueue.size (f : FaultQueue) : Nat :=
  let l := fld f.fqring 4 0
  if 6 ≤ l ∧ l ≤ 14 then 2 ^ l else 0

/-- A record can be written now: EN = 1, a ring in service, and a place that leaves one free. -/
def FaultQueue.ready (f : FaultQueue) : Bool :=
  flag f.fqctl 0 && f.size != 0 && (f.index + 1) % f.size != fld f.fqhead 15 0

/-- FAULT_RECORD_WRITE (R248, R249): the oldest waiting record is written, with its message when IEN = 1. Without the PCIe
interface there is no ring to write (R273). -/
def execFaultRecordWrite (p : PolderNo) (s : State) : Out :=
  let x := getPolder s p.toNat
  let f := x.fq
  match f.waiting with
  | [] => unchanged s
  | r :: t =>
    if f.ready = false ∨ s.dev.pcieUp = false then unchanged s
    else
      let last := (r.getD 7 0) ||| (if f.phase then 0x8000000000000000 else 0)
      let bytes := ((r.take 7) ++ [last]).flatMap fun w => leBytes 8 w.toNat
      let i := (f.index + 1) % f.size
      let f1 := { f with waiting := t, index := i, phase := if i = 0 then !f.phase else f.phase }
      let s1 := setPolder s p.toNat { x with fq := f1 }
      let s2 := busWrite s1 ((fld f.fqring 63 12 <<< 12) + 64 * f.index) bytes
      .next (if flag f.fqctl 2 then sendMsix s2 (.vf (BitVec.ofNat 7 (8 * p.toNat))) (fld f.fqctl 39 36) else s2)

/-- FQRING_WRITE (R248): ignored while EN = 1. -/
def execFqringWrite (p : PolderNo) (v : Word64) (s : State) : Out :=
  .next (updPolder s p.toNat fun x =>
    if flag x.fq.fqctl 0 then x
    else { x with fq := { x.fq with fqring := v &&& ringMask, index := 0, phase := true } })

/-- A rejected resolution sets ERR and changes nothing else (R250). -/
def rejectResolution (s : State) (p : Nat) : Out :=
  .next (updPolder s p fun x => { x with fq := { x.fq with fqctl := x.fq.fqctl ||| 8 } })

/-- The suspended context that a resolution names, with a resume point that it allows, or its rejection. -/
def resolving (p : PolderNo) (ctx : BitVec 32) (ok : Resume → Bool) (s : State) (k : BlkId → Block → Out) : Out :=
  match getBlock s ⟨p.toNat, ctx.toNat⟩ with
  | none => rejectResolution s p.toNat
  | some b => if b.status == .suspended && ok b.resume then k ⟨p.toNat, ctx.toNat⟩ b else rejectResolution s p.toNat

/-- The block is ready to be placed again, and with its last record its cluster (R234). -/
def rejoin (s : State) (id : BlkId) (b : Block) : State :=
  let b1 := { b with status := .preempted }
  let s1 := writeHeader (setBlock s id b1) id b1
  updCluster s1 id.p b.cid fun c => { c with suspended := c.ctxs.any fun x => match getBlock s1 ⟨id.p, x⟩ with
    | some y => y.status == .suspended
    | none => false }

/-- The state in which a block continues at its resume point (R244). -/
def resumed (b : Block) : Block :=
  match b.resume with
  | .after => { b with pc := b.pc + 4, prog := [], stored := false }
  | .strip => restoreBlock b
  | _ => b

/-- FQRES_RESUME (R250). -/
def execFqresResume (p : PolderNo) (ctx : BitVec 32) (s : State) : Out :=
  resolving p ctx (fun r => r != .none) s fun id b => .next (rejoin s id (resumed b))

/-- FQRES_SKIP (R250): what the instruction had done before it was saved stands (R253), and it takes no further effect; the
members after a skipped convoy member issue as a convoy of their own. -/
def execFqresSkip (p : PolderNo) (ctx : BitVec 32) (s : State) : Out :=
  resolving p ctx (fun r => r == .at) s fun id b =>
    let c := match b.prog with
      | x :: _ => x.apply b.core
      | [] => b.core
    let fl := allFlags ((b.mmad.map MmadProg.flags).getD [])
    .next (rejoin s id { b with core := { c with fstat := c.fstat ||| BitVec.ofNat 64 fl }, pc := b.pc + 4, prog := [], stored := false,
                                skipC := decide (1 < b.convoy ∨ b.openW ≠ []), convoy := 0, openW := [], mmad := none })

/-- FQRES_KILL (R250, R251). -/
def execFqresKill (p : PolderNo) (ctx : BitVec 32) (s : State) : Out :=
  resolving p ctx (fun r => r != .none) s fun id b =>
    match clusterOf s id.p b.cid with
    | some c => .next (endTask s c.creator c.handle b.tcause)
    | none => rejectResolution s p.toNat

end Sys2Proof.Machine
end

