-- ==== Sys2Proof/Machine/Polders.lean ====
section
/-! DEFINITION. Polders, sluices, reset, voted control, hand-over and attestation (R264 to R283): hallmark chains, the
registers of partitions and sluices, the reset of one polder, machine checks, control firmware, and quotes. -/

namespace Sys2Proof.Machine

/-! ### Hallmark chains (R280) -/

/-- The bytes of a register. -/
def wordBytes (w : Word64) : List Byte := leBytes 8 w.toNat

/-- A digest of no bytes at all: zero (R280). -/
def noDigest : List Byte := List.replicate 32 0

/-- A hallmark record of 64 bytes. -/
def recordBytes (ty pol seq value : Nat) (digest : List Byte) : List Byte :=
  leBytes 4 (ty + 256 * pol) ++ leBytes 4 seq ++ leBytes 8 value ++ digest.take 32
    ++ List.replicate (32 - (digest.take 32).length) 0 ++ List.replicate 16 0

/-- A record enters the chain of a polder. -/
def polderRecord (s : State) (p ty value : Nat) (digest : List Byte) : State :=
  updPolder s p fun x =>
    let r := recordBytes ty p (Config.firstSeq + x.records.length) value digest
    { x with chain := shake256 (x.chain ++ r), records := x.records ++ [r] }

/-- A record enters the device chain. -/
def deviceRecord (s : State) (ty value : Nat) (digest : List Byte) : State :=
  updDev s fun d =>
    let r := recordBytes ty 255 (Config.firstSeq + d.records.length) value digest
    { d with chain := shake256 (d.chain ++ r), records := d.records ++ [r] }

/-- The bytes of a pair of dwords. -/
def pairBytes (e : Word64 × Word64) : List Byte := wordBytes e.1 ++ wordBytes e.2

/-- The windows of a polder in the order of its management block, and S2ROOT (R266, R280). -/
def windowBytes (x : Polder) : List Byte :=
  (x.pcieWin.toList ++ x.regWin.toList ++ x.dwin.toList).flatMap pairBytes ++ wordBytes x.s2root

/-- The record of a release (R280, type 0x03). -/
def releaseRecord (s : State) (p : Nat) : State :=
  let x := getPolder s p
  polderRecord s p 3 x.pctl.toNat (shake256 (windowBytes x))

/-! ### Sluices (R267 to R269) -/

/-- The window lies in the target polder's HBM and is not empty (R267). -/
def windowInside (e : Word64 × Word64) : Bool :=
  let (b, n) := slWindow e
  let t := fld e.1 3 0
  n != 0 && decide (t * polderBytes ≤ b) && decide (b + n ≤ (t + 1) * polderBytes)

/-- Request e of polder r is open by its registers (R268). -/
def sluiceMatches (s : State) (r : Nat) (e : Word64 × Word64) : Bool :=
  flag e.1 63 && windowInside e && (matchingGrant s r (fld e.1 3 0) e).isSome

/-- The same sluice: target and window. -/
def sameSluice (e f : Word64 × Word64) : Bool :=
  flag e.1 63 == flag f.1 63 && fld e.1 3 0 == fld f.1 3 0 && fld e.1 51 16 == fld f.1 51 16 && fld e.2 31 0 == fld f.2 31 0

/-- Request k of polder r. -/
def getRequest (s : State) (r k : Nat) : Word64 × Word64 := vget (0, 0) (getPolder s r).slreq k

/-- The records of an opening or a closing, in the chains of the reader and of the target (R268, R280). -/
def sluiceRecords (s : State) (ty r : Nat) (e : Word64 × Word64) (g : Option (Nat × (Word64 × Word64))) : State :=
  let t := fld e.1 3 0
  let s1 := polderRecord s r ty t (shake256 (pairBytes e))
  match g with
  | some x => polderRecord s1 t ty r (shake256 (pairBytes x.2))
  | none => s1

/-- Bring request k of polder r up to date after a register write that led from s0 to s (R268, R269). -/
def settleSluice (s0 : State) (s : State) (rk : Nat × Nat) : State :=
  let (r, k) := rk
  let old := getRequest s0 r k
  let new := getRequest s r k
  let moved := !sameSluice old new
  let ok := sluiceMatches s r new
  let wasOpen := bit (getPolder s r).slOpen k
  let s1 :=
    if wasOpen && (moved || !ok) then
      let (b, n) := slWindow old
      let s' := updPolder s r fun x => { x with slOpen := setBit x.slOpen k false, closing := x.closing ++ [⟨k, b, n⟩] }
      sluiceRecords s' 5 r old (matchingGrant s0 r (fld old.1 3 0) old)
    else s
  if ok && (moved || !wasOpen) then
    let s' := updPolder s1 r fun x => { x with slOpen := setBit x.slOpen k true, slDown := setBit x.slDown k false }
    sluiceRecords s' 4 r new (matchingGrant s r (fld new.1 3 0) new)
  else if moved then updPolder s1 r fun x => { x with slDown := setBit x.slDown k false }
  else s1

/-- The requests of all polders that name a target. -/
def requestsInto (s : State) (t : Nat) : List (Nat × Nat) :=
  (upTo 16).flatMap fun r => (requests (getPolder s r)).filterMap fun e =>
    if fld e.2.1 3 0 == t then some (r, e.1) else none

/-- The RW bits of the dwords of an entry (R267). -/
def slMask (hi : Bool) : Word64 := if hi then 0x00000000FFFFFFFF else 0xC00FFFFFFFFF000F

/-- Write one dword of a pair. -/
def pairPut (e : Word64 × Word64) (hi : Bool) (v : Word64) : Word64 × Word64 := if hi then (e.1, v) else (v, e.2)

/-- SLUICE_ENTRY_WRITE (R267, R268): a dword of SLREQ or SLGRANT, and every sluice that it opens or closes. -/
def execSluiceEntryWrite (p : PolderNo) (grant : Bool) (k : BitVec 3) (hi : Bool) (v : Word64) (s : State) : Out :=
  let v := v &&& slMask hi
  let put (l : Vector (Word64 × Word64) 8) : Vector (Word64 × Word64) 8 :=
    vset l k.toNat (pairPut (vget (0, 0) l k.toNat) hi v)
  if grant then
    let s1 := updPolder s p.toNat fun x => { x with slgrant := put x.slgrant }
    .next ((requestsInto s1 p.toNat).foldl (settleSluice s) s1)
  else
    .next (settleSluice s (updPolder s p.toNat fun x => { x with slreq := put x.slreq }) (p.toNat, k.toNat))

/-- An access admitted through a closed sluice is still to be performed: a buffered store or a card (R268). -/
def closeBusy (x : Polder) (c : Closing) : Bool :=
  (x.blocks.any fun b => b.2.sbuf.any fun e => match e.loc with
    | .pa a => overlaps a e.size c.base c.bytes
    | .aper _ => false)
  || x.cards.any fun d => (d.rdPa ++ d.wrPa).any fun r => overlaps r.pa r.len c.base c.bytes

/-- SLUICE_CLOSE_COMPLETE (R268). -/
def execSluiceCloseComplete (p : PolderNo) (k : BitVec 3) (s : State) : Out :=
  .next (updPolder s p.toNat fun x => { x with closing := x.closing.filter fun c => c.k != k.toNat || closeBusy x c })

/-- Every sluice into a polder goes down until a matching grant is written again (R269). -/
def sluicesDown (s : State) (t : Nat) : State :=
  (upTo 16).foldl (fun s r =>
    if r = t then s
    else updPolder s r fun x =>
      let hit := (requests x).filter fun e => bit x.slOpen e.1 && fld e.2.1 3 0 == t
      hit.foldl (fun x e => { x with slOpen := setBit x.slOpen e.1 false, slDown := setBit x.slDown e.1 true }) x) s

/-! ### The owner map (R265) -/

/-- A write of the owner map takes effect (R265). -/
def putOwner (p : Nat) (s : State) (w : OwnerReg × Word64) : State :=
  match w.1 with
  | .s2root => updPolder s p fun x => { x with s2root := w.2 &&& 0x000FFFFFFFFF0000 }
  | .ctxpool => updPolder s p fun x => { x with ctxpool := w.2 &&& 0x000FFFFFFFFFFFFF }
  | .lmi =>
    let v := w.2 &&& 1
    polderRecord (updPolder s p fun x => { x with lmi := v }) p 7 v.toNat noDigest

/-- The writes that wait take effect once every block of the polder is at rest (R252, R265). -/
def settleOwner (s : State) (p : Nat) : State :=
  let x := getPolder s p
  if x.ownerWrites.isEmpty || x.blocks.any fun e => e.2.begun then s
  else x.ownerWrites.foldl (putOwner p) (updPolder s p fun x => { x with ownerWrites := [] })

/-! ### The reset of one polder (R271, R272) -/

/-- A context number that no block has: the issuer of a card whose task is gone. -/
def noCtx : Nat := 65536

/-- A task has a block placed in polder p, or waiting for placement there. -/
def livesIn (s : State) (p creator handle : Nat) : Bool :=
  (getPolder s p).clusters.any fun c => c.creator == creator && c.handle == handle && (c.ctxs.isEmpty
    || c.ctxs.any fun x => match getBlock s ⟨p, x⟩ with
      | some b => b.status != .halted
      | none => false)

/-- A task of a lost polder leaves another polder: its cards run on with nobody to record them (R215), and its contexts
return to the pool. Its blocks go at once, also one whose instruction has begun (DESIGN CHOICE, log 107). -/
def orphanTask (creator handle : Nat) (s : State) (q : Nat) : State :=
  let cs := (getPolder s q).clusters.filter fun c => c.creator == creator && c.handle == handle
  let mine (n : Nat) : Bool := cs.any fun c => c.ctxs.contains n
  let s1 := updPolder (cs.foldl (fun s c => c.ctxs.foldl (fun s x => disown s ⟨q, x⟩) s) s) q fun x =>
    { x with cards := mapIf (fun c => mine c.ctx) (fun c => { c with ctx := noCtx }) x.cards,
             clusters := x.clusters.filter (fun c => !(c.creator == creator && c.handle == handle)),
             blocks := x.blocks.filter fun b => !mine b.1 }
  settleOwner s1 q

/-- What the loss of polder p does elsewhere (R269, R272, R273): tasks with a block in p end with SLUICE_DOWN, p's own
tasks end without an entry, sluices into p go down, and answers to p's requests are discarded. The CUs of p stop without
saving: no header of p's contexts is written (R271). -/
def dropPolder (s : State) (p : Nat) : State :=
  let lost := (upTo 16).flatMap fun c => if c = p then []
    else ((getPolder s c).tasks.filter fun t => livesIn s p c t.1).map fun t => (c, t.1)
  let s0 := updPolder s p fun x => { x with clusters := [], blocks := [] }
  let s1 := lost.foldl (fun s t =>
    endTask (updTask s t.1 t.2 fun k => { k with faulted := some 0x10 }) t.1 t.2 0x10) s0
  let s2 := (getPolder s1 p).tasks.foldl (fun s t =>
    (upTo 16).foldl (orphanTask p t.1) (endTask s p t.1 0x10)) s1
  let s3 := updDev s2 fun d => { d with outstanding := d.outstanding.filter fun o => o.p != p }
  sluicesDown s3 p

/-- HOSTATE after a machine check or reset: a hand-over not yet committed has failed (R283). -/
def failHandover (h : Nat) : Nat := if h = 1 ∨ h = 2 then 4 else h

/-- A polder with its registers, machines and tables at their reset values, but for what R271 keeps. -/
def resetPolder (x : Polder) (st : PState) : Polder :=
  { Polder.init with st := st, hbmLow := x.hbmLow, clock := x.clock, stalled := x.stalled, pctl := x.pctl,
                     pcieWin := x.pcieWin, regWin := x.regWin, resetJob := x.resetJob, lgc := x.lgc, slotu := x.slotu,
                     hostate := failHandover x.hostate, svn := x.svn, digest := x.digest, chain := x.chain,
                     records := x.records }

/-- The engine cards of a polder end with ABORTED (R211, R215, R271). -/
def abortCards (s : State) (p : Nat) : State := (getPolder s p).cards.foldl (fun s c => endCard s p c 6 0 0 []) s

/-- Steps 1 to 3: the polder stops (R271). -/
def beginReset (s : State) (p : Nat) (scrub : Bool) (pctl : Option Word64) : State :=
  let x := getPolder s p
  let job : ResetJob := ⟨scrub, x.st, pctl⟩
  updPolder (dropPolder (abortCards s p) p) p fun y => { resetPolder y .resetting with resetJob := some job }

/-- Lines of a polder. -/
def polderLine (p line : Nat) : Bool := line / (polderBytes / 128) == p

/-- Steps 4 to 7: caches and, under SCRUB, the HBM are cleared; registers take their reset values; the record; the gates
open (R271). An error in a cached copy alone goes with the copy. -/
def endReset (s : State) (p : Nat) (j : ResetJob) : State :=
  let s1 :=
    if j.scrub then
      { s with hbm := memClear s.hbm (p * polderBytes) ((p + 1) * polderBytes),
               poison := s.poison.filter fun e => !polderLine p e.1 }
    else { s with poison := s.poison.filter fun e => !(polderLine p e.1 && e.2.2) }
  let s2 := updPolder (sluicesDown s1 p) p fun y =>
    { resetPolder y j.rate with pctl := j.pctl.getD y.pctl, resetJob := none }
  polderRecord s2 p 6 (if j.scrub then 2 else 1) noDigest

/-- A PRESET write (R266, R271): it begins a reset of a polder that is released. On a polder that is resetting it also
carries the reset on to its end. -/
def presetOp (scrub : Bool) (p : Nat) (s : State) : Out :=
  let x := getPolder s p
  match x.resetJob with
  | some j => .next (endReset s p { j with scrub := j.scrub || scrub })
  | none => if polderDown s p then unchanged s else .next (beginReset s p scrub none)

/-- PRESET_KEEP (R271). -/
def execPresetKeep (p : PolderNo) (s : State) : Out := presetOp false p.toNat s
/-- PRESET_SCRUB (R271). -/
def execPresetScrub (p : PolderNo) (s : State) : Out := presetOp true p.toNat s

/-! ### Partitions (R264 to R266) -/

/-- RW bits of PCTL. -/
def pctlMask : Word64 := 0x80000000000F1F10

/-- A value of PCTL that keeps R264. -/
def pctlLegal (p : Nat) (v : Word64) : Bool :=
  let f := fld v 19 16
  let n := fld v 12 8
  !flag v 63 || ((n == 1 || n == 2 || n == 4 || n == 8 || n == 16) && f % n == 0 && decide (f ≤ p) && decide (p < f + n))

/-- PCTL_WRITE (R266): a change while EN = 1 resets the polder with scrub, and then applies the value. -/
def execPctlWrite (p : PolderNo) (v : Word64) (s : State) : Out :=
  let x := getPolder s p.toNat
  let v := v &&& pctlMask
  if !pctlLegal p.toNat v || v == x.pctl then unchanged s
  else match x.resetJob with
  | some j => .next (updPolder s p.toNat fun y => { y with resetJob := some { j with scrub := true, pctl := some v } })
  | none =>
    if flag x.pctl 63 && !polderDown s p.toNat then .next (beginReset s p.toNat true (some v))
    else .next (updPolder s p.toNat fun y => { y with pctl := v })

/-- Pre-empt every resident cluster of a polder. -/
def preemptAll (s : State) (p : Nat) : State :=
  (getPolder s p).clusters.foldl (fun s c => if c.resident then preempt s p c else s) s

/-- OWNER_MAP_WRITE (R265): every block is pre-empted, and the write takes effect when all are at rest. -/
def execOwnerMapWrite (p : PolderNo) (r : OwnerReg) (v : Word64) (s : State) : Out :=
  .next (settleOwner (updPolder (preemptAll s p.toNat) p.toNat fun x => { x with ownerWrites := x.ownerWrites ++ [(r, v)] }) p.toNat)

/-! ### Voted control (R274 to R276) -/

/-- A count of 16 bits that saturates (R276). -/
def count16 (n : Nat) : Nat := Nat.min (n + 1) 65535

/-- Place of a machine among the three. -/
def machineIx : VotedMachine → Nat
  | .commandProcessor => 0 | .scheduler => 1 | .walkers => 2

/-- Count a dissent. -/
def countDissent (x : Polder) : VotedMachine → Polder
  | .commandProcessor => { x with dcp := count16 x.dcp }
  | .scheduler => { x with dsched := count16 x.dsched }
  | .walkers => { x with dwalk := count16 x.dwalk }

/-- Count a completed resync. -/
def countResync (x : Polder) : VotedMachine → Polder
  | .commandProcessor => { x with rcp := count16 x.rcp }
  | .scheduler => { x with rsched := count16 x.rsched }
  | .walkers => { x with rwalk := count16 x.rwalk }

/-- The write or atomic of the packet in hand had been performed (R275): a step has, or its request has been answered with
OK. A home answers PERM or DOWN, and POISON to an atomic, without performing anything (R27, log 56); of a request without an
answer, or whose answer was lost on its way, nobody says so, and the value is free (log 77). -/
def jobPerformed (s : State) (p : Nat) (j : CpJob) : Bool :=
  (j.pkt.ty == 4 || j.pkt.ty == 5 || j.pkt.ty == 6) && (j.wrote || j.needs.any fun n =>
    match remFind (getQueue s p j.q).remDone n.1 n.2.1 n.2.2 with
    | some r => r.status == 0 || (decide (3 < r.status) && Config.remotePerformed p j.pkt.sn)
    | none => Config.remotePerformed p j.pkt.sn)

/-- The requests of a packet in hand are given up: their results and answers to come are discarded (R29, R275). -/
def dropJob (s : State) (p : Nat) (j : CpJob) : State :=
  let mine (o : OutReq) : Bool := decide (o.who = .packet p j.q) && j.needs.any fun n =>
    o.dom == n.1 && o.addr == n.2.1 && decide (o.op = n.2.2)
  updPolder (dropUsed (updDev s fun d => { d with outstanding := d.outstanding.filter fun o => !mine o }) p j.q j.needs) p
    fun x => { x with cpBusy := none }

/-- A started packet that a machine check ends with CONTROL_CHECK (R275). -/
def checkPacket (p q : Nat) (job : Option CpJob) (s : State) (e : Started) : State :=
  let mine := job.filter fun j => j.q == q && j.pkt.sn == e.sn
  let done := match mine with
    | some j => jobPerformed s p j
    | none => false
  let s0 := match mine with
    | some j => dropJob s p j
    | none => s
  let s1 := updQueue s0 p q fun h => { h with started := h.started.filter (fun y => y.sn != e.sn), waitIx := none,
                                              skip := 0, qctl := h.qctl ||| 8 }
  addEntry s1 p q 0 e.tag e.off e.ty (if done then 1 else 0) 0x0B

/-- The machine check (R275, R283). -/
def machineCheck (s : State) (p : Nat) : State :=
  let s1 := updPolder s p fun x =>
    { x with mchk := count16 x.mchk, votes := Vector.replicate 3 none, fw := Vector.replicate 2 FwCore.init,
             hostate := failHandover x.hostate }
  (upTo 64).foldl (fun s q =>
    ((getQueue s p q).started.filter fun e => e.ty != 2 && e.ty != 3).foldl (checkPacket p q (getPolder s p).cpBusy) s) s1

/-- VOTE_DISSENT (R274, R275): the copy is resynchronised; a dissent while the others run in compare mode is a machine
check. -/
def execVoteDissent (p : PolderNo) (m : VotedMachine) (copy : BitVec 2) (s : State) : Out :=
  if copy = 3 then unchanged s
  else
    let s1 := updPolder s p.toNat fun x => countDissent x m
    match vget none (getPolder s p.toNat).votes (machineIx m) with
    | some _ => .next (machineCheck s1 p.toNat)
    | none => .next (updPolder s1 p.toNat fun x => { x with votes := vset x.votes (machineIx m) (some copy) })

/-- RESYNC_COMPLETE (R274, R276). -/
def execResyncComplete (p : PolderNo) (m : VotedMachine) (s : State) : Out :=
  match vget none (getPolder s p.toNat).votes (machineIx m) with
  | some _ => .next (updPolder s p.toNat fun x => countResync { x with votes := vset x.votes (machineIx m) none } m)
  | none => unchanged s

/-- A machine of the polder runs in compare mode. -/
def inCompare (x : Polder) : Bool := x.votes.toList.any Option.isSome

/-- CONTROL_MACHINE_CHECK (R275): the two copies in compare mode disagree. -/
def execControlMachineCheck (p : PolderNo) (s : State) : Out :=
  if inCompare (getPolder s p.toNat) then .next (machineCheck s p.toNat) else unchanged s

/-! ### Live hand-over (R278, R282, R283) -/

/-- The bytes of an image, which the signature and the digest cover: its SVN and its body (R278, R280, log 12). -/
def FwImage.bytes (f : FwImage) : List Byte := leBytes 8 f.svn ++ f.body

/-- An image from its parts. -/
def imageOf (x : Nat × List Byte × List Byte × List Byte) : FwImage := ⟨x.1, x.2.1, x.2.2.1, x.2.2.2⟩

/-- The die manager accepts an image (R278). -/
def imageGood (f : FwImage) : Bool :=
  decide (shake256 f.key = Config.fuseFwkh) && Config.xmssVerify f.key f.bytes f.sig && decide (Config.fuseMinSvn ≤ f.svn)

/-- HOCTL_WRITE (R282): the staged image is verified and loaded into every polder's inactive bank. -/
def execHoctlWrite (v : Word64) (s : State) : Out :=
  let s1 := updDev s fun d => { d with hoctl := v }
  match s.dev.staged with
  | none => .next s1
  | some f =>
    if v ≠ 1 then .next s1
    else
      let load (x : Polder) : Polder :=
        if x.st = .off ∨ x.st = .dead then x
        else if imageGood f then { x with hostate := 2, pendingImage := some (f.svn, shake256 f.bytes) }
        else { x with hostate := 4, pendingImage := none }
      .next { s1 with polders := s1.polders.map load }

/-- A switch can be made (R282, R283): the image is verified, no machine is resyncing, no packet is being processed, and
the machines await no answer of a causeway. -/
def canSwitch (s : State) (p : Nat) : Bool :=
  let x := getPolder s p
  x.hostate == 2 && !inCompare x && x.cpBusy.isNone && s.dev.outstanding.all fun o => match o.who with
    | .packet r _ => r != p
    | _ => true

/-- HANDOVER_SWITCH (R282): the new image takes control, and a record says so. -/
def execHandoverSwitch (p : PolderNo) (s : State) : Out :=
  let x := getPolder s p.toNat
  match x.pendingImage with
  | none => unchanged s
  | some (n, d) =>
    if canSwitch s p.toNat then
      .next (polderRecord (setPolder s p.toNat { x with hostate := 3, svn := n, digest := d, pendingImage := none })
        p.toNat 2 n d)
    else unchanged s

/-! ### Attestation (R279, R281) -/

/-- A list of exactly n bytes. -/
def fixBytes (n : Nat) (l : List Byte) : List Byte := l.take n ++ List.replicate (n - (l.take n).length) 0

/-- The entry of a polder in a quote. -/
def quoteEntry (s : State) (p : Nat) : List Byte :=
  let x := getPolder s p
  let pend := if x.hostate = 1 ∨ x.hostate = 2 then (x.pendingImage.map Prod.snd).getD noDigest else noDigest
  let size := ((partition s p).getD (p, 1)).2
  leBytes 1 p ++ leBytes 1 size ++ leBytes 1 (pstateCode x.st) ++ leBytes 1 x.hostate ++ leBytes 4 x.records.length
    ++ fixBytes 32 x.chain ++ fixBytes 32 pend ++ leBytes 8 x.svn

/-- The quote before its signature. -/
def quoteBody (s : State) (mask : Nat) (nonce : List Byte) : List Byte :=
  leBytes 4 1 ++ leBytes 4 mask ++ fixBytes 32 nonce ++ fixBytes 32 s.dev.chain ++ leBytes 8 s.dev.records.length
    ++ ((upTo 16).filter fun p => bit mask p).flatMap (quoteEntry s)

/-- The polders that a function's request covers. -/
def servedMask (fn : FnId) (mask : Nat) : Nat :=
  match fn with
  | .pf0 => mask
  | .vf v => 1 <<< vfPolder v.toNat

/-- ATTEST_QUOTE (R279, R281): the key index is advanced before the signature leaves. -/
def execAttestQuote (fn : FnId) (nonce : List Byte) (mask : BitVec 16) (s : State) : Out :=
  let i := s.dev.keyIndex
  if 2 ^ 40 ≤ i then .next (updDev s fun d => { d with out := d.out ++ [.keyExhausted fn] })
  else
    let body := quoteBody s (servedMask fn mask.toNat) nonce
    let sig := fixBytes 9893 (Config.xmssSign Config.fuseSeed i body)
    .next (updDev s fun d => { d with keyIndex := i + 1, out := d.out ++ [.doe fn (body ++ sig)] })

/-- ATTEST_LOG (R281): the records of a chain in order. A virtual function sees its own polder's chain and the device's. -/
def execAttestLog (fn : FnId) (chain : Option PolderNo) (s : State) : Out :=
  let recs := match fn, chain with
    | _, none => s.dev.records
    | .pf0, some p => (getPolder s p.toNat).records
    | .vf v, some _ => (getPolder s (vfPolder v.toNat)).records
  .next (updDev s fun d => { d with out := d.out ++ [.doe fn recs.flatten] })

end Sys2Proof.Machine
end

