-- ==== Sys2Proof/Machine/Links.lean ====
section
/-! DEFINITION. The die link under repair (R277) and the receiving side of the causeways (R23 to R29): flits, forwarding,
the target's checks, responses and losses. -/

namespace Sys2Proof.Machine

/-! ### The die link (R277) -/

/-- A die-link module. -/
def getModule (s : State) (m : Nat) : LinkModule := vget ⟨false, 0, 0, false, true⟩ s.dev.modules m

/-- Replace a module. -/
def setModule (s : State) (m : Nat) (x : LinkModule) : State :=
  updDev s fun d => { d with modules := vset d.modules m x }

/-- Spare lanes take the place of failing lanes; past four in a direction the module falls to 32 lanes, and a module at
32 lanes that fails again goes out of service (R277). -/
def repairModule (x : LinkModule) (bad bad2 : Nat) : LinkModule :=
  if x.spares0 + bad ≤ 4 ∧ x.spares1 + bad2 ≤ 4 then { x with spares0 := x.spares0 + bad, spares1 := x.spares1 + bad2 }
  else if x.half then { x with out := true }
  else { x with half := true }

/-- DIE_LINK_REPAIR (R277): traffic of the module pauses, and failing lanes are remapped. -/
def execDieLinkRepair (m : BitVec 6) (bad bad2 : Nat) (s : State) : Out :=
  let x := getModule s m.toNat
  if x.out ∨ x.paused then unchanged s
  else .next (setModule s m.toNat { repairModule x bad bad2 with paused := true })

/-- DIE_LINK_RESUME (R277): the module goes on from its replay buffers. -/
def execDieLinkResume (m : BitVec 6) (s : State) : Out :=
  .next (setModule s m.toNat { getModule s m.toNat with paused := false })

/-! ### Ports -/

/-- Causeway port n. -/
def getPort (s : State) (n : Nat) : Port := vget Port.init s.dev.ports n

/-- Replace a port. -/
def setPort (s : State) (n : Nat) (x : Port) : State := updDev s fun d => { d with ports := vset d.ports n x }

/-- Sequence number a is at or before b, counting modulo 4,096. -/
def seqLe (a b : Nat) : Bool := decide ((b + 4096 - a) % 4096 < 2048)

/-- Flits that an ACK covers leave the replay buffer (R24). -/
def acked (x : Port) (ack : Nat) : Port := { x with ackIn := ack, replay := x.replay.filter fun e => !seqLe e.1 ack }

/-- A link flit that carries no message (R23). -/
def linkFlit (x : Port) (ftype crq crs : Nat) : Port :=
  { x with sent := x.sent ++ [flitBytes (lastSeq x.nextSeq) (lastSeq x.expSeq) ftype crq crs []] }

/-- Resend every flit that is not acknowledged, in order (R24). -/
def resend (x : Port) : Port := { x with sent := x.sent ++ x.replay.map Prod.snd }

/-- CAUSEWAY_REPLAY (R24). -/
def execCausewayReplay (port : BitVec 4) (ack : BitVec 12) (s : State) : Out :=
  let x := getPort s port.toNat
  if x.up && !x.paused then .next (setPort s port.toNat (resend (acked x ack.toNat))) else unchanged s

/-! ### Messages on their way (R25, R26) -/

/-- Fields of a header. -/
structure CwHead where
  addr : Nat
  ddom : Nat
  sdom : Nat
  tag : Nat
  spol : Nat
  opc : Nat
  status : Nat
  afn : Nat
  asz : Bool
  len : Nat

/-- Read a header slot. -/
def cwHead (slot : List Byte) : CwHead :=
  let h0 := leNat (slot.take 8)
  let h1 := leNat ((slot.drop 8).take 8)
  ⟨field h0 63 25, field h0 24 14, field h0 13 3, field h1 63 48, field h1 47 44, field h1 43 40, field h1 39 36,
    field h1 35 32, bit h1 31, field h1 22 16 + 1⟩

/-- A request, as opposed to a response. -/
def CwHead.isReq (h : CwHead) : Bool := h.opc == 1 || h.opc == 2 || h.opc == 3

/-- Data slots behind a header (R25). -/
def CwHead.slots (h : CwHead) : Nat :=
  let bare := h.status == 1 || h.status == 3 || h.status == 4
  if h.opc = 2 ∨ (h.opc = 9 ∧ bare = false) then (h.len + 15) / 16
  else if h.opc = 3 ∨ (h.opc = 11 ∧ bare = false) then 1 else 0

/-- A response to the source of a request. Its ADDR repeats that of the request, and LENM1 of a bare RDATA repeats the
request's: the manual says only what TAG, SPOL, DDOM and SDOM hold (R25). DESIGN CHOICE (log 78). -/
def responseBytes (s : State) (h : CwHead) (status : Nat) (data : List Byte) : List Byte :=
  let opc := h.opc + 8
  let lenm1 := if opc = 9 then h.len - 1 else 0
  leBytes 8 (cwHead0 h.addr h.sdom (fld s.dev.domnum 10 0)) ++ leBytes 8 (cwHead1 h.tag h.spol opc status 0 false lenm1)
    ++ padSlots data

/-- Send a response from a half by the route of its DDOM; with no valid route it is dropped (R26). -/
def sendResponse (s : State) (half dom : Nat) (m : List Byte) : State :=
  match routePort s.dev half dom with
  | some n => { s with dev := enqueue s.dev n false m }
  | none => s

/-- A whole message: taken here, forwarded, answered as UNREACHABLE, or dropped (R26). Without a domain number the ports
carry link traffic only. -/
def routeMessage (port : Nat) (s : State) (slots : List (List Byte)) : State :=
  let h := cwHead (slots.headD [])
  let m := slots.flatten
  if !flag s.dev.domnum 63 then s
  else if h.ddom = fld s.dev.domnum 10 0 then
    let hs := slots.headD []
    let c : CwMsg := ⟨port, leWord (hs.take 8), leWord ((hs.drop 8).take 8), slots.drop 1⟩
    if h.isReq then updDev s fun d => { d with arrivedReq := d.arrivedReq ++ [c] }
    else updDev s fun d => { d with arrivedRsp := d.arrivedRsp ++ [c] }
  else match routePort s.dev (portHalf port) h.ddom with
  | some n => { s with dev := enqueue s.dev n h.isReq m }
  | none => if h.isReq then sendResponse s (portHalf port) h.sdom (responseBytes s h 4 []) else s

/-- The slots of a flit. -/
def flitSlots (flit : List Byte) : List (List Byte) := (upTo 15).map fun i => (flit.drop (8 + 16 * i)).take 16

/-- Cut slots into whole messages: messages, the slots of one that is not yet complete. An unused slot has no code of
R25. -/
def cutMessages : Nat → List (List Byte) → List (List (List Byte)) × List (List Byte)
  | 0, l => ([], l)
  | _ + 1, [] => ([], [])
  | n + 1, x :: t =>
    let h := cwHead x
    if !(h.isReq || h.opc == 9 || h.opc == 10 || h.opc == 11) then cutMessages n t
    else if t.length < h.slots then ([], x :: t)
    else
      let (ms, rest) := cutMessages n (t.drop h.slots)
      ((x :: t.take h.slots) :: ms, rest)

/-- Slots of messages, by channel. -/
def slotCount (isReq : Bool) (ms : List (List (List Byte))) : Nat :=
  ms.foldl (fun (n : Nat) m => if (cwHead (m.headD [])).isReq = isReq then n + m.length else n) 0

/-- The receiver discards a flit and asks for those after the last one it took (R24). -/
def askReplay (x : Port) : Port := { linkFlit x 2 0 0 with replays := x.replays + 1 }

/-- A message flit in order: its messages are taken, and their slots' credits returned. -/
def takeFlit (s : State) (n : Nat) (x : Port) (flit : List Byte) : State :=
  let slots := x.inMsg ++ flitSlots flit
  let (ms, rest) := cutMessages (slots.length + 1) slots
  let x1 := linkFlit { x with expSeq := (x.expSeq + 1) % 4096, inMsg := rest } 3 (slotCount true ms) (slotCount false ms)
  ms.foldl (routeMessage n) (setPort s n x1)

/-- CAUSEWAY_FLIT_RECEIVE (R23, R24). A discarded flit counts for nothing, its ACK and credits included; a paused port takes
none. A flit whose FTYPE is a reserved code is dropped whole, its ACK and credits too, and no replay is asked for (the
model's choice, log 55). -/
def execCausewayFlitReceive (port : BitVec 4) (flit : List Byte) (s : State) : Out :=
  let n := port.toNat
  let x := getPort s n
  if !x.up || x.paused || flit.length != 256 then unchanged s
  else if leNat (flit.drop 248) ≠ crc64nvme (flit.take 248) then .next (setPort s n (askReplay x))
  else
    let d := leNat (flit.take 8)
    let ty := field d 39 36
    let x1 := acked { x with creditQ := x.creditQ + field d 35 28, creditS := x.creditS + field d 27 20 } (field d 51 40)
    if ty = 1 then
      if field d 63 52 = x.expSeq then
        let s1 := takeFlit s n (pumpPort x1) flit
        .next (setPort s1 n (pumpPort (getPort s1 n)))
      else .next (setPort s n (askReplay x))
    else if ty = 2 then .next (setPort s n (resend x1))
    else if ty = 0 ∨ ty = 3 then .next (setPort s n (pumpPort x1))
    else unchanged s

/-! ### Losses (R24, R29) -/

/-- The outstanding request of a source polder with a tag. -/
def findOut (s : State) (p tag : Nat) : Option OutReq := s.dev.outstanding.find? fun o => o.p == p && o.tag == tag

/-- An outstanding request ends: its result reaches the requester. -/
def endRequest (s : State) (o : OutReq) (status : Nat) (data : List Byte) : State :=
  let s1 := updDev s fun d => { d with outstanding := d.outstanding.filter fun y => !(y.p == o.p && y.tag == o.tag) }
  deliverResult s1 o.who ⟨o.dom, o.addr, o.op, status, data⟩

/-- A message that was queued on a port that has gone down: this device's own request fails, another's is answered with
UNREACHABLE, a response is dropped (R24, R26, R29). -/
def failMessage (half : Nat) (s : State) (m : List (List Byte)) : State :=
  let h := cwHead (m.headD [])
  if h.isReq = false then s
  else if h.sdom = fld s.dev.domnum 10 0 then
    match findOut s h.spol h.tag with
    | some o => endRequest s o 5 []
    | none => s
  else sendResponse s half h.sdom (responseBytes s h 4 [])

/-- The messages that a port still holds: unacknowledged, then queued. -/
def heldMessages (x : Port) : List (List (List Byte)) :=
  let slots := x.replay.flatMap fun e => flitSlots e.2
  let whole (m : List Byte) : List (List Byte) := (upTo (m.length / 16)).map fun i => (m.drop (16 * i)).take 16
  (cutMessages (slots.length + 1) slots).1 ++ (x.outReq ++ x.outRsp).map whole

/-- A port goes down (R24, R29). -/
def portDown (s : State) (n : Nat) : State :=
  let x := getPort s n
  if x.up then (heldMessages x).foldl (failMessage (portHalf n)) (setPort s n { Port.init with sent := x.sent }) else s

/-- CAUSEWAY_PORT_DOWN (R24): a paused port that has not retrained. -/
def execCausewayPortDown (port : BitVec 4) (s : State) : Out :=
  if (getPort s port.toNat).paused then .next (portDown s port.toNat) else unchanged s

/-- CAUSEWAY_RETRAIN (R24): at 64 replay requests the port pauses; a paused port has retrained, and resumes from its
replay buffer. -/
def execCausewayRetrain (port : BitVec 4) (s : State) : Out :=
  let x := getPort s port.toNat
  if !x.up then unchanged s
  else if x.paused then .next (setPort s port.toNat (pumpPort (resend { x with paused := false, replays := 0 })))
  else if 64 ≤ x.replays then .next (setPort s port.toNat { x with paused := true })
  else unchanged s

/-- CAUSEWAY_TIMEOUT (R29): no response within the limit. -/
def execCausewayTimeout (p : PolderNo) (tag : BitVec 16) (s : State) : Out :=
  match findOut s p.toNat tag.toNat with
  | some o => .next (endRequest s o 5 [])
  | none => unchanged s

/-! ### The target (R27) -/

/-- A domain-inbound window of polder t admits an access. -/
def dwinAdmits (t : Nat) (w : Word64 × Word64) (sdom addr n : Nat) (wr : Bool) : Bool :=
  let lo := fld w.1 38 16 <<< 16
  let hi := (fld w.2 38 16 + 1) <<< 16
  flag w.1 0 && (!wr || flag w.1 1) && decide (t * polderBytes ≤ lo) && decide (hi ≤ (t + 1) * polderBytes)
    && decide (lo ≤ addr) && decide (addr + n ≤ hi) && decide (fld w.2 63 53 ≤ sdom) && decide (sdom ≤ fld w.2 52 42)

/-- The checks of a target, in order: the first status that applies. A polder that is off is neither resetting nor dead, so that
its windows alone decide. A request that has come in by a port of the half which the die link no longer joins
to its target is answered as UNREACHABLE (log 79). -/
def targetStatus (s : State) (port sdom addr n : Nat) (wr : Bool) : Nat :=
  let t := addr / polderBytes
  let st := (getPolder s t).st
  if 0x8000000000 < addr + n then 1
  else if st = .resetting ∨ st = .dead then 3
  else if halvesJoined s.dev (portHalf port) (t / 8) = false then 4
  else if (getPolder s t).dwin.toList.any fun w => dwinAdmits t w sdom addr n wr then 0 else 1

/-- Perform a request at the home: the state, the status and the data of the response; none for an atomic function that
R25 does not list. -/
def performRequest (s : State) (port : Nat) (h : CwHead) (data : List Byte) : Option (State × Nat × List Byte) :=
  let n := if h.opc = 3 then (if h.asz then 8 else 4) else h.len
  let st := targetStatus s port h.sdom h.addr n (h.opc != 1)
  if h.opc = 3 ∧ 10 < h.afn then none
  else if st ≠ 0 then some (s, st, [])
  else
    let old := memBytes s.hbm h.addr n
    let bad := (poisonIn s h.addr n).isSome
    if h.opc = 1 then some (s, if bad then 2 else 0, old)
    else if h.opc = 2 then some (hbmWrite s h.addr (fixBytes n data) false, 0, [])
    else if bad then some (s, 2, fixBytes 16 old)
    else
      let v := leNat (data.take n)
      let c := leNat ((data.drop 8).take n)
      let s1 := match amoWrite h.afn h.asz (leNat old) v c with
        | some x => hbmWrite s h.addr (leBytes n x) false
        | none => s
      some (s1, 0, fixBytes 16 old)

/-- The header of a message that has arrived. -/
def CwMsg.head (c : CwMsg) : CwHead := cwHead (wordBytes c.h0 ++ wordBytes c.h1)

/-- CAUSEWAY_REQUEST (R27, R28): the oldest request that has arrived. -/
def execCausewayRequest (s : State) : Out :=
  match s.dev.arrivedReq with
  | [] => unchanged s
  | c :: t =>
    let s1 := updDev s fun d => { d with arrivedReq := t }
    let h := c.head
    match performRequest s1 c.port h c.data.flatten with
    | none => .next s1
    | some (s2, st, data) => .next (sendResponse s2 (portHalf c.port) h.sdom (responseBytes s2 h st data))

/-- CAUSEWAY_RESPONSE (R29): the oldest response that has arrived; one that no request waits for is discarded. -/
def execCausewayResponse (s : State) : Out :=
  match s.dev.arrivedRsp with
  | [] => unchanged s
  | c :: t =>
    let s1 := updDev s fun d => { d with arrivedRsp := t }
    let h := c.head
    match findOut s1 h.spol h.tag with
    | none => .next s1
    | some o =>
      if halvesJoined s.dev (portHalf c.port) (o.p / 8) = false then .next s1
      else
      let n := match o.op with
        | .read n => n
        | .write _ => 0
        | .atomic _ dbl _ _ => if dbl then 8 else 4
      .next (endRequest s1 o h.status (c.data.flatten.take n))

end Sys2Proof.Machine
end

