-- ==== Sys2Proof/Machine/Boot.lean ====
section
/-! DEFINITION. Bring-up and what befalls the hardware: the steps of R284 and R285, rail limits (R32), failures (R273),
uncorrectable errors (R147, R260, R263), and inbound PCIe accesses (R21, R267). -/

namespace Sys2Proof.Machine

/-! ### The journal (R284) -/

/-- The level of fallback at which a unit starts: that of the previous boot, or the next one where the journal shows a
failure there; at most `cap`, at which the unit is not started. -/
def startLevel (d : Device) (step unit cap : Nat) : Nat :=
  match d.journal.find? fun r => r.1 == d.boot && r.2.1 == step && r.2.2.1 == unit with
  | some (_, _, _, res, fb) => Nat.min cap (if res = 1 then fb + 1 else fb)
  | none => 0

/-- A unit in the course of a bring-up: it starts unless its level is `cap` or something that it needs is missing. The
journal takes its record. -/
def startUnit (old : Device) (boot step unit cap : Nat) (needs fails : Bool) (j : List (Nat × Nat × Nat × Nat × Nat)) :
    Bool × Nat × List (Nat × Nat × Nat × Nat × Nat) :=
  let lv := startLevel old step unit cap
  let ok := needs && !fails && decide (lv < cap)
  let res := if ok then 0 else if needs then 1 else 2
  (ok, lv, j ++ [(boot, step, unit, res, lv)])

/-- Start the units of a step in order: which came up and at what level, and the journal. -/
def startUnits (old : Device) (boot step cap : Nat) (needs fails : Nat → Bool) :
    List Nat → List (Nat × Nat × Nat × Nat × Nat) → List (Bool × Nat) × List (Nat × Nat × Nat × Nat × Nat)
  | [], j => ([], j)
  | u :: t, j =>
    let (ok, lv, j1) := startUnit old boot step u cap (needs u) (fails u) j
    let (l, j2) := startUnits old boot step cap needs fails t j1
    ((ok, lv) :: l, j2)

/-- Unit u came up. -/
def cameUp (l : List (Bool × Nat)) (u : Nat) : Bool := (l[u]?.map Prod.fst).getD false
/-- The level of unit u. -/
def levelOf (l : List (Bool × Nat)) (u : Nat) : Nat := (l[u]?.map Prod.snd).getD 0

/-- Rate of a stack after full training, in 100 Mb/s, by its fallback (R18, R284). -/
def finalRate : Nat → Nat
  | 0 => 130 | 1 => 100 | _ => 80

/-! ### BRINGUP (R284, R285) -/

/-- The boot number after a given one (R285). -/
def nextBoot (d : Device) : Nat := if d.journal.isEmpty ∨ d.boot + 1 = 2 ^ 32 then 1 else d.boot + 1

/-- What a device reset keeps: the boot flash with its journal, key index and staged image (R278, R279, R284), and what
has already been sent. -/
def resetDevice (d : Device) (boot : Nat) : Device :=
  { Device.init with journal := d.journal, boot := boot, keyIndex := d.keyIndex, staged := d.staged, out := d.out,
                     pcieUp := true, step := 5 }

/-- What came up in a bring-up: die managers, stacks, die link, polders, ports. -/
structure BootPlan where
  dies : List (Bool × Nat)
  hbms : List (Bool × Nat)
  link : List (Bool × Nat)
  polders : List (Bool × Nat)
  ports : List (Bool × Nat)
  journal : List (Nat × Nat × Nat × Nat × Nat)

/-- The control firmware that a boot finds. -/
def bootFw (boot : Nat) : FwImage := imageOf (Config.bootImage boot)

/-- The die-manager image that a boot finds. -/
def dieFw (boot : Nat) : FwImage := imageOf (Config.dieImage boot)

/-- The five steps in order (R284). A unit whose image is not accepted fails (R278). -/
def bootPlan (d : Device) (fails : List BringupUnit) : BootPlan :=
  let boot := nextBoot d
  let has (u : BringupUnit) : Bool := fails.any fun x => decide (x = u)
  let (dies, j1) := startUnits d boot 1 2 (fun _ => true) (fun u => has (.dieManager (u == 1)) || !imageGood (dieFw boot)) (upTo 2) d.journal
  let (hbms, j2) := startUnits d boot 2 3 (fun k => cameUp dies (k / 4)) (fun k => has (.stack (BitVec.ofNat 3 k))) (upTo 8) j1
  let (link, j3) := startUnits d boot 3 3 (fun _ => cameUp dies 0 && cameUp dies 1) (fun _ => has .dieLink) [0] j2
  let ready (p : Nat) : Bool := cameUp dies (p / 8) && cameUp hbms (p / 2) && (decide (p < 8) || cameUp link 0)
  let (polders, j4) := startUnits d boot 4 1 ready (fun p => has (.polder (BitVec.ofNat 4 p)) || !imageGood (bootFw boot)) (upTo 16) j3
  let (ports, j5) := startUnits d boot 5 1 (fun n => cameUp dies (n / 6)) (fun n => has (.port (BitVec.ofNat 4 n))) (upTo 12) j4
  ⟨dies, hbms, link, polders, ports, j5⟩

/-- STATE of a polder after step 4 (R266, R284): off where its half is off or the journal has it fused off. -/
def bootState (b : BootPlan) (p : Nat) : PState :=
  if !cameUp b.dies (p / 8) then .off
  else if cameUp b.polders p then .reduced
  else if levelOf b.polders p = 0 then .dead else .off

/-- A polder as bring-up leaves it: the boot image in control, clocks and stack at their first rates (R285). -/
def bootPolder (b : BootPlan) (boot p : Nat) : Polder :=
  { Polder.init with st := bootState b p, hbmLow := cameUp b.hbms (p / 2), clock := 1800, svn := (bootFw boot).svn,
                     digest := fixBytes 32 (shake256 (bootFw boot).bytes) }

/-- The records of a polder that has been released (R280). -/
def bootRecords (boot : Nat) (s : State) (p : Nat) : State :=
  if polderDown s p then s
  else releaseRecord (polderRecord s p 2 (bootFw boot).svn (shake256 (bootFw boot).bytes)) p

/-- The device after the five steps. -/
def bootDevice (d : Device) (b : BootPlan) (fails : List BringupUnit) : Device :=
  let slow (n : Nat) : Bool := fails.any fun x => decide (x = .portReduced (BitVec.ofNat 4 n))
  { resetDevice d (nextBoot d) with
      journal := b.journal,
      halfUp := #v[cameUp b.dies 0, cameUp b.dies 1],
      stackUp := Vector.ofFn fun k : Fin 8 => cameUp b.hbms k.val,
      stackRate := Vector.ofFn fun k : Fin 8 => if cameUp b.hbms k.val then 64 else 0,
      stackFinal := Vector.ofFn fun k : Fin 8 => finalRate (levelOf b.hbms k.val),
      linkUp := cameUp b.link 0,
      modules := Vector.replicate 40 ⟨false, 0, 0, decide (levelOf b.link 0 = 2), false⟩,
      ports := Vector.ofFn fun n : Fin 12 => { Port.init with up := cameUp b.ports n.val, reduced := cameUp b.ports n.val && slow n.val } }

/-- BRINGUP (R284, R285): power-on or device reset. Every step runs in this one event. -/
def execBringup (fails : List BringupUnit) (s : State) : Out :=
  let boot := nextBoot s.dev
  let b := bootPlan s.dev fails
  let s1 := { s with cur := none, polders := Vector.ofFn fun p : Fin 16 => bootPolder b boot p.val,
                     dev := bootDevice s.dev b fails }
  let f := dieFw boot
  let s2 := (upTo 2).foldl (fun s h => if cameUp b.dies h then deviceRecord s 1 f.svn (shake256 f.bytes) else s) s1
  .next ((upTo 16).foldl (bootRecords boot) s2)

/-- FULL_RATE_TRANSITION (R285): the clock is raised, and the stack retrained at its final rate. -/
def execFullRateTransition (p : PolderNo) (s : State) : Out :=
  let n := p.toNat
  if (getPolder s n).st = .reduced ∧ 5 ≤ s.dev.step then
    let r := vget 0 s.dev.stackFinal (n / 2)
    let low := decide (r < 130)
    let s1 := updDev s fun d => { d with stackRate := vset d.stackRate (n / 2) r }
    let s2 := updPolder s1 (2 * (n / 2)) fun x => { x with hbmLow := low }
    let s3 := updPolder s2 (2 * (n / 2) + 1) fun x => { x with hbmLow := low }
    .next (updPolder s3 n fun x => { x with st := .full, clock := 3600 })
  else unchanged s

/-! ### Rails (R32) -/

/-- RAIL_LIMIT (R32): steps of 100 MHz between 1.8 and 3.6 GHz, and a stall at 1.8 GHz. -/
def execRailLimit (p : PolderNo) (act : RailAction) (s : State) : Out :=
  .next (updPolder s p.toNat fun x => match act with
    | .lower => { x with clock := Nat.max 1800 (x.clock - 100) }
    | .raise => if x.st = .full then { x with clock := Nat.min 3600 (x.clock + 100) } else x
    | .stall => if x.clock = 1800 then { x with stalled := true } else x
    | .release => { x with stalled := false })

/-! ### Failures (R273) -/

/-- A polder's state is lost. -/
def losePolder (s : State) (p : Nat) : State :=
  if (getPolder s p).st = .off then s
  else updPolder (dropPolder s p) p fun y => { resetPolder y .dead with resetJob := none }

/-- FAILURE (R273). -/
def execFailure (u : FailedUnit) (s : State) : Out :=
  match u with
  | .polder p => .next (losePolder s p.toNat)
  | .stack k =>
    let s1 := updDev s fun d => { d with stackUp := vset d.stackUp k.toNat false }
    .next (losePolder (losePolder s1 (2 * k.toNat)) (2 * k.toNat + 1))
  | .fabric h =>
    let s1 := updDev s fun d => { d with halfUp := vset d.halfUp (if h then 1 else 0) false }
    .next ((span (if h then 8 else 0) 8).foldl losePolder s1)
  | .dieLink =>
    let s1 := updDev s fun d => { d with linkUp := false }
    .next ((span 8 8).foldl losePolder s1)
  | .pcie => .next (updDev s fun d => { d with pcieUp := false })
  | .port n => .next (portDown s n.toNat)

/-! ### Uncorrectable errors (R147, R260, R263) -/

/-- Mark a chunk of a live tile. -/
def markChunk (b : Block) (t row chunk : Nat) : Block :=
  let x := vget Tile.dead b.core.tiles t
  if x.live && decide (row < x.hwr) && decide (chunk < 256) then
    let y := { x with marks := mapPut x.marks (row * 256 + chunk) (.chip .tileStore (t * 65536 + row * 256 + chunk)) }
    { b with core := { b.core with tiles := vset b.core.tiles t y } }
  else b

/-- Mark an element of a queue. -/
def markElem (q : TQueue) (i ix : Nat) : TQueue :=
  { q with elems := (q.elems.zip (upTo q.elems.length)).map fun e =>
      if e.2 = i then { e.1 with mark := some (.chip .queueStore ix) } else e.1 }

/-- Mark an entry of a scalar queue. -/
def markEntry (q : SQueue) (i ix : Nat) : SQueue :=
  { q with entries := (q.entries.zip (upTo q.entries.length)).map fun e =>
      if e.2 = i then { e.1 with mark := some (.chip .queueStore ix) } else e.1 }

/-- An error in a place of the block (R260). -/
def markPlace (b : Block) : ErrorPlace → Block
  | .reg side r =>
    let m : Mark := .chip (if side then .aReg else .sReg) r.toNat
    { b with core := regSetMarked b.core side r (regGet b.core side r) (some m) }
  | .tile t row chunk => markChunk b t.toNat row chunk
  | .queue sq q i =>
    let mark (l : Vector TQueue 4) (u : Nat) : Vector TQueue 4 :=
      vset l q.toNat (markElem (vget ⟨[], 0⟩ l q.toNat) i (u * 65536 + i))
    if sq then { b with core := { b.core with sq := mark b.core.sq (4 + q.toNat) } }
    else { b with core := { b.core with lq := mark b.core.lq q.toNat } }
  | .entry aq i =>
    if aq then { b with core := { b.core with aq := markEntry b.core.aq i (8 * 65536 + i) } }
    else { b with core := { b.core with eq := markEntry b.core.eq i (9 * 65536 + i) } }
  | .shared off =>
    if off < b.sharedTop then { b with sharedMarks := mapPut b.sharedMarks (off / 16) (.chip .sharedStore (off / 16), 0) }
    else b
  | .buffer i =>
    { b with sbuf := (b.sbuf.zip (upTo b.sbuf.length)).map fun e =>
        if e.2 = i then { e.1 with mark := some (.chip .stripBuffer i) } else e.1 }
  | .line _ _ | .context => b

/-- UNCORRECTABLE_ERROR (R147, R260, R263): a line of HBM or a place of the block is marked; an error in a context or
checkpoint that no element consumes ends the task. -/
def execUncorrectableError (pl : ErrorPlace) (s : State) : Out :=
  match pl with
  | .line pa cached =>
    if pa < 0x8000000000 then
      let c := cached && (match mapGet s.poison (pa / 128) with
        | some (_, k) => k
        | none => true)
      .next { s with poison := mapPut s.poison (pa / 128) (0, c) }
    else unchanged s
  | .context => withBlock s fun id b => raiseAt s id b .uncorrectable (halfAt s id b) 0
  | .reg _ _ | .tile _ _ _ | .queue _ _ _ | .entry _ _ | .shared _ | .buffer _ =>
    withBlock s fun id b => .next (setBlock s id (markPlace b pl))

/-! ### Inbound PCIe (R21, R267) -/

/-- The PA that a function's BAR4 reaches. -/
def bar4Pa (s : State) (fn : FnId) (off n : Nat) : Option Nat :=
  match fn with
  | .pf0 => if off + n ≤ 0x8000000000 then some off else none
  | .vf v => if s.dev.vfMse && decide (off + n ≤ polderBytes) then some (vfPolder v.toNat * polderBytes + off) else none

/-- The gates of every polder that n bytes from a PA lie in are open. -/
def gatesOpen (s : State) (pa n : Nat) : Bool :=
  (upTo 16).all fun t => !overlaps pa n (t * polderBytes) polderBytes || !polderDown s t

/-- A function that the host can reach: the PCIe interface works, bring-up has begun, and the half of a virtual function's
polder is joined to half 0 by the die link. -/
def hostReaches (s : State) (fn : FnId) : Bool :=
  s.dev.pcieUp && s.dev.step != 0 && (match fn with
    | .pf0 => true
    | .vf v => decide (vfPolder v.toNat < 8) || s.dev.linkUp)

/-- INBOUND_PCIE_ACCESS (R21, R143, R267): a read is answered with its data, or with an unsupported request where the
window or a gate refuses; a refused write is dropped. A function that the host cannot
reach does not answer. -/
def execInboundPcieAccess (fn : FnId) (off : Nat) (op : PcieOp) (s : State) : Out :=
  let n := match op with
    | .read k => k
    | .write bs => bs.length
  let say (o : HostOut) : Out := .next (updDev s fun d => { d with out := d.out ++ [o] })
  if !hostReaches s fn || n == 0 then unchanged s
  else match bar4Pa s fn off n, op with
    | some pa, .read k =>
      if gatesOpen s pa k then say (.pcieRead fn (memBytes s.hbm pa k) (poisonIn s pa k).isSome) else say (.pcieUr fn)
    | none, .read _ => say (.pcieUr fn)
    | some pa, .write bs => if gatesOpen s pa n then .next (hbmWrite s pa bs false) else unchanged s
    | none, .write _ => unchanged s

end Sys2Proof.Machine
end

