-- ==== Sys2Proof/Machine/Convoy.lean ====
section
/-! DEFINITION. Convoys: assembly (R57), the lane-group resources (R58), and CONVOY_ISSUE. -/

namespace Sys2Proof.Machine

/-! ### Members -/

/-- The pipes of R58. -/
inductive Pipe where
  | fpMul | fpAdd | intPerm
  deriving DecidableEq, Repr

/-- What a convoy member needs and its own issue-time cause: pipe, tile codes it reads, the one it writes, the cause. -/
structure Member where
  pipe : Pipe
  srcs : List TileCode
  dst : Option TileCode
  cause : Option Cause

/-- A member of three tile operands; `rw` where the destination is read. -/
def ttMember (b : Block) (p : Pipe) (types : ElemType → Bool) (rw : Bool) (f : FmtTT) : Option Member :=
  some ⟨p, (if rw then [f.td] else []) ++ [f.ta, f.tb], some f.td, ttCheck b types f rw⟩

/-- A member of one source. -/
def ttuMember (b : Block) (p : Pipe) (types : ElemType → Bool) (f : FmtTTu) : Option Member :=
  some ⟨p, [f.ta], some f.td, ttuCheck b types f⟩

/-- A conversion. -/
def cvtMember (b : Block) (ok : ElemType → ElemType → Bool) (td ts : Bool) (f : FmtTTu) : Option Member :=
  some ⟨.fpAdd, [f.ta], some f.td, cvtCheck b ok f td ts⟩

/-- The pipe of TCMP and TSEL. -/
def typePipe (b : Block) (t : TileCode) : Pipe := if isFp (srcRec b.core t).ty then .fpAdd else .intPerm

/-- An instruction as a convoy member; none for one that may not join a convoy (R57, R302, R303). -/
def memberOf? (b : Block) (i : Instr) : Option Member :=
  match i with
  | .tmul f => ttMember b .fpMul isNum false f
  | .tdiv f => ttMember b .fpMul isFp false f
  | .tsqrt f | .trsq f | .trcp f | .texp2 f | .tlog2 f => ttuMember b .fpMul isFp f
  | .tfma f | .tfms f | .tfnma f => ttMember b .fpMul isFp true f
  | .tadd f | .tsub f | .tmin f | .tmax f => ttMember b .fpAdd isNum false f
  | .tclamp f => ttMember b .fpAdd isNum true f
  | .tabs f | .tneg f => ttuMember b .fpAdd isNum f
  | .tcvt f => cvtMember b tcvtTypes false false f
  | .tqnt f => cvtMember b tqntTypes true false f
  | .tdq f => cvtMember b tdqTypes false true f
  | .tcmp f => some ⟨typePipe b f.ta, [f.ta, f.tb], none, tcmpCheck b f⟩
  | .tsel f => some ⟨typePipe b f.ta, [f.ta, f.tb], some f.td, ttCheck b isNum f false⟩
  | .tand f | .tor f | .txor f => ttMember b .intPerm anyType false f
  | .tshl f | .tshr f | .tsra f => ttMember b .intPerm isInt false f
  | .tnot f => ttuMember b .intPerm anyType f
  | .tmov f => ttuMember b .intPerm anyType f
  | .tspl f => some ⟨.intPerm, [], some f.td, ttsCheck b (fun t => !isMx t) f⟩
  | .tiota f => some ⟨.intPerm, [], some f.td, ttsCheck b isInt f⟩
  | _ => none

/-! ### Assembly (R57) -/

/-- Majors of format TT (R287). -/
def ttMajor (w : Word32) : Bool :=
  let m := (w.extractLsb' 26 6).toNat
  m == 0x13 || (decide (0x20 ≤ m) && decide (m ≤ 0x29)) || m == 0x2B

/-- The word carries C = 1. -/
def joins (w : Word32) : Bool := ttMajor w && w.getLsbD 25

/-- What the sequencer finds after a convoy's first word: the words that join it, and how its reading ends. -/
structure Followers where
  words : List Word32
  /-- A word whose fetch awaits the causeways: the convoy is not assembled yet. -/
  wait : Option RemNeed
  /-- The next word cannot be fetched: whether it joins is known when it is reached (log 43). -/
  fails : Bool
  deriving DecidableEq, Repr

/-- The words that follow `va` and carry C = 1, at most n. -/
def followers (s : State) (id : BlkId) (b : Block) (va : Nat) : Nat → Followers
  | 0 => ⟨[], none, false⟩
  | n + 1 => match fetchAt s id b va with
    | .word w =>
      if joins w then
        let x := followers s id b (va + 4) n
        { x with words := w :: x.words }
      else ⟨[], none, false⟩
    | .wait r => ⟨[], some r, false⟩
    | .fails _ => ⟨[], none, true⟩

/-- A word of a convoy: a member, an instruction that may not join, or one with an encoding cause of its own. -/
inductive ConvoyWord where
  | member (m : Member)
  | ineligible
  | bad (c : Cause)

/-- The cause of a decode error (R289). -/
def decodeCause : DecodeError → Cause
  | .convoyBit => .convoyConflict
  | .tileCode => .shapeInvalid
  | _ => .illegalInstr

/-- A member's cause at issue: none is legal in a user-interrupt handler (R221), and a pop may meet a feed that delivers
nothing more (R51). -/
def Member.atIssue (b : Block) (m : Member) : Option Cause :=
  if inHandler b then some .illegalInstr
  else m.cause.or (if feedMismatch b.core m.srcs then some .shapeMismatch else none)

/-- Read a word of a convoy. -/
def convoyWord (b : Block) (w : Word32) : ConvoyWord :=
  match decode w with
  | .ok i => match memberOf? b i with
    | some m => .member { m with cause := m.atIssue b }
    | none => if inHandler b then .bad .illegalInstr else .ineligible
  | .error .convoyBit => if inHandler b then .bad .illegalInstr else .ineligible
  | .error e => .bad (decodeCause e)

/-- The issue-time cause of a word. -/
def ConvoyWord.cause : ConvoyWord → Option Cause
  | .member m => m.cause
  | .ineligible => none
  | .bad c => some c

/-- The first word with a cause of its own. -/
def firstCause : List ConvoyWord → Nat → Option (Nat × Cause)
  | [], _ => none
  | w :: t, k => match w.cause with
    | some c => some (k, c)
    | none => firstCause t (k + 1)

/-! ### Resources (R58) -/

/-- Distinct tiles that are read before an earlier member has written them. -/
def freshTiles : List Member → List TileCode → List TileCode
  | [], _ => []
  | m :: t, wrote =>
    (m.srcs.filter fun x => decide (x.toNat < 28) && !wrote.contains x) ++ freshTiles t (wrote ++ m.dst.toList)

/-- Members that use a pipe. -/
def onPipe (ms : List Member) (p : Pipe) : Nat := (ms.filter fun m => decide (m.pipe = p)).length

/-- The resources suffice at every step. -/
def convoyFits (ms : List Member) : Bool :=
  let pops := ms.foldl (fun n m => n + ((m.srcs.filter fun x => decide (28 ≤ x.toNat)).eraseDups).length) 0
  let dsts := ms.filterMap Member.dst
  decide (onPipe ms .fpMul ≤ 1) && decide (onPipe ms .fpAdd ≤ 1) && decide (onPipe ms .intPerm ≤ 1)
    && decide (pops ≤ 1) && decide ((freshTiles ms []).eraseDups.length ≤ 3)
    && decide ((dsts.filter fun x => decide (28 ≤ x.toNat)).length ≤ 1)
    && decide ((dsts.filter fun x => decide (x.toNat < 28)).length ≤ 2)

/-- Every word is an eligible member. -/
def allMembers : List ConvoyWord → Option (List Member)
  | [] => some []
  | .member m :: t => (allMembers t).map (m :: ·)
  | _ :: _ => none

/-- The convoy may issue (R57, R58). -/
def convoyOk (ws : List ConvoyWord) : Bool :=
  match allMembers ws with
  | some ms => decide (ms.length ≤ 4) && convoyFits ms
  | none => false

/-- The members that have been issued before a word that could not be fetched: the convoy of a word that joins them (R57,
log 43). Any other word begins a convoy of its own. -/
def earlierWords (b : Block) (w : Word32) : List Word32 := if joins w then b.openW else []

/-- A convoy whose words are known (R57): a member with an issue-time cause traps at its own address; a convoy that breaks a
rule traps at its first member; else its members execute next. -/
def issueWords (s : State) (id : BlkId) (b : Block) (w : Word32) (x : Followers) : Out :=
  let old := earlierWords b w
  let new := w :: x.words
  let ws := new.map (convoyWord b)
  match firstCause ws 0 with
  | some (k, c) => raiseAt s id { b with pc := b.pc + 4 * k } c false 0
  | none =>
    if (joins w && !b.skipC && old.isEmpty) || !convoyOk (old.map (convoyWord b) ++ ws) then raiseAt s id b .convoyConflict false 0
    else .next (setBlock s id { b with convoy := new.length, openW := if x.fails then old ++ new else [] })

/-- CONVOY_ISSUE (R57): the convoy that begins at the pc is assembled whole before any member issues. -/
def execConvoyIssue (s : State) : Out :=
  withBlock s fun id b =>
    match fetchAt s id b b.pc with
    | .word w =>
      let x := followers s id b (b.pc + 4) 4
      match x.wait with
      | some r => holdFetch s id b r
      | none => issueWords s id b w x
    | .fails c => raiseAt s id b c (jointSide b) b.pc
    | .wait r => holdFetch s id b r

/-- The member that a word is. -/
def memberAt (b : Block) (w : Word32) : Option Member :=
  match decode w with
  | .ok i => memberOf? b i
  | .error _ => none

/-- A convoy that has to be assembled begins at the pc (R57): a C bit, a member with followers or whose next word is not to be
had, or a convoy of one member that needs more than R58 allows. Any other instruction executes as it stands. -/
def convoyHere (s : State) (id : BlkId) (b : Block) (w : Word32) : Bool :=
  b.convoy == 0 && ttMajor w && ((joins w && !b.skipC) || (match memberAt b w with
    | some m => !convoyFits [m] || (match fetchAt s id b (b.pc + 4) with
      | .word x => joins x
      | _ => true)
    | none => false))

end Sys2Proof.Machine
end

