-- ==== Sys2Proof/Machine/Float.lean ====
section
/-! DEFINITION. Scalar floating point: major 0x10 (R297, R372 to R374). -/

namespace Sys2Proof.Machine

/-! ### What the family computes -/

/-- The format that P selects. -/
def fpFmt (dbl : Bool) : Fmt := if dbl then fmtF64 else fmtF32

/-- The low bits of a register as a value of a format, under FZ (R94). -/
def regVal (f : Fmt) (fm : Word64) (x : Word64) : FVal := f.val (flag fm 3) (x.toNat % 2 ^ f.width)

/-- The operations with three operands x, y, z (R373). -/
inductive FpOp where
  | add | sub | mul | fma | div | sqrt | min | max
  | cmp (cc : CmpOp)
  | cls
  deriving DecidableEq, Repr

/-- Result bits and flags of an operation (R373). FZ never applies to FCLASS. -/
def fpResult (op : FpOp) (dbl : Bool) (fm : Word64) (x y z : Word64) : FRes :=
  let f := fpFmt dbl
  let env := fenv fm
  let a := regVal f fm x
  let b := regVal f fm y
  match op with
  | .add => fAdd f env a b
  | .sub => fSub f env a b
  | .mul => fMul f env a b
  | .fma => fFma f env a b (regVal f fm z)
  | .div => fDiv f env a b
  | .sqrt => fSqrt f env a
  | .min => fMinMax f env false a b
  | .max => fMinMax f env true a b
  | .cmp cc => let (r, fl) := fCompare cc a b
    (if r then 1 else 0, fl)
  | .cls => (fClass f (x.toNat % 2 ^ f.width), 0)

/-- FCVT (R297, R373). -/
def fcvtResult (cv : FcvtOp) (fm : Word64) (x : Word64) : FRes :=
  let env := fenv fm
  match cv with
  | .f32f64 => fToF fmtF32 env (regVal fmtF64 fm x)
  | .f64f32 => fToF fmtF64 env (regVal fmtF32 fm x)
  | .i64f32 => fToInt 64 true env (regVal fmtF32 fm x)
  | .i64f64 => fToInt 64 true env (regVal fmtF64 fm x)
  | .n64f32 => fToInt 64 false env (regVal fmtF32 fm x)
  | .n64f64 => fToInt 64 false env (regVal fmtF64 fm x)
  | .f32i64 => intToF fmtF32 env x.toInt
  | .f64i64 => intToF fmtF64 env x.toInt
  | .f32n64 => intToF fmtF32 env x.toNat
  | .f64n64 => intToF fmtF64 env x.toNat
  | .bf16f32 => fToF fmtBf16 env (regVal fmtF32 fm x)
  | .f32bf16 => fToF fmtF32 env (regVal fmtBf16 fm x)
  | .f16f32 => fToF fmtF16 env (regVal fmtF32 fm x)
  | .f32f16 => fToF fmtF32 env (regVal fmtF16 fm x)

/-! ### The common course -/

/-- Flags are ORed into FSTAT; an enabled one raises FP_ENABLED with no element, and rd keeps its value (R373, R374). -/
def fpFinish (s : State) (id : BlkId) (b : Block) (rd : RegNo) (r : FRes) : Out :=
  let c := orFlags b.core r.2
  if r.2 &&& fld b.core.fmode 14 8 ≠ 0 then raiseAt s id { b with core := c } .fpEnabled false 0
  else finish s id { b with core := regSet c false rd (BitVec.ofNat 64 r.1) }

/-- An instruction of the family on s-registers. -/
def fpOp (s : State) (rd : RegNo) (srcs : List RegNo) (r : Core → FRes) : Out :=
  withBlock s fun id b => unlessMarked s id b false (srcs.map (regMark b.core false)) (fpFinish s id b rd (r b.core))

/-- The two-source forms. -/
def fpBin (f : FmtFp) (s : State) (op : FpOp) : Out :=
  fpOp s f.rd [f.rs1, f.rs2] fun c => fpResult op f.dbl c.fmode (rget c.s f.rs1) (rget c.s f.rs2) 0

/-- The one-source forms. -/
def fpUn (f : FmtFpu) (s : State) (op : FpOp) : Out :=
  fpOp s f.rd [f.rs1] fun c => fpResult op f.dbl c.fmode (rget c.s f.rs1) 0 0

/-! ### The instructions -/

/-- FADD (R373). -/
def execFadd (f : FmtFp) (s : State) : Out := fpBin f s .add
/-- FSUB (R373). -/
def execFsub (f : FmtFp) (s : State) : Out := fpBin f s .sub
/-- FMUL (R373). -/
def execFmul (f : FmtFp) (s : State) : Out := fpBin f s .mul
/-- FFMA (R373): rd is the addend. -/
def execFfma (f : FmtFp) (s : State) : Out :=
  fpOp s f.rd [f.rs1, f.rs2, f.rd] fun c =>
    fpResult .fma f.dbl c.fmode (rget c.s f.rs1) (rget c.s f.rs2) (rget c.s f.rd)
/-- FDIV (R373). -/
def execFdiv (f : FmtFp) (s : State) : Out := fpBin f s .div
/-- FSQRT (R373). -/
def execFsqrt (f : FmtFpu) (s : State) : Out := fpUn f s .sqrt
/-- FMIN (R373). -/
def execFmin (f : FmtFp) (s : State) : Out := fpBin f s .min
/-- FMAX (R373). -/
def execFmax (f : FmtFp) (s : State) : Out := fpBin f s .max
/-- FCMP (R373). -/
def execFcmp (f : FmtFp) (cc : CmpOp) (s : State) : Out := fpBin f s (.cmp cc)
/-- FCVT (R373). -/
def execFcvt (rd rs : RegNo) (cv : FcvtOp) (s : State) : Out :=
  fpOp s rd [rs] fun c => fcvtResult cv c.fmode (rget c.s rs)
/-- FCLASS (R373). -/
def execFclass (f : FmtFpu) (s : State) : Out := fpUn f s .cls

end Sys2Proof.Machine
end

