-- ==== Sys2Proof/Machine/Permute.lean ====
section
/-! DEFINITION. Broadcast, permutes, sort and search, compress and expand: majors 0x25 (TBCR), 0x27 and 0x28 (R360 to
R362, R370, R371, R430, R457 to R459, R461, R462). -/

namespace Sys2Proof.Machine

/-! ### Checks and the common course -/

/-- An instruction with an s-register operand: its issue-time causes, the consumption of a marked register, then its
elements. -/
def tileOpReg (s : State) (id : BlkId) (b : Block) (chk : Option Cause) (r : RegNo) (srcs : List TileCode)
    (dst : TileCode) (body : Core → List Src → Plan) : Out :=
  match (if inHandler b then some .illegalInstr else chk) with
  | some c => raiseAt s id b c false 0
  | none => unlessMarked s id b false [rmark b.core.sm r] (tileOp s id b none srcs (some dst) body)

/-- Issue-time causes of a permute: operands, destination kind, a predicate over the destination's elements. -/
def permCheck (b : Block) (td : TileCode) (srcs : List TileCode) (g : Guard) (tileDst : Bool) (invalid mismatch : Bool) :
    Option Cause :=
  let c := b.core
  shapeCause (!dstOk b.grantc c td || (tileDst && decide (28 ≤ td.toNat)) || srcs.any (fun t => !srcOk b.grantc c t)
      || predTooLong g (recElems (dstRec c td)) false || invalid) mismatch

/-- Types other than the mx types. -/
def notMx (t : ElemType) : Bool := !isMx t

/-- The lowest of some numbers. -/
def lowestOf (l : List Nat) : Nat := l.tail.foldl Nat.min (l.headD 0)

/-- A move of elements: result i is element `j` of an operand where `from_ i` is `some j`, else zero. DEAD_READ names the
lowest index that is read dead, whichever destination takes it (R78, log 22). -/
def movePlan (td : TileCode) (x : Src) (act : List Nat) (from_ : Nat → Option Nat) (hits : List Hit) (c : Core) : Plan :=
  let rs := act.map fun i => match from_ i with
    | some j => copyRes x i j
    | none => (⟨i, 0, none, 0⟩ : Res)
  let dead := act.filterMap fun i => (from_ i).filter x.dead
  let reads := act.filterMap fun i => ((from_ i).filter x.dead).map fun _ => (i, [(x, lowestOf dead)])
  ⟨hits ++ readHits c reads false, [], fun c' => writeDst c' td rs []⟩

/-- No effect on any element. -/
def Plan.nothing : Plan := ⟨[], [], fun c => c⟩

/-! ### TBCR (R430) -/

/-- TBCR: every active element takes its column's element of row sM mod R_a of ta. -/
def execTbcr (f : FmtPerm) (s : State) : Out :=
  withBlock s fun id b =>
    let h := dstRec b.core f.td
    let ha := srcRec b.core f.ta
    tileOpReg s id b (permCheck b f.td [f.ta] f.g true false (h.ty ≠ ha.ty || h.gc ≠ ha.gc)) f.tb [f.ta] f.td fun c xs =>
      match xs with
      | [x] =>
        if recRows ha = 0 then .nothing
        else
          let k := (rget b.core.s f.tb).toNat % recRows ha
          let act := activeIx c f.g (recElems h)
          let blocks := if isMx h.ty then (act.map fun i => (i / h.gc, i % h.gc / 32)).eraseDups else []
          let p := movePlan f.td x act (fun i => some (k * ha.gc + i % h.gc)) [] c
          { p with apply := fun c' => writeDst c' f.td (act.map fun i => copyRes x i (k * ha.gc + i % h.gc))
                                        (blocks.map fun (r, q) => (r, q, x.scale k q)) }
      | _ => .nothing

/-! ### TTRN, TSHF, TSLD, TROT (R457 to R459) -/

/-- TTRN. -/
def execTtrn (f : FmtPermU) (s : State) : Out :=
  withBlock s fun id b =>
    let h := dstRec b.core f.td
    let ha := srcRec b.core f.ta
    tileOp s id b (permCheck b f.td [f.ta] f.g false (h.g ≠ 0 || ha.g ≠ 0)
        (h.ty ≠ ha.ty || isMx h.ty || h.gr ≠ ha.gc || h.gc ≠ ha.gr)) [f.ta] (some f.td) fun c xs =>
      match xs with
      | [x] => movePlan f.td x (activeIx c f.g (recElems h)) (fun i => some (i % h.gc * ha.gc + i / h.gc)) [] c
      | _ => .nothing

/-- Column of a row that an integer names, modulo GC. -/
def modCol (x : Int) (gc : Nat) : Nat := (x % (gc : Int)).toNat

/-- TSHF. A marked Tx element is consumed. -/
def execTshf (f : FmtPerm) (s : State) : Out :=
  withBlock s fun id b =>
    let h := dstRec b.core f.td
    let ha := srcRec b.core f.ta
    let hx := srcRec b.core f.tb
    tileOp s id b (permCheck b f.td [f.ta, f.tb] f.g false false
        (h.ty ≠ ha.ty || isMx h.ty || !sameExtent h ha || !sameExtent h hx || !isInt hx.ty))
        [f.ta, f.tb] (some f.td) fun c xs =>
      match xs with
      | [x, y] =>
        let act := activeIx c f.g (recElems h)
        movePlan f.td x act (fun i => some (i - i % h.gc + modCol (intVal hx.ty (y.get i)) h.gc))
          (readHits c (act.map fun i => (i, [(y, i)])) true) c
      | _ => .nothing

/-- Issue-time causes of TSLD and TROT. -/
def slideCheck (b : Block) (f : FmtPerm) : Option Cause :=
  let h := dstRec b.core f.td
  let ha := srcRec b.core f.ta
  permCheck b f.td [f.ta] f.g false false (isMx h.ty || !agree h ha)

/-- TSLD: zero comes in from beyond the row. -/
def execTsld (f : FmtPerm) (s : State) : Out :=
  withBlock s fun id b =>
    let h := dstRec b.core f.td
    let m := (rget b.core.s f.tb).toInt
    tileOpReg s id b (slideCheck b f) f.tb [f.ta] f.td fun c xs =>
      match xs with
      | [x] => movePlan f.td x (activeIx c f.g (recElems h)) (fun i =>
          let k : Int := ((i % h.gc : Nat) : Int) + m
          if 0 ≤ k ∧ k < h.gc then some (i - i % h.gc + k.toNat) else none) [] c
      | _ => .nothing

/-- TROT. -/
def execTrot (f : FmtPerm) (s : State) : Out :=
  withBlock s fun id b =>
    let h := dstRec b.core f.td
    let m := (rget b.core.s f.tb).toInt
    tileOpReg s id b (slideCheck b f) f.tb [f.ta] f.td fun c xs =>
      match xs with
      | [x] => movePlan f.td x (activeIx c f.g (recElems h))
          (fun i => some (i - i % h.gc + modCol (((i % h.gc : Nat) : Int) + m) h.gc)) [] c
      | _ => .nothing

/-! ### TSORT and TSRCH (R461, R462) -/

/-- A number that rises in the total order of R461; every NaN has the highest. With `fz` a subnormal of a wide format reads as
a zero of its sign (R94). -/
def orderKey (t : ElemType) (fz : Bool) (x : Nat) : Int :=
  match fmtOf t with
  | none => intVal t x
  | some f =>
    let sgn := 2 ^ (f.width - 1)
    match f.val fz x with
    | .nan _ => Int.ofNat sgn
    | .fin neg 0 _ => if neg then -1 else 0
    | _ => if x < sgn then Int.ofNat x else -(Int.ofNat (x % sgn)) - 1

/-- Element indices in ascending order of a key, those of one key in the order they come in (R462). -/
def stableSort (key : Nat → Int) (ixs : List Nat) : List Nat :=
  ixs.foldl (fun sorted i => placeBy (fun x y => decide (key x < key y)) i sorted) []

/-- TSORT. -/
def execTsort (f : FmtPermU) (s : State) : Out :=
  withBlock s fun id b =>
    let h := dstRec b.core f.td
    tileOp s id b (permCheck b f.td [f.ta] f.g false false (!isNum h.ty || !agree h (srcRec b.core f.ta)))
        [f.ta] (some f.td) fun c xs =>
      match xs with
      | [x] =>
        let act := activeIx c f.g (recElems h)
        let rs := (upTo (recRows h)).flatMap fun r =>
          let mine := act.filter fun i => i / h.gc == r
          (mine.zip (stableSort (fun i => orderKey h.ty false (x.get i)) mine)).map fun (i, j) => (⟨i, x.get j, none, 0⟩ : Res)
        ⟨readHits c (act.map fun i => (i, [(x, i)])) true, [], fun c' => writeDst c' f.td rs []⟩
      | _ => .nothing

/-- TSRCH: reads every element of tb's row in each row with an active element. -/
def execTsrch (f : FmtPerm) (s : State) : Out :=
  withBlock s fun id b =>
    let h := dstRec b.core f.td
    let ha := srcRec b.core f.ta
    tileOp s id b (permCheck b f.td [f.ta, f.tb] f.g false false
        (h.ty ≠ .n32 || !isNum ha.ty || !agree ha (srcRec b.core f.tb) || !sameExtent h ha))
        [f.ta, f.tb] (some f.td) fun c xs =>
      match xs with
      | [x, y] =>
        let act := activeIx c f.g (recElems h)
        let rowIx (r : Nat) : List Nat := span (r * h.gc) h.gc
        let rows := (act.map fun i => i / h.gc).eraseDups
        let rs := act.map fun i =>
          let k := orderKey ha.ty (flag c.fmode 3) (x.get i)
          let j := (firstIx (fun j => decide (k ≤ orderKey ha.ty (flag c.fmode 3) (y.get j))) (rowIx (i / h.gc))).getD h.gc
          (⟨i, j, none, 0⟩ : Res)
        ⟨readHits c (act.map fun i => (i, [(x, i)])) true
            ++ readHits c (rows.flatMap fun r => (rowIx r).map fun j => (j, [(y, j)])) true, [],
          fun c' => writeDst c' f.td rs []⟩
      | _ => .nothing

/-! ### CMPRS and EXPND (R360 to R362, R370, R371) -/

/-- Issue-time causes of CMPRS and EXPND. -/
def packCheck (b : Block) (td ta : TileCode) (g : Guard) : Option Cause :=
  permCheck b td [ta] g true false (isMx (dstRec b.core td).ty || !agree (dstRec b.core td) (srcRec b.core ta))

/-- CMPRS: a strip of no element counts none. -/
def execCmprs (f : FmtPerm) (s : State) : Out :=
  withBlock s fun id b =>
    let h := dstRec b.core f.td
    tileOp s id b (packCheck b f.td f.ta f.g) [f.ta] (some f.td) (fun c xs =>
      match xs with
      | [x] =>
        let act := activeIx c f.g (recElems h)
        let rs := (upTo act.length).zip act |>.map fun (k, i) => copyRes x k i
        ⟨readHits c (act.map fun i => (i, [(x, i)])) false, [],
          fun c' => regSet (writeDst c' f.td rs []) false f.tb (BitVec.ofNat 64 act.length)⟩
      | _ => .nothing) (idle := fun c => regSet c false f.tb 0)

/-- EXPND. -/
def execExpnd (f : FmtPermU) (s : State) : Out :=
  withBlock s fun id b =>
    let h := dstRec b.core f.td
    tileOp s id b (packCheck b f.td f.ta f.g) [f.ta] (some f.td) fun c xs =>
      match xs with
      | [x] =>
        let act := activeIx c f.g (recElems h)
        let ks := (upTo act.length).zip act
        ⟨readHits c (ks.map fun (k, i) => (i, [(x, k)])) false, [],
          fun c' => writeDst c' f.td (ks.map fun (k, i) => copyRes x i k) []⟩
      | _ => .nothing

end Sys2Proof.Machine
end

