-- ==== Sys2Proof/Machine/Scalar.lean ====
section
/-! DEFINITION. Scalar integer instructions: majors 0x08 to 0x0F (R341 to R343, R390, R395, R401, R407, R413, R471). -/

namespace Sys2Proof.Machine

/-! ### What they compute (R87) -/

/-- DIV (R342). -/
def aluDiv (x y : Word64) : Word64 :=
  if y = 0 then BitVec.allOnes 64
  else if x = BitVec.intMin 64 ∧ y = BitVec.allOnes 64 then BitVec.intMin 64
  else BitVec.ofInt 64 (Int.tdiv x.toInt y.toInt)

/-- DIVN (R342). -/
def aluDivn (x y : Word64) : Word64 := if y = 0 then BitVec.allOnes 64 else BitVec.ofNat 64 (x.toNat / y.toNat)

/-- REM (R395). -/
def aluRem (x y : Word64) : Word64 :=
  if y = 0 then x
  else if x = BitVec.intMin 64 ∧ y = BitVec.allOnes 64 then 0
  else BitVec.ofInt 64 (Int.tmod x.toInt y.toInt)

/-- REMN (R395). -/
def aluRemn (x y : Word64) : Word64 := if y = 0 then x else BitVec.ofNat 64 (x.toNat % y.toNat)

/-- MULH (R395): the high half of the signed product. -/
def aluMulh (x y : Word64) : Word64 := BitVec.ofInt 64 ((x.toInt * y.toInt) / ((2 ^ 64 : Nat) : Int))

/-- MULHN (R395). -/
def aluMulhn (x y : Word64) : Word64 := BitVec.ofNat 64 (x.toNat * y.toNat / 2 ^ 64)

/-- The amount of a shift (R87). -/
def shAmt (y : Word64) : Nat := y.toNat % 64

/-- 1 or 0. -/
def ofBool64 (b : Bool) : Word64 := if b then 1 else 0

/-- CLZ (R342). -/
def aluClz (x : Word64) : Word64 := if x = 0 then 64 else BitVec.ofNat 64 (63 - x.toNat.log2)

/-- CTZ (R342). -/
def aluCtz (x : Word64) : Word64 :=
  match (upTo 64).find? fun i => flag x i with
  | some i => BitVec.ofNat 64 i
  | none => 64

/-- POPC (R395). -/
def aluPopc (x : Word64) : Word64 := BitVec.ofNat 64 ((upTo 64).filter fun i => flag x i).length

/-- LIH (R390): one quarter replaced. -/
def aluLih (x : Word64) (q : BitVec 2) (imm : BitVec 16) : Word64 :=
  let sh := 16 * q.toNat
  (x &&& ~~~((0xFFFF : Word64) <<< sh)) ||| ((imm.setWidth 64) <<< sh)

/-! ### The common course -/

/-- A scalar instruction of one file: the sources' marks are consumed (R260), and rd takes the result. -/
def scalarOp (s : State) (side : Bool) (rd : RegNo) (srcs : List RegNo) (f : Core → Word64) : Out :=
  withBlock s fun id b =>
    unlessMarked s id b side (srcs.map (regMark b.core side))
      (finish s id { b with core := regSet b.core side rd (f b.core) })

/-- Two register sources. -/
def regOp (f : FmtSR) (s : State) (op : Word64 → Word64 → Word64) : Out :=
  scalarOp s f.side f.rd [f.rs1, f.rs2] fun c => op (regGet c f.side f.rs1) (regGet c f.side f.rs2)

/-- One register source. -/
def unOp (f : FmtSRu) (s : State) (op : Word64 → Word64) : Out :=
  scalarOp s f.side f.rd [f.rs1] fun c => op (regGet c f.side f.rs1)

/-- A register and a sign-extended immediate (R288). -/
def immOp (f : FmtSI) (s : State) (op : Word64 → Word64 → Word64) : Out :=
  scalarOp s f.side f.rd [f.rs1] fun c => op (regGet c f.side f.rs1) (f.imm.signExtend 64)

/-- A shift by a constant. -/
def shiftOp (f : FmtShift) (s : State) (op : Word64 → Nat → Word64) : Out :=
  scalarOp s f.side f.rd [f.rs1] fun c => op (regGet c f.side f.rs1) f.n.toNat

/-! ### The instructions -/

/-- ADD (R342). -/
def execAdd (f : FmtSR) (s : State) : Out := regOp f s fun x y => x + y
/-- SUB (R407). -/
def execSub (f : FmtSR) (s : State) : Out := regOp f s fun x y => x - y
/-- MUL (R395). -/
def execMul (f : FmtSR) (s : State) : Out := regOp f s fun x y => x * y
/-- MULH (R395). -/
def execMulh (f : FmtSR) (s : State) : Out := regOp f s aluMulh
/-- MULHN (R395). -/
def execMulhn (f : FmtSR) (s : State) : Out := regOp f s aluMulhn
/-- DIV (R342). -/
def execDiv (f : FmtSR) (s : State) : Out := regOp f s aluDiv
/-- DIVN (R342). -/
def execDivn (f : FmtSR) (s : State) : Out := regOp f s aluDivn
/-- REM (R395). -/
def execRem (f : FmtSR) (s : State) : Out := regOp f s aluRem
/-- REMN (R395). -/
def execRemn (f : FmtSR) (s : State) : Out := regOp f s aluRemn
/-- AND (R342). -/
def execAnd (f : FmtSR) (s : State) : Out := regOp f s fun x y => x &&& y
/-- OR (R395). -/
def execOr (f : FmtSR) (s : State) : Out := regOp f s fun x y => x ||| y
/-- XOR (R407). -/
def execXor (f : FmtSR) (s : State) : Out := regOp f s fun x y => x ^^^ y
/-- SHL (R407). -/
def execShl (f : FmtSR) (s : State) : Out := regOp f s fun x y => x <<< shAmt y
/-- SHR (R407). -/
def execShr (f : FmtSR) (s : State) : Out := regOp f s fun x y => x >>> shAmt y
/-- SRA (R407). -/
def execSra (f : FmtSR) (s : State) : Out := regOp f s fun x y => x.sshiftRight (shAmt y)
/-- SLT (R407). -/
def execSlt (f : FmtSR) (s : State) : Out := regOp f s fun x y => ofBool64 (x.slt y)
/-- SLTN (R407). -/
def execSltn (f : FmtSR) (s : State) : Out := regOp f s fun x y => ofBool64 (x.ult y)
/-- MIN (R395). -/
def execMin (f : FmtSR) (s : State) : Out := regOp f s fun x y => if x.slt y then x else y
/-- MAX (R395). -/
def execMax (f : FmtSR) (s : State) : Out := regOp f s fun x y => if x.slt y then y else x
/-- MINN (R395). -/
def execMinn (f : FmtSR) (s : State) : Out := regOp f s fun x y => if x.ult y then x else y
/-- MAXN (R395). -/
def execMaxn (f : FmtSR) (s : State) : Out := regOp f s fun x y => if x.ult y then y else x
/-- CLZ (R342). -/
def execClz (f : FmtSRu) (s : State) : Out := unOp f s aluClz
/-- CTZ (R342). -/
def execCtz (f : FmtSRu) (s : State) : Out := unOp f s aluCtz
/-- POPC (R395). -/
def execPopc (f : FmtSRu) (s : State) : Out := unOp f s aluPopc

/-- SEL (R407): the old rd is a third source. -/
def execSel (f : FmtSR) (s : State) : Out :=
  scalarOp s f.side f.rd [f.rd, f.rs1, f.rs2] fun c =>
    if regGet c f.side f.rd ≠ 0 then regGet c f.side f.rs1 else regGet c f.side f.rs2

/-- ADDI (R343). -/
def execAddi (f : FmtSI) (s : State) : Out := immOp f s fun x y => x + y
/-- ANDI (R343). -/
def execAndi (f : FmtSI) (s : State) : Out := immOp f s fun x y => x &&& y
/-- ORI (R401). -/
def execOri (f : FmtSI) (s : State) : Out := immOp f s fun x y => x ||| y
/-- XORI (R471). -/
def execXori (f : FmtSI) (s : State) : Out := immOp f s fun x y => x ^^^ y
/-- SLTI (R413). -/
def execSlti (f : FmtSI) (s : State) : Out := immOp f s fun x y => ofBool64 (x.slt y)
/-- SHLI (R413). -/
def execShli (f : FmtShift) (s : State) : Out := shiftOp f s fun x n => x <<< n
/-- SHRI (R413). -/
def execShri (f : FmtShift) (s : State) : Out := shiftOp f s fun x n => x >>> n
/-- SRAI (R413). -/
def execSrai (f : FmtShift) (s : State) : Out := shiftOp f s fun x n => x.sshiftRight n

/-- LIH (R390): the old rd is a source. -/
def execLih (f : FmtLih) (s : State) : Out :=
  scalarOp s f.side f.rd [f.rd] fun c => aluLih (regGet c f.side f.rd) f.q f.imm

end Sys2Proof.Machine
end

