-- ==== Sys2Proof/Machine/Map.lean ====
section
/-! DEFINITION. Lane functions: MAP, MAPR, LRET and LSKIP (R55, R56, R305, R391 to R394). -/

namespace Sys2Proof.Machine

/-! ### The instructions a lane function may use (R56) -/

/-- A scalar instruction on a virtual processor's registers: destination, sources, and bits with flags. -/
structure LaneOp where
  rd : RegNo
  srcs : List RegNo
  f : (RegNo → Word64) → Word64 × Nat

/-- Two sources. -/
def lane2 (f : FmtSR) (op : Word64 → Word64 → Word64) : Option LaneOp :=
  if f.side then none else some ⟨f.rd, [f.rs1, f.rs2], fun g => (op (g f.rs1) (g f.rs2), 0)⟩

/-- One source. -/
def lane1 (f : FmtSRu) (op : Word64 → Word64) : Option LaneOp :=
  if f.side then none else some ⟨f.rd, [f.rs1], fun g => (op (g f.rs1), 0)⟩

/-- A source and an immediate. -/
def laneImm (f : FmtSI) (op : Word64 → Word64 → Word64) : Option LaneOp :=
  if f.side then none else some ⟨f.rd, [f.rs1], fun g => (op (g f.rs1) (f.imm.signExtend 64), 0)⟩

/-- A shift by a constant. -/
def laneShift (f : FmtShift) (op : Word64 → Nat → Word64) : Option LaneOp :=
  if f.side then none else some ⟨f.rd, [f.rs1], fun g => (op (g f.rs1) f.n.toNat, 0)⟩

/-- A floating result. -/
def laneFp (rd : RegNo) (srcs : List RegNo) (r : (RegNo → Word64) → FRes) : Option LaneOp :=
  some ⟨rd, srcs, fun g => (BitVec.ofNat 64 (r g).1, (r g).2)⟩

/-- Two floating sources. -/
def laneFp2 (f : FmtFp) (op : FpOp) (fm : Word64) : Option LaneOp :=
  laneFp f.rd [f.rs1, f.rs2] fun g => fpResult op f.dbl fm (g f.rs1) (g f.rs2) 0

/-- One floating source. -/
def laneFp1 (f : FmtFpu) (op : FpOp) (fm : Word64) : Option LaneOp :=
  laneFp f.rd [f.rs1] fun g => fpResult op f.dbl fm (g f.rs1) 0 0

/-- The scalar instructions of majors 0x08 to 0x10 with side = 0; none for any other instruction. -/
def laneOp (fm : Word64) : Instr → Option LaneOp
  | .add f => lane2 f fun x y => x + y
  | .sub f => lane2 f fun x y => x - y
  | .mul f => lane2 f fun x y => x * y
  | .mulh f => lane2 f aluMulh
  | .mulhn f => lane2 f aluMulhn
  | .div f => lane2 f aluDiv
  | .divn f => lane2 f aluDivn
  | .rem f => lane2 f aluRem
  | .remn f => lane2 f aluRemn
  | .and f => lane2 f fun x y => x &&& y
  | .or f => lane2 f fun x y => x ||| y
  | .xor f => lane2 f fun x y => x ^^^ y
  | .shl f => lane2 f fun x y => x <<< shAmt y
  | .shr f => lane2 f fun x y => x >>> shAmt y
  | .sra f => lane2 f fun x y => x.sshiftRight (shAmt y)
  | .slt f => lane2 f fun x y => ofBool64 (x.slt y)
  | .sltn f => lane2 f fun x y => ofBool64 (x.ult y)
  | .min f => lane2 f fun x y => if x.slt y then x else y
  | .max f => lane2 f fun x y => if x.slt y then y else x
  | .minn f => lane2 f fun x y => if x.ult y then x else y
  | .maxn f => lane2 f fun x y => if x.ult y then y else x
  | .clz f => lane1 f aluClz
  | .ctz f => lane1 f aluCtz
  | .popc f => lane1 f aluPopc
  | .sel f => if f.side then none else
      some ⟨f.rd, [f.rd, f.rs1, f.rs2], fun g => (if g f.rd ≠ 0 then g f.rs1 else g f.rs2, 0)⟩
  | .addi f => laneImm f fun x y => x + y
  | .andi f => laneImm f fun x y => x &&& y
  | .ori f => laneImm f fun x y => x ||| y
  | .xori f => laneImm f fun x y => x ^^^ y
  | .slti f => laneImm f fun x y => ofBool64 (x.slt y)
  | .shli f => laneShift f fun x n => x <<< n
  | .shri f => laneShift f fun x n => x >>> n
  | .srai f => laneShift f fun x n => x.sshiftRight n
  | .lih f => if f.side then none else some ⟨f.rd, [f.rd], fun g => (aluLih (g f.rd) f.q f.imm, 0)⟩
  | .fadd f => laneFp2 f .add fm
  | .fsub f => laneFp2 f .sub fm
  | .fmul f => laneFp2 f .mul fm
  | .ffma f => laneFp f.rd [f.rs1, f.rs2, f.rd] fun g => fpResult .fma f.dbl fm (g f.rs1) (g f.rs2) (g f.rd)
  | .fdiv f => laneFp2 f .div fm
  | .fsqrt f => laneFp1 f .sqrt fm
  | .fmin f => laneFp2 f .min fm
  | .fmax f => laneFp2 f .max fm
  | .fcmp f cc => laneFp2 f (.cmp cc) fm
  | .fcvt rd rs cv => laneFp rd [rs] fun g => fcvtResult cv fm (g rs)
  | .fclass f => laneFp1 f .cls fm
  | _ => none

/-! ### A virtual processor (R55, R56) -/

/-- What a virtual processor ends with. -/
inductive LaneEnd where
  | done (s1 s2 : Word64) (flags : Nat)
  | illegal
  | marked (ms : List Mark)

/-- Run from index `ix` of the function; every step moves forward. `marks` has those of the snapshot. -/
def laneRun (fm : Word64) (code : List Instr) (marks : RegNo → Option Mark) : Nat → Nat → RegFile → Nat → LaneEnd
  | 0, _, _, _ => .illegal
  | fuel + 1, ix, v, fl =>
    let skip (t : Bool) (n : Nat) : LaneEnd :=
      laneRun fm code marks fuel (if t then ix + 1 + n else ix + 1) v fl
    match code[ix]? with
    | none => .illegal
    | some .lret => .done (rget v 1) (rget v 2) fl
    | some (.lskipNz a n) => match marks a with
      | some m => .marked [m]
      | none => skip (rget v a ≠ 0) n.toNat
    | some (.lskipZ a n) => match marks a with
      | some m => .marked [m]
      | none => skip (rget v a = 0) n.toNat
    | some i => match laneOp fm i with
      | none => .illegal
      | some op =>
        if 16 ≤ op.rd.toNat then .illegal
        else match op.srcs.filterMap marks with
          | m :: ms => .marked (m :: ms)
          | [] =>
            let (x, f) := op.f (rget v)
            laneRun fm code marks fuel (ix + 1) (rset v op.rd x) (fl ||| f)

/-- The registers of a virtual processor at entry. -/
def laneRegs (caller : RegFile) (x y z : Word64) : RegFile :=
  let v := (upTo 16).foldl (fun v i => vset v i 0) caller
  rset (rset (rset v 1 x) 2 y) 3 z

/-- The marks of s16 to s31 of the caller; the others carry none. -/
def laneMarks (c : Core) (r : RegNo) : Option Mark := if r.toNat < 16 then none else rmark c.sm r

/-- Ext: an element in a register (R55). -/
def extElem (t : ElemType) (x : Nat) : Word64 :=
  if isInt t then BitVec.ofInt 64 (intVal t x) else BitVec.ofNat 64 x

/-- Run a function on three element values. -/
def runLane (c : Core) (code : List Instr) (x y z : Word64) : LaneEnd :=
  laneRun c.fmode code (laneMarks c) (code.length + 1) 0 (laneRegs c.s x y z) 0

/-! ### MAP and MAPR -/

/-- Types that MAP admits (R393). -/
def mapType (t : ElemType) : Bool := !isMx t && !decide (t = .e2m1)

/-- Issue-time causes: the function's index, then operands and shapes (R392 to R394). -/
def mapCheck (b : Block) (f : FmtPerm) (fns : List LaneFn) (fn : BitVec 5) (fold : Bool) : Option Cause :=
  match fns[fn.toNat]? with
  | none => some .illegalInstr
  | some e =>
    let c := b.core
    let h := dstRec c f.td
    let ha := srcRec c f.ta
    let hb := srcRec c f.tb
    let two := !fold && e.results == 2
    let second := decide (f.td.toNat < 27) && tileOk b.grantc c (f.td.toNat + 1)
      && vget 0 c.bindT (f.td.toNat + 1) == vget 0 c.bindT f.td.toNat
    shapeCause (!dstOk b.grantc c f.td || (fold && decide (28 ≤ f.td.toNat)) || !srcOk b.grantc c f.ta
        || !srcOk b.grantc c f.tb || predTooLong f.g (recElems h) false || (two && !second))
      (!mapType h.ty || !mapType ha.ty || !mapType hb.ty || !sameExtent ha hb || recRows h ≠ recRows ha
        || h.gc ≠ (if fold then 1 else ha.gc))

/-- The instructions of a fetched function; what does not decode is illegal when it is reached, like a BRK. -/
def laneCode (ws : List Word32) : List Instr :=
  ws.map fun w => match decode w with
    | .ok i => i
    | .error _ => .brk

/-- Issue-time causes, then the function's code, then the elements. Nothing is fetched without an active element. -/
def mapOp (f : FmtPerm) (fn : BitVec 5) (fold : Bool) (s : State)
    (body : LaneFn → List Instr → Core → List Src → Plan) : Out :=
  withBlock s fun id b =>
    let (fns, text) := match taskOf s id b with
      | some (_, t) => (t.fns, t.textVa)
      | none => ([], 0)
    match (if inHandler b then some .illegalInstr else mapCheck b f fns fn fold) with
    | some c => raiseAt s id b c false 0
    | none =>
      let e := fns[fn.toNat]?.getD ⟨0, 0, 1⟩
      let n := if (activeIx b.core f.g (recElems (srcRec b.core f.ta))).isEmpty then 0 else e.len
      match fetchRun s id b (text + e.off) n with
      | .ok ws => tileOp s id b none [f.ta, f.tb] (some f.td) (body e (laneCode ws))
      | .error (va, .fails c) => raiseAt s id b c false va
      | .error (_, .wait r) => holdFetch s id b r
      | .error (_, .word _) => holdOn s id b

/-- The cause of an element whose processor did not end with LRET, named at operand `code` under `h`. -/
def laneHit (h : ShapeRec) (code i : Nat) : LaneEnd → List Hit
  | .done _ _ _ => []
  | .illegal => [⟨i, .illegalInstr, none, coordAt h code i, 0⟩]
  | .marked ms => ms.map fun m => ⟨i, markCause m, some m, coordAt h code i, markAddr m⟩

/-- The results of those that did. -/
def laneRes (w i : Nat) (second : Bool) : LaneEnd → Option Res
  | .done x y fl => some ⟨i, (if second then y else x).toNat % 2 ^ w, none, fl⟩
  | _ => none

/-- MAP (R393). Of virtual processors with ILLEGAL_INSTR and elements with another cause the lowest is reported (DEDUCED,
log 86). -/
def execMap (f : FmtPerm) (fn : BitVec 5) (s : State) : Out :=
  mapOp f fn false s fun e code c xs =>
    match xs with
    | [x, y] =>
      let h := dstRec c f.td
      let d := tileSrc c f.td.toNat
      let tile := decide (f.td.toNat < 28)
      let act := activeIx c f.g (recElems h)
      let third (i : Nat) : Bool := tile && !d.dead i
      let hits := readHits c (act.map fun i => (i, [(x, i), (y, i)])) true
        ++ act.flatMap fun i => if third i then ((d.mark i).map fun m => { markHit d i m with lin := i }).toList else []
      let ends := (act.filter fun i => !hits.any fun k => k.lin == i).map fun i =>
        (i, runLane c code (extElem x.rc.ty (x.get i)) (extElem y.rc.ty (y.get i))
          (if third i then extElem h.ty (d.get i) else 0))
      let bad := ends.flatMap fun (i, r) => laneHit h f.td.toNat i r
      let rs := ends.filterMap fun (i, r) => laneRes (typeWidth h.ty) i false r
      let rs2 := ends.filterMap fun (i, r) => laneRes (typeWidth h.ty) i true r
      ⟨hits ++ bad ++ fpHits c.fmode h f.td.toNat rs, raisedBy rs, fun c' =>
        let c1 := writeDst c' f.td rs []
        if e.results = 2 then writeTile c1 (f.td.toNat + 1) h false rs2 [] else c1⟩
    | _ => .nothing

/-- One row of MAPR: causes and flags by element of ta, and the running value. -/
def maprRow (c : Core) (code : List Instr) (h : ShapeRec) (x y : Src) (named : Nat) :
    List Nat → Word64 → List Hit × List Res × Word64
  | [], acc => ([], [], acc)
  | i :: t, acc =>
    match runLane c code (extElem x.rc.ty (x.get i)) (extElem y.rc.ty (y.get i)) acc with
    | .done v _ fl =>
      let w := v.toNat % 2 ^ typeWidth h.ty
      let (hs, rs, z) := maprRow c code h x y named t (extElem h.ty w)
      (hs, ⟨i, w, none, fl⟩ :: rs, z)
    | r => (laneHit x.rc named i r, [], acc)

/-- MAPR (R394). A cause or flag of an element names that element of ta. -/
def execMapr (f : FmtPerm) (fn : BitVec 5) (s : State) : Out :=
  mapOp f fn true s fun _ code c xs =>
    match xs with
    | [x, y] =>
      let h := dstRec c f.td
      let d := tileSrc c f.td.toNat
      let n := x.rc.gc
      let act := activeIx c f.g (recElems x.rc)
      let rows := (act.map fun i => i / n).eraseDups
      let hits := readHits c (act.map fun i => (i, [(x, i), (y, i)])) true
        ++ rows.flatMap fun r => if d.dead r then [] else
          match d.mark r, act.find? fun i => i / n == r with
          | some m, some i => [{ markHit d r m with lin := i }]
          | _, _ => []
      let out := rows.map fun r =>
        let mine := act.filter fun i => i / n == r
        let ok := mine.takeWhile fun i => !hits.any fun k => k.lin == i
        (r, maprRow c code h x y f.ta.toNat ok (if d.dead r then 0 else extElem h.ty (d.get r)))
      let els := out.flatMap fun (_, _, rs, _) => rs
      ⟨hits ++ (out.flatMap fun (_, hs, _, _) => hs) ++ fpHits c.fmode x.rc f.ta.toNat els, raisedBy els,
        fun c' => writeDst c' f.td (out.map fun (r, _, _, z) => ⟨r, z.toNat % 2 ^ typeWidth h.ty, none, 0⟩) []⟩
    | _ => .nothing

/-! ### Outside a lane function (R43) -/

/-- LRET. -/
def execLret (s : State) : Out := withBlock s fun id b => raiseAt s id b .illegalInstr false 0
/-- LSKIP.nz. -/
def execLskipNz (_a : RegNo) (_n : BitVec 6) (s : State) : Out :=
  withBlock s fun id b => raiseAt s id b .illegalInstr false 0
/-- LSKIP.z. -/
def execLskipZ (_a : RegNo) (_n : BitVec 6) (s : State) : Out :=
  withBlock s fun id b => raiseAt s id b .illegalInstr false 0

end Sys2Proof.Machine
end

