-- ==== Sys2Proof/Machine/Recheck.lean ====
section
/-! DEFINITION. The recheck queue (R14, R257 to R259): what an entry covers, the comparison of its runs, the vote, and what a
replaced or unsettled result leads to. -/

namespace Sys2Proof.Machine

/-! ### What is rechecked (R257) -/

/-- Where a rechecked instruction writes elements: a tile or a store queue by its destination code, or a predicate. -/
inductive RecheckDst where
  | tile (t : TileCode)
  | pred (p : PredNo)
  deriving DecidableEq, Repr

/-- The elements that an instruction of R257 writes. -/
def recheckDst (f : Fields) : Option RecheckDst :=
  let m := f.major.toNat
  if m = 0x13 then (if f.fn6.toNat = 4 then some (.tile f.f1) else none)
  else if m = 0x23 ∧ f.fn6.toNat < 6 then some (.pred (low3 f.f1))
  else if m = 0x29 then (if f.fn6.toNat < 5 then some (.pred (low3 f.f1)) else none)
  else if (0x20 ≤ m ∧ m ≤ 0x28) ∨ m = 0x2B ∨ m = 0x2D ∨ m = 0x2E then some (.tile f.f1)
  else none

/-- The s-register that it writes: the count of CMPRS (R362), the results of PCNT and PFF. -/
def recheckReg (f : Fields) : Option RegNo :=
  let m := f.major.toNat
  if m = 0x28 ∧ f.fn6.toNat = 0 then some f.f3
  else if m = 0x29 ∧ 5 ≤ f.fn6.toNat then some f.f1
  else none

/-- The execute-half tile instructions of R257. -/
def rechecked (f : Fields) : Bool :=
  let m := f.major.toNat
  (m == 0x13 && (f.fn6 == 3 || f.fn6 == 4)) || decide (0x20 ≤ m ∧ m ≤ 0x29) || m == 0x2B || m == 0x2D || m == 0x2E

/-- An instruction of the execute half that works on the core alone and reads no control register: it may follow an
instruction that has not retired (R258). -/
def recheckPure (f : Fields) : Bool :=
  let m := f.major.toNat
  rechecked f || (!f.b25 && decide (0x08 ≤ m ∧ m ≤ 0x10))

/-! ### Runs -/

/-- Runs of entry k that agree with the first. -/
def RecheckRuns.agree (k : Nat) : RecheckRuns := ⟨k, [], [], none, none, none⟩

/-- The first run's bits of an element. -/
def firstRun (c : Core) (d : RecheckDst) (i : Nat) : Nat :=
  match d with
  | .pred p => if predBit c p i then 1 else 0
  | .tile t =>
    if t.toNat < 28 then (tileSrc c t.toNat).get i
    else
      let q := vget ⟨[], 0⟩ c.sq (t.toNat - 28)
      let o := q.elems.length - recElems (dstRec c t)
      (q.elems[o + i]?.map QElem.bits).getD 0

/-- Put an element's bits in place of the first run's. -/
def putElem (c : Core) (d : RecheckDst) (i x : Nat) : Core :=
  match d with
  | .pred p => setPred c p (setBit (c.preds[p.toNat]'p.isLt) i (x % 2 == 1))
  | .tile t =>
    if t.toNat < 28 then
      let h := dstRec c t
      let (k, r) := memberOf h t.toNat (i / h.gc)
      let y := getTile c k
      { c with tiles := vset c.tiles k { y with elems := mapPutNat y.elems (r * 16384 + i % h.gc) x } }
    else
      let q := vget ⟨[], 0⟩ c.sq (t.toNat - 28)
      let o := q.elems.length - recElems (dstRec c t)
      { c with sq := vset c.sq (t.toNat - 28)
                 { q with elems := (q.elems.zip (upTo q.elems.length)).map fun e => if e.2 = o + i then { e.1 with bits := x } else e.1 } }

/-- The record that orders the elements: a tile's own, the source's for TCMP, the grant for the predicate family. -/
def recheckRec (c : Core) (f : Fields) : RecheckDst → ShapeRec
  | .tile t => dstRec c t
  | .pred _ => if f.major.toNat = 0x23 then srcRec c f.f2 else { ShapeRec.default with gr := c.gr, gc := c.gc }

/-- The operand that TCOORD names: the destination, or the first source of TCMP. -/
def recheckCode (f : Fields) : RecheckDst → Nat
  | .tile t => t.toNat
  | .pred _ => if f.major.toNat = 0x23 then f.f2.toNat else 0

/-- The vote of three runs on each differing element (R259): the core, and the elements without a majority. -/
def recheckVote (d : RecheckDst) : List RecheckDiff → Core → List Nat → Core × List Nat
  | [], c, bad => (c, bad)
  | e :: t, c, bad =>
    let x := firstRun c d e.elem
    if e.second = x ∨ e.third = x then recheckVote d t c bad
    else if e.second = e.third then recheckVote d t (putElem c d e.elem e.second) bad
    else recheckVote d t c (bad ++ [e.elem])

/-- The same for scales; one without a majority counts for the first element of its block. -/
def scaleVote (t : TileCode) : List ScaleDiff → Core → List Nat → Core × List Nat
  | [], c, bad => (c, bad)
  | e :: l, c, bad =>
    let h := dstRec c t
    let (k, r) := memberOf h t.toNat e.row
    let y := getTile c k
    let x := mapNat y.scales (r * 512 + e.block)
    if e.second = x ∨ e.third = x then scaleVote t l c bad
    else if e.second = e.third then
      scaleVote t l { c with tiles := vset c.tiles k { y with scales := mapPutNat y.scales (r * 512 + e.block) e.second } } bad
    else scaleVote t l c (bad ++ [e.row * h.gc + 32 * e.block])

/-- The vote on a value: it, or none without a majority. -/
def vote3 {α : Type} [DecidableEq α] (x y z : α) : Option α := if y = x ∨ z = x then some x else if y = z then some y else none

/-- The vote on flags, bit by bit. -/
def voteBits (x y z : Nat) : Nat := (x &&& y) ||| (x &&& z) ||| (y &&& z)

/-- What the runs of an instruction lead to (R259): its results stand as the core has them, its first lost elements, or a
trap that the first run did not meet, with the core that it leaves. -/
inductive Settled where
  | stands (c : Core)
  | mismatch (elems : List Nat)
  | traps (t : TrapInfo) (c : Core)

/-- Flags that a trap on flags leaves in FSTAT (R108, R137): a SUS that stands is among them. -/
def trapFlags (t : TrapInfo) (fl : Nat) : Nat := if t.cause = .suspect then fl ||| fSUS else fl

/-- Settle an entry. -/
def settleRuns (e : Recheck) (r : RecheckRuns) : Settled :=
  let f := Fields.ofWord e.word
  let (c1, bad1) := match recheckDst f with
    | some d => recheckVote d r.elems e.after []
    | none => (e.after, [])
  let (c2, bad2) := match recheckDst f with
    | some (.tile t) => if t.toNat < 28 then scaleVote t r.scales c1 bad1 else (c1, bad1)
    | _ => (c1, bad1)
  let reg : Option Core := match recheckReg f, r.reg with
    | some d, some (y, z) => (vote3 (rget c2.s d) y z).map fun x => if x = rget c2.s d then c2 else regSet c2 false d x
    | _, _ => some c2
  let fl := match r.flags with
    | some (y, z) => voteBits e.flags y z
    | none => e.flags
  let trap : Option (Option TrapInfo) := match r.trap with
    | some (y, z) => vote3 none y z
    | none => some none
  match trap, reg with
  | some (some t), _ => .traps t (if t.cause = .suspect ∨ t.cause = .fpEnabled then orFlags e.before (trapFlags t fl) else e.before)
  | some none, some c => if bad2 = [] then .stands { c with fstat := e.before.fstat ||| BitVec.ofNat 64 fl } else .mismatch bad2
  | _, _ => .mismatch bad2

/-- One more replaced result (R259, R276). -/
def countRecheck (s : State) (p : Nat) : State := updPolder s p fun x => { x with rchkcnt := Nat.min (x.rchkcnt + 1) (2 ^ 32 - 1) }

/-- The block as it was when an entry had run: later execute-half instructions are executed again (R259). -/
def Block.backTo (b : Block) (k : Nat) (e : Recheck) (c : Core) (pc : Nat) : Block :=
  { b.quiet with core := c, pc := pc, convoy := e.convoy, openW := e.openW, skipC := false, recheck := b.recheck.take k }

/-- RECHECK_MISMATCH at an entry: the strip is rewound if it is rewindable, and the trap names the lowest element that has
no majority (R259). -/
def recheckTrap (s : State) (id : BlkId) (b : Block) (e : Recheck) (bad : List Nat) : State :=
  let f := Fields.ofWord e.word
  let t := match leastOf bad, recheckDst f with
    | some i, some d => elemTrap .recheckMismatch false (bad.any (· != i)) (coordAt (recheckRec e.after f d) (recheckCode f d) i) 0
    | _, _ => plainTrap .recheckMismatch false 0
  let b1 := if b.canRewind then { restoreBlock b with rewinds := b.rewinds + 1 } else b
  takeTrap s id { b1 with pc := e.pc } t

/-- RECHECK_RERUN (R257 to R259): an entry runs again. Where the runs agree it retires. Where they differ the majority
stands, the counter counts a replaced result, and what has read it is executed again; without a majority the block traps. -/
def execRecheckRerun (runs : RecheckRuns) (s : State) : Out :=
  let k := runs.entry
  withBlock s fun id b =>
    match b.recheck[k]? with
    | none => unchanged s
    | some e => match settleRuns e runs with
      | .stands c =>
        if c = e.after then .next (setBlock s id { b with recheck := b.recheck.eraseIdx k })
        else .next (countRecheck (setBlock s id (b.backTo k e c (e.pc + 4))) id.p)
      | .traps t c => .next (takeTrap (countRecheck s id.p) id (b.backTo k e c e.pc) t)
      | .mismatch bad => .next (recheckTrap s id b e bad)

/-! ### Taking entries -/

/-- Entries of a CU. -/
def recheckCount (s : State) (p cu : Nat) : Nat :=
  (getPolder s p).blocks.foldl (fun n e => if e.2.place.any fun q => q.1 == cu then n + e.2.recheck.length else n) 0

/-- Where all 64 entries of a CU are taken, its oldest one of this block, or else of another, retires first (R257): the
reruns then take slots. -/
def makeEntry (s : State) (id : BlkId) (cu : Nat) : State :=
  if recheckCount s id.p cu < 64 then s
  else
    let own := match getBlock s id with
      | some b => !b.recheck.isEmpty
      | none => false
    let victim : Option Nat := if own then some id.ctx else
      ((getPolder s id.p).blocks.find? fun e => e.2.place.any (fun q => q.1 == cu) && !e.2.recheck.isEmpty).map Prod.fst
    match victim with
    | some x => updBlock s ⟨id.p, x⟩ fun b => { b with recheck := b.recheck.drop 1 }
    | none => s

/-- Take an entry for an instruction that has run once. -/
def takeEntry (s : State) (id : BlkId) (e : Recheck) : State :=
  match getBlock s id with
  | none => s
  | some b => updBlock (makeEntry s id ((b.place.map Prod.fst).getD 0)) id fun b => { b with recheck := b.recheck ++ [e] }

/-- Everything of the block retires. -/
def retireAll (s : State) (id : BlkId) : State := updBlock s id fun b => { b with recheck := [] }

end Sys2Proof.Machine
end

