-- ==== Sys2Proof/Machine/Reduce.lean ====
section
/-! DEFINITION. Row reductions and scans, major 0x26 (R103 to R105, R454 to R456), and the predicate family, major 0x29
(R402, R403). -/

namespace Sys2Proof.Machine

/-! ### Combining (R103, R455) -/

/-- The elementwise operation of a reduction. -/
def redOp : RedOp → TOp
  | .add => .add | .min => .min | .max => .max

/-- The identity of a reduction (R103, R455). -/
def redIdent (op : RedOp) (t : ElemType) : Nat :=
  match fmtOf t with
  | some f =>
    let sgn := 2 ^ (f.width - 1)
    match op with
    | .add => sgn
    | .min => if t = .e4m3 then f.canon else f.infBits false
    | .max => if t = .e4m3 then f.canon else f.infBits true
  | none =>
    let w := typeWidth t
    match op with
    | .add => 0
    | .min => if isSigned t then 2 ^ (w - 1) - 1 else 2 ^ w - 1
    | .max => if isSigned t then 2 ^ (w - 1) else 0

/-- One combination: bits and flags. -/
def combine (op : RedOp) (t : ElemType) (fm : Word64) (x y : Nat × Nat) : Nat × Nat :=
  let (v, fl) := elemOp (redOp op) t fm x.1 y.1 0
  (v, x.2 ||| y.2 ||| fl)

/-- One level of the tree of R104. -/
def treeLevel (k : Nat × Nat → Nat × Nat → Nat × Nat) : List (Nat × Nat) → List (Nat × Nat)
  | x :: y :: t => k x y :: treeLevel k t
  | l => l

/-- The complete pairwise tree over 2^levels leaves. -/
def treeOf (k : Nat × Nat → Nat × Nat → Nat × Nat) : Nat → List (Nat × Nat) → Nat × Nat
  | 0, l => l.headD (0, 0)
  | n + 1, l => treeOf k n (treeLevel k l)

/-- The leaves of n elements, filled up with identities to Pow2Ceil(n) (R104). -/
def fillLeaves (ident : Nat) (size : Nat) (l : List Nat) : List (Nat × Nat) :=
  l.map (fun x => (x, 0)) ++ List.replicate (size - l.length) (ident, 0)

/-- Cut a list into pieces of 32. -/
def pieces : Nat → List Nat → List (List Nat)
  | 0, _ => []
  | n + 1, l => if l.isEmpty then [] else l.take 32 :: pieces n (l.drop 32)

/-- Kinds of reduction by row (R454). -/
inductive RedKind where
  | tree | ordered | block
  deriving DecidableEq, Repr

/-- A value that a tree without levels delivers: a NaN as the canonical one, a subnormal as FZ has it (R89, R94, R98). -/
def soleLeaf (t : ElemType) (fm : Word64) (x : Nat) : Nat × Nat :=
  match fmtOf t with
  | none => (x, 0)
  | some f => match f.val (flag fm 3) x with
    | .nan sig => nanRes f sig
    | .fin neg 0 _ => (f.zero neg, 0)
    | _ => (x, 0)

/-- The reduction of one row: its leaves in order, an inactive one none. -/
def reduceRow (kind : RedKind) (op : RedOp) (t : ElemType) (fm : Word64) (leaves : List (Option Nat)) : Nat × Nat :=
  let ident := redIdent op t
  let k := combine op t fm
  let full := leaves.map fun x => x.getD ident
  match kind with
  | .tree => let n := pow2Ceil full.length
    if n = 1 then soleLeaf t fm (full.headD ident) else treeOf k n.log2 (fillLeaves ident n full)
  | .ordered => leaves.foldl (fun a x => match x with
    | some v => k a (v, 0)
    | none => a) (ident, 0)
  | .block => (pieces full.length full).foldl (fun a p => k a (treeOf k 5 (fillLeaves ident 32 p))) (ident, 0)

/-! ### TRED, TREDO, TREDB, TSCAN -/

/-- Issue-time causes (R454). The range that R81 bounds is the destination's; the predicate selects elements of ta (R455). -/
def redCheck (b : Block) (f : FmtPermU) (scan : Bool) : Option Cause :=
  let c := b.core
  let h := dstRec c f.td
  let ha := srcRec c f.ta
  shapeCause (!dstOk b.grantc c f.td || decide (28 ≤ f.td.toNat) || !srcOk b.grantc c f.ta
      || predTooLong f.g (recElems h) false)
    (!isNum ha.ty || h.ty ≠ ha.ty || recRows h ≠ recRows ha || h.gc ≠ (if scan then ha.gc else 1))

/-- The values of the columns of a row, none where the predicate is false. -/
def rowLeaves (c : Core) (g : Guard) (x : Src) (n r : Nat) : List (Option Nat) :=
  (span (r * n) n).map fun i => if isActive c g i then some (x.get i) else none

/-- A reduction to column 0. -/
def reduceOp (kind : RedKind) (f : FmtPermU) (op : RedOp) (s : State) : Out :=
  withBlock s fun id b =>
    tileOp s id b (redCheck b f false) [f.ta] (some f.td) fun c xs =>
      match xs with
      | [x] =>
        let h := dstRec c f.td
        let n := (srcRec c f.ta).gc
        let act := activeIx c f.g (recElems (srcRec c f.ta))
        let hits := readHits c (act.map fun i => (i, [(x, i)])) true
        let rows := (act.map fun i => i / n).eraseDups
        let rs := rows.map fun r =>
          let (v, fl) := reduceRow kind op h.ty c.fmode (rowLeaves c f.g x n r)
          (⟨r, v, none, fl⟩ : Res)
        let ok := rs.filter fun r => !(hits.any fun k => k.lin / n == r.lin)
        let fp := (fpHits c.fmode h f.td.toNat ok).map fun k => { k with lin := k.lin * n }
        ⟨hits ++ fp, rs.map fun r => ((r.lin + 1) * n, r.flags), fun c' => writeDst c' f.td rs []⟩
      | _ => .nothing

/-- TRED (R455). -/
def execTred (f : FmtPermU) (op : RedOp) (s : State) : Out := reduceOp .tree f op s
/-- TREDO (R455). -/
def execTredo (f : FmtPermU) (op : RedOp) (s : State) : Out := reduceOp .ordered f op s
/-- TREDB (R455). -/
def execTredb (f : FmtPermU) (op : RedOp) (s : State) : Out := reduceOp .block f op s

/-- The running values of a row (R103): results for its active elements, and what has been folded so far. -/
def scanRow (op : RedOp) (t : ElemType) (fm : Word64) : Nat → List (Option Nat) → Nat → List Res
  | _, [], _ => []
  | i, none :: l, acc => scanRow op t fm (i + 1) l acc
  | i, some v :: l, acc =>
    let (x, fl) := combine op t fm (acc, 0) (v, 0)
    ⟨i, x, none, fl⟩ :: scanRow op t fm (i + 1) l x

/-- TSCAN (R455). -/
def execTscan (f : FmtPermU) (op : RedOp) (s : State) : Out :=
  withBlock s fun id b =>
    tileOp s id b (redCheck b f true) [f.ta] (some f.td) fun c xs =>
      match xs with
      | [x] =>
        let h := dstRec c f.td
        let act := activeIx c f.g (recElems h)
        let hits := readHits c (act.map fun i => (i, [(x, i)])) true
        let rs := (upTo (recRows h)).flatMap fun r =>
          scanRow op h.ty c.fmode (r * h.gc) (rowLeaves c f.g x h.gc r) (redIdent op h.ty)
        let ok := rs.filter fun r => !(hits.any fun k => k.lin == r.lin)
        ⟨hits ++ fpHits c.fmode h f.td.toNat ok, raisedBy rs, fun c' => writeDst c' f.td rs []⟩
      | _ => .nothing

/-! ### The predicate family (R402, R403) -/

/-- Result bits: `bit_ i` where i is below gr × gc of the strip grant and active, else zero. -/
def predResult (c : Core) (g : Guard) (bit_ : Nat → Bool) : List Nat :=
  (activeIx c g (Nat.min (c.gr * c.gc) 65536)).filter bit_

/-- PAND to PNOT and PSET: a predicate is written whole. -/
def predOp (pd : PredNo) (g : Guard) (s : State) (bit_ : Core → Nat → Bool) : Out :=
  withBlock s fun id b => notInHandler s id b false
    (finish s id { b with core := setPred b.core pd (bitsOf (predResult b.core g (bit_ b.core))) })

/-- PAND (R403). -/
def execPand (f : FmtPred) (s : State) : Out := predOp f.pd f.g s fun c i => predBit c f.pa i && predBit c f.pb i
/-- POR (R403). -/
def execPor (f : FmtPred) (s : State) : Out := predOp f.pd f.g s fun c i => predBit c f.pa i || predBit c f.pb i
/-- PXOR (R403). -/
def execPxor (f : FmtPred) (s : State) : Out := predOp f.pd f.g s fun c i => predBit c f.pa i != predBit c f.pb i
/-- PNOT (R403). -/
def execPnot (f : FmtPredU) (s : State) : Out := predOp f.pd f.g s fun c i => !predBit c f.pa i

/-- PSET (R403): a marked register is consumed. -/
def execPset (pd : PredNo) (sa : RegNo) (g : Guard) (s : State) : Out :=
  withBlock s fun id b => notInHandler s id b false
    (unlessMarked s id b false [rmark b.core.sm sa]
      (predOp pd g s fun c i => decide (i < (rget c.s sa).toNat)))

/-- PCNT (R403). -/
def execPcnt (sd : RegNo) (pa : PredNo) (g : Guard) (s : State) : Out :=
  withBlock s fun id b => notInHandler s id b false
    (let l := predResult b.core g (predBit b.core pa)
    finish s id { b with core := regSet b.core false sd (BitVec.ofNat 64 l.length) })

/-- PFF (R403). -/
def execPff (sd : RegNo) (pa : PredNo) (g : Guard) (s : State) : Out :=
  withBlock s fun id b => notInHandler s id b false
    (let l := predResult b.core g (predBit b.core pa)
    finish s id { b with core := regSet b.core false sd (BitVec.ofNat 64 (l.headD (b.core.gr * b.core.gc))) })

end Sys2Proof.Machine
end

