-- ==== Sys2Proof/Machine/RegWrites.lean ====
section
/-! DEFINITION. A write of a register (R4, R5): the register maps of the functions (R21), each register with the event
that its write is, or with its RW bits. -/

namespace Sys2Proof.Machine

/-- Keep the RW bits of a value (R5). -/
def rw (v mask : Word64) : Word64 := v &&& mask

/-! ### Host queues (R226, R227) -/

/-- A write of a host-queue register. -/
def writeQueueReg (p : PolderNo) (q : QueueNo) (o : Nat) (v : Word64) (s : State) : Out :=
  let upd (f : HostQueue → HostQueue) : Out := .next (updQueue s p.toNat q.toNat f)
  match o with
  | 0x00 => execQringWrite p q v s
  | 0x08 => execQtailDoorbell p q v s
  | 0x18 => execQcqWrite p q v s
  | 0x20 => upd fun h => { h with qcqHead := rw v 0xFFFF }
  | 0x28 => execQctlWrite p q v s
  | 0x30 => upd fun h => { h with qroot := rw v 0x000FFFFFFFFF0000 }
  | 0x38 => upd fun h => { h with qslice := rw v 0xFFFFFFFF }
  | _ => unchanged s

/-! ### The registers of function 8p (R240, R248, R265, R314, R217) -/

/-- A write of a graph slot's register (R240, R241). -/
def writeSlotReg (p : PolderNo) (g : BitVec 6) (o : Nat) (v : Word64) (s : State) : Out :=
  let x := getSlot s p.toNat g.toNat
  match o with
  | 0x00 => execGraphValidate p g v s
  | 0x08 => .next (setSlot s p.toNat g.toNat { x with ctaddr := rw v 0x007FFFFFFFFFFFFF })
  | 0x10 => .next (setSlot s p.toNat g.toNat { x with ctval := v })
  | 0x18 => execGtrig p v s
  | _ => unchanged s

/-- A write of FQCTL: ERR is W1C (R248). -/
def writeFqctl (f : FaultQueue) (v : Word64) : FaultQueue :=
  let c := maskWrite f.fqctl v 0x000000F000000005
  { f with fqctl := if flag v 3 then c &&& ~~~(8 : Word64) else c }

/-- A write of FQRES (R250). -/
def writeFqres (p : PolderNo) (v : Word64) (s : State) : Out :=
  let ctx := BitVec.ofNat 32 (fld v 31 0)
  match fld v 34 32 with
  | 0 => execFqresResume p ctx s
  | 1 => execFqresSkip p ctx s
  | 2 => execFqresKill p ctx s
  | _ => rejectResolution s p.toNat

/-- A write of CODECMD: other codes of OP are ignored (R314). -/
def writeCodecmd (p : PolderNo) (v : Word64) (s : State) : Out :=
  match fld v 63 62 with
  | 1 => execCodeLoad p v s
  | 2 => execCodeUnload p v s
  | _ => unchanged s

/-- A write of a register that function 8p alone shows. -/
def writeOwner (p : PolderNo) (off : Nat) (v : Word64) (s : State) : Out :=
  let fq (f : FaultQueue → FaultQueue) : Out := .next (updPolder s p.toNat fun x => { x with fq := f x.fq })
  if 0x2000 ≤ off ∧ off < 0x2800 then writeSlotReg p (BitVec.ofNat 6 ((off - 0x2000) / 0x20)) (off % 0x20) v s
  else if 0x4100 ≤ off ∧ off < 0x4180 then
    execSluiceEntryWrite p false (BitVec.ofNat 3 ((off - 0x4100) / 16)) (off % 16 == 8) v s
  else if 0x4200 ≤ off ∧ off < 0x4280 then
    execSluiceEntryWrite p true (BitVec.ofNat 3 ((off - 0x4200) / 16)) (off % 16 == 8) v s
  else if 0x5000 ≤ off ∧ off < 0x5800 then
    execQptabWrite p (BitVec.ofNat 6 ((off - 0x5000) / 32)) (BitVec.ofNat 2 ((off % 32) / 8)) v s
  else match off with
    | 0x3000 => execFqringWrite p v s
    | 0x3008 => fq fun f => { f with fqhead := rw v 0xFFFF }
    | 0x3010 => fq fun f => writeFqctl f v
    | 0x3018 => writeFqres p v s
    | 0x4008 => execOwnerMapWrite p .s2root v s
    | 0x4010 => execOwnerMapWrite p .ctxpool v s
    | 0x4018 => execOwnerMapWrite p .lmi v s
    | 0x4400 => writeCodecmd p v s
    | _ => unchanged s

/-- A virtual function's BAR0 (R21). -/
def writeVf (v : BitVec 7) (off : Nat) (x : Word64) (s : State) : Out :=
  let p : PolderNo := BitVec.ofNat 4 (vfPolder v.toNat)
  if 0x1000 ≤ off ∧ off < 0x1200 then
    writeQueueReg p (BitVec.ofNat 6 (8 * (v.toNat % 8) + (off - 0x1000) / 0x40)) (off % 0x40) x s
  else if v.toNat % 8 = 0 then writeOwner p off x s
  else unchanged s

/-! ### Physical function 0 (R26, R266, R277, R282) -/

/-- RW bits of a PCIe or register window. -/
def winMask (hi : Bool) : Word64 := if hi then 0xFFFFFFFFFFFF0001 else 0xFFFFFFFFFFFF0000

/-- RW bits of a domain-inbound window (R27). -/
def dwinMask (hi : Bool) : Word64 := if hi then 0xFFFFFC7FFFFF0000 else 0x0000007FFFFF0003

/-- Write a dword of a window. -/
def putWin {n : Nat} (l : Vector (Word64 × Word64) n) (o : Nat) (v : Word64) : Vector (Word64 × Word64) n :=
  vset l (o / 16) (pairPut (vget (0, 0) l (o / 16)) (o % 16 == 8) v)

/-- A write of PRESET: other codes are ignored (R266). -/
def writePreset (p : PolderNo) (v : Word64) (s : State) : Out :=
  match fld v 1 0 with
  | 1 => execPresetKeep p s
  | 2 => execPresetScrub p s
  | _ => unchanged s

/-- A write of a polder management block (R266). -/
def writeMgmt (p : PolderNo) (o : Nat) (v : Word64) (s : State) : Out :=
  let upd (f : Polder → Polder) : Out := .next (updPolder s p.toNat f)
  let hi := o % 16 == 8
  if o = 0x00 then execPctlWrite p v s
  else if o = 0x08 then writePreset p v s
  else if 0x20 ≤ o ∧ o < 0x60 then upd fun x => { x with pcieWin := putWin x.pcieWin (o - 0x20) (rw v (winMask hi)) }
  else if 0x60 ≤ o ∧ o < 0x80 then upd fun x => { x with regWin := putWin x.regWin (o - 0x60) (rw v (winMask hi)) }
  else if 0x80 ≤ o ∧ o < 0xC0 then upd fun x => { x with dwin := putWin x.dwin (o - 0x80) (rw v (dwinMask hi)) }
  else unchanged s

/-- A write of four ROUTE registers (R26). -/
def putRoutes (d : Device) (n : Nat) (v : Word64) : Device :=
  { d with routes := (upTo 4).foldl (fun r k => mapPutNat r (n + k) (fld v (16 * k + 15) (16 * k) &&& 0x800F)) d.routes }

/-- Physical function 0's BAR0 (R21). -/
def writePf (off : Nat) (v : Word64) (s : State) : Out :=
  let dev (f : Device → Device) : Out := .next (updDev s f)
  if 0x100000 ≤ off ∧ off < 0x110000 then writeMgmt (BitVec.ofNat 4 ((off - 0x100000) / 0x1000)) (off % 0x1000) v s
  else if 0x211000 ≤ off ∧ off < 0x212000 then dev fun d => putRoutes d ((off - 0x211000) / 2) v
  else match off with
    | 0x200000 => execHoctlWrite v s
    | 0x200010 => dev fun d => { d with dlrth := rw v 0xFFFF }
    | 0x210000 => dev fun d => { d with domnum := rw v 0x80000000000007FF }
    | _ => unchanged s

/-! ### The other spaces (R19, R219, R238, R239) -/

/-- Scheduler memory through a virtual function's BAR2 (R239). -/
def writeSched (v : BitVec 7) (off : Nat) (x : Word64) (s : State) : Out :=
  if off + 8 ≤ 0x200000 then
    .next (updPolder s (vfPolder v.toNat) fun y => { y with sched := memSetBytes y.sched off (wordBytes x) })
  else unchanged s

/-- Set or clear the mask of an MSI-X vector (R238). -/
def writeMask (fn : FnId) (vec : Nat) (masked : Bool) (s : State) : Out :=
  if masked then
    let m := msixOf s fn
    .next (setMsix s fn { m with masked := setBit m.masked vec true })
  else execMsixUnmask fn (BitVec.ofNat 4 vec) s

/-- A function's configuration, at offsets of the model's own (log 8): in physical function 0 the VF BAR4 base, the VF
BAR4 size and VF MSE (R219); in every function the masks of its 16 vectors. -/
def writeConfig (fn : FnId) (off : Nat) (v : Word64) (s : State) : Out :=
  if 0x100 ≤ off ∧ off < 0x200 ∧ off % 16 = 0 then writeMask fn ((off - 0x100) / 16) (flag v 0) s
  else match fn, off with
    | .pf0, 0x00 => .next (updDev s fun d => { d with vfBar4 := v })
    | .pf0, 0x08 => .next (updDev s fun d => { d with vfBar4Size := v })
    | .pf0, 0x10 => .next (updDev s fun d => { d with vfMse := flag v 0 })
    | _, _ => unchanged s

/-- REGISTER_WRITE (R4, R5): the register at an offset of a function's space; a register whose write is an event of its
own takes that event. -/
def execRegisterWrite (fn : FnId) (sp : RegSpace) (off : Nat) (v : Word64) (s : State) : Out :=
  match sp, fn with
  | .bar0, .pf0 => writePf off v s
  | .bar0, .vf f => writeVf f off v s
  | .bar2, .vf f => writeSched f off v s
  | .bar2, .pf0 => unchanged s
  | .config, _ => writeConfig fn off v s

/-! ### Writes of fewer than eight bytes (log 70) -/

/-- W1C bits of a register (R227, R248). -/
def w1cBits (fn : FnId) (off : Nat) : Word64 :=
  match fn with
  | .pf0 => 0
  | .vf v => if (0x1000 ≤ off ∧ off < 0x1200 ∧ off % 0x40 = 0x28) ∨ (v.toNat % 8 = 0 ∧ off = 0x3010) then 8 else 0

/-- What a register keeps in the bytes that a write leaves out: its value, with nothing written to a W1C bit. -/
def keptWord (s : State) (fn : FnId) (off : Nat) : Word64 :=
  let raw := match fn with
    | .vf v =>
      if v.toNat % 8 = 0 ∧ 0x5000 ≤ off ∧ off < 0x5800 then
        qpWord (vget ⟨0, 0, 0, 0, 0, 0, true⟩ (getPolder s (vfPolder v.toNat)).qptab ((off - 0x5000) / 32)) ((off % 32) / 8)
      else readReg s fn off
    | .pf0 => readReg s fn off
  raw &&& ~~~(w1cBits fn off)

/-- Bytes put into a dword. -/
def spliceBytes (v : Word64) (k : Nat) (bs : List Byte) : Word64 :=
  leWord ((wordBytes v).take k ++ bs ++ (wordBytes v).drop (k + bs.length))

/-- A write of bytes of one dword of BAR0. A ROUTE register is written so by its two bytes (R26). -/
def storeRegister (fn : FnId) (off : Nat) (bs : List Byte) (s : State) : Out :=
  let r := off - off % 8
  if bs.length = 0 ∨ 8 < off % 8 + bs.length then unchanged s
  else execRegisterWrite fn .bar0 r (spliceBytes (keptWord s fn r) (off % 8) bs) s

/-- The same for any space that a host writes. -/
def storeSpace (fn : FnId) (sp : RegSpace) (off : Nat) (bs : List Byte) (s : State) : Out :=
  match sp, fn with
  | .bar0, _ => storeRegister fn off bs s
  | .bar2, .vf v =>
    if off + bs.length ≤ 0x200000 then
      .next (updPolder s (vfPolder v.toNat) fun y => { y with sched := memSetBytes y.sched off bs })
    else unchanged s
  | .bar2, .pf0 => unchanged s
  | .config, _ =>
    let r := off - off % 8
    if bs.length = 0 ∨ 8 < off % 8 + bs.length then unchanged s
    else writeConfig fn r (spliceBytes (readConfig s fn r) (off % 8) bs) s

end Sys2Proof.Machine
end

