-- ==== Sys2Proof/Machine/Dispatch.lean ====
section
/-! DEFINITION. One arm for each instruction and event. -/

namespace Sys2Proof.Machine

/-- What an instruction or event does. -/
def exec (i : Instr) (s : State) : Host.Outcome State Fault Refusal :=
  match i with
  | .nop => Sys2Proof.Machine.execNop s
  | .halt => Sys2Proof.Machine.execHalt s
  | .yield => Sys2Proof.Machine.execYield s
  | .wfe => Sys2Proof.Machine.execWfe s
  | .brk => Sys2Proof.Machine.execBrk s
  | .trap f => Sys2Proof.Machine.execTrap f s
  | .sysc => Sys2Proof.Machine.execSysc s
  | .uien k => Sys2Proof.Machine.execUien k s
  | .uiret => Sys2Proof.Machine.execUiret s
  | .tlbinv ava an => Sys2Proof.Machine.execTlbinv ava an s
  | .tlbinvS2 => Sys2Proof.Machine.execTlbinvS2 s
  | .eret => Sys2Proof.Machine.execEret s
  | .ctlr side rd n => Sys2Proof.Machine.execCtlr side rd n s
  | .ctlw side rs n => Sys2Proof.Machine.execCtlw side rs n s
  | .beq f => Sys2Proof.Machine.execBeq f s
  | .bne f => Sys2Proof.Machine.execBne f s
  | .blt f => Sys2Proof.Machine.execBlt f s
  | .bge f => Sys2Proof.Machine.execBge f s
  | .bltn f => Sys2Proof.Machine.execBltn f s
  | .bgen f => Sys2Proof.Machine.execBgen f s
  | .jmp off => Sys2Proof.Machine.execJmp off s
  | .jal side rd off => Sys2Proof.Machine.execJal side rd off s
  | .jalr f => Sys2Proof.Machine.execJalr f s
  | .qput f => Sys2Proof.Machine.execQput f s
  | .qget f => Sys2Proof.Machine.execQget f s
  | .add f => Sys2Proof.Machine.execAdd f s
  | .sub f => Sys2Proof.Machine.execSub f s
  | .mul f => Sys2Proof.Machine.execMul f s
  | .mulh f => Sys2Proof.Machine.execMulh f s
  | .mulhn f => Sys2Proof.Machine.execMulhn f s
  | .div f => Sys2Proof.Machine.execDiv f s
  | .divn f => Sys2Proof.Machine.execDivn f s
  | .rem f => Sys2Proof.Machine.execRem f s
  | .remn f => Sys2Proof.Machine.execRemn f s
  | .and f => Sys2Proof.Machine.execAnd f s
  | .or f => Sys2Proof.Machine.execOr f s
  | .xor f => Sys2Proof.Machine.execXor f s
  | .shl f => Sys2Proof.Machine.execShl f s
  | .shr f => Sys2Proof.Machine.execShr f s
  | .sra f => Sys2Proof.Machine.execSra f s
  | .slt f => Sys2Proof.Machine.execSlt f s
  | .sltn f => Sys2Proof.Machine.execSltn f s
  | .min f => Sys2Proof.Machine.execMin f s
  | .max f => Sys2Proof.Machine.execMax f s
  | .minn f => Sys2Proof.Machine.execMinn f s
  | .maxn f => Sys2Proof.Machine.execMaxn f s
  | .clz f => Sys2Proof.Machine.execClz f s
  | .ctz f => Sys2Proof.Machine.execCtz f s
  | .popc f => Sys2Proof.Machine.execPopc f s
  | .sel f => Sys2Proof.Machine.execSel f s
  | .addi f => Sys2Proof.Machine.execAddi f s
  | .andi f => Sys2Proof.Machine.execAndi f s
  | .ori f => Sys2Proof.Machine.execOri f s
  | .xori f => Sys2Proof.Machine.execXori f s
  | .shli f => Sys2Proof.Machine.execShli f s
  | .shri f => Sys2Proof.Machine.execShri f s
  | .srai f => Sys2Proof.Machine.execSrai f s
  | .slti f => Sys2Proof.Machine.execSlti f s
  | .lih f => Sys2Proof.Machine.execLih f s
  | .fadd f => Sys2Proof.Machine.execFadd f s
  | .fsub f => Sys2Proof.Machine.execFsub f s
  | .fmul f => Sys2Proof.Machine.execFmul f s
  | .ffma f => Sys2Proof.Machine.execFfma f s
  | .fdiv f => Sys2Proof.Machine.execFdiv f s
  | .fsqrt f => Sys2Proof.Machine.execFsqrt f s
  | .fmin f => Sys2Proof.Machine.execFmin f s
  | .fmax f => Sys2Proof.Machine.execFmax f s
  | .fcmp f cc => Sys2Proof.Machine.execFcmp f cc s
  | .fcvt rd rs cv => Sys2Proof.Machine.execFcvt rd rs cv s
  | .fclass f => Sys2Proof.Machine.execFclass f s
  | .shape f => Sys2Proof.Machine.execShape f s
  | .shapei f => Sys2Proof.Machine.execShapei f s
  | .tbindRecord h sm => Sys2Proof.Machine.execTbindRecord h sm s
  | .tbindTiles first last h => Sys2Proof.Machine.execTbindTiles first last h s
  | .tbindSq first last h => Sys2Proof.Machine.execTbindSq first last h s
  | .tdead first last => Sys2Proof.Machine.execTdead first last s
  | .tzero t => Sys2Proof.Machine.execTzero t s
  | .ld d b ix z => Sys2Proof.Machine.execLd d b ix z s
  | .ldX d b ix z => Sys2Proof.Machine.execLdX d b ix z s
  | .st r b ix z => Sys2Proof.Machine.execSt r b ix z s
  | .stX r b ix z => Sys2Proof.Machine.execStX r b ix z s
  | .ldt f => Sys2Proof.Machine.execLdt f s
  | .stt f => Sys2Proof.Machine.execStt f s
  | .ldq f => Sys2Proof.Machine.execLdq f s
  | .stq f => Sys2Proof.Machine.execStq f s
  | .stqu f => Sys2Proof.Machine.execStqu f s
  | .ldg f => Sys2Proof.Machine.execLdg f s
  | .sts f => Sys2Proof.Machine.execSts f s
  | .feed q b => Sys2Proof.Machine.execFeed q b s
  | .pref b n => Sys2Proof.Machine.execPref b n s
  | .clean b n => Sys2Proof.Machine.execClean b n s
  | .inval b n => Sys2Proof.Machine.execInval b n s
  | .amoadd f => Sys2Proof.Machine.execAmoadd f s
  | .amoand f => Sys2Proof.Machine.execAmoand f s
  | .amoor f => Sys2Proof.Machine.execAmoor f s
  | .amoxor f => Sys2Proof.Machine.execAmoxor f s
  | .amomin f => Sys2Proof.Machine.execAmomin f s
  | .amomax f => Sys2Proof.Machine.execAmomax f s
  | .amominn f => Sys2Proof.Machine.execAmominn f s
  | .amomaxn f => Sys2Proof.Machine.execAmomaxn f s
  | .amoswp f => Sys2Proof.Machine.execAmoswp f s
  | .amofadd f => Sys2Proof.Machine.execAmofadd f s
  | .amocas f => Sys2Proof.Machine.execAmocas f s
  | .tamo f => Sys2Proof.Machine.execTamo f s
  | .fence sc ord => Sys2Proof.Machine.execFence sc ord s
  | .fenceSt durable => Sys2Proof.Machine.execFenceSt durable s
  | .wmpub a => Sys2Proof.Machine.execWmpub a s
  | .wmwait h b => Sys2Proof.Machine.execWmwait h b s
  | .bar k => Sys2Proof.Machine.execBar k s
  | .arrive k => Sys2Proof.Machine.execArrive k s
  | .await k => Sys2Proof.Machine.execAwait k s
  | .tsend t rank tag => Sys2Proof.Machine.execTsend t rank tag s
  | .trecv t rank tag => Sys2Proof.Machine.execTrecv t rank tag s
  | .engb t pd aseq pg => Sys2Proof.Machine.execEngb t pd aseq pg s
  | .engw d b => Sys2Proof.Machine.execEngw d b s
  | .engwChk d b => Sys2Proof.Machine.execEngwChk d b s
  | .engqRow d a => Sys2Proof.Machine.execEngqRow d a s
  | .engqCard d a => Sys2Proof.Machine.execEngqCard d a s
  | .engqFence d => Sys2Proof.Machine.execEngqFence d s
  | .tadd f => Sys2Proof.Machine.execTadd f s
  | .tsub f => Sys2Proof.Machine.execTsub f s
  | .tmul f => Sys2Proof.Machine.execTmul f s
  | .tdiv f => Sys2Proof.Machine.execTdiv f s
  | .tsqrt f => Sys2Proof.Machine.execTsqrt f s
  | .trsq f => Sys2Proof.Machine.execTrsq f s
  | .trcp f => Sys2Proof.Machine.execTrcp f s
  | .texp2 f => Sys2Proof.Machine.execTexp2 f s
  | .tlog2 f => Sys2Proof.Machine.execTlog2 f s
  | .tmin f => Sys2Proof.Machine.execTmin f s
  | .tmax f => Sys2Proof.Machine.execTmax f s
  | .tabs f => Sys2Proof.Machine.execTabs f s
  | .tneg f => Sys2Proof.Machine.execTneg f s
  | .tclamp f => Sys2Proof.Machine.execTclamp f s
  | .tfma f => Sys2Proof.Machine.execTfma f s
  | .tfms f => Sys2Proof.Machine.execTfms f s
  | .tfnma f => Sys2Proof.Machine.execTfnma f s
  | .tand f => Sys2Proof.Machine.execTand f s
  | .tor f => Sys2Proof.Machine.execTor f s
  | .txor f => Sys2Proof.Machine.execTxor f s
  | .tnot f => Sys2Proof.Machine.execTnot f s
  | .tshl f => Sys2Proof.Machine.execTshl f s
  | .tshr f => Sys2Proof.Machine.execTshr f s
  | .tsra f => Sys2Proof.Machine.execTsra f s
  | .tcmp f => Sys2Proof.Machine.execTcmp f s
  | .tsel f => Sys2Proof.Machine.execTsel f s
  | .tcvt f => Sys2Proof.Machine.execTcvt f s
  | .tqnt f => Sys2Proof.Machine.execTqnt f s
  | .tdq f => Sys2Proof.Machine.execTdq f s
  | .tspl f => Sys2Proof.Machine.execTspl f s
  | .tbcr f => Sys2Proof.Machine.execTbcr f s
  | .tmov f => Sys2Proof.Machine.execTmov f s
  | .tiota f => Sys2Proof.Machine.execTiota f s
  | .tred f op => Sys2Proof.Machine.execTred f op s
  | .tredo f op => Sys2Proof.Machine.execTredo f op s
  | .tredb f op => Sys2Proof.Machine.execTredb f op s
  | .tscan f op => Sys2Proof.Machine.execTscan f op s
  | .ttrn f => Sys2Proof.Machine.execTtrn f s
  | .tshf f => Sys2Proof.Machine.execTshf f s
  | .tsld f => Sys2Proof.Machine.execTsld f s
  | .trot f => Sys2Proof.Machine.execTrot f s
  | .tsort f => Sys2Proof.Machine.execTsort f s
  | .tsrch f => Sys2Proof.Machine.execTsrch f s
  | .cmprs f => Sys2Proof.Machine.execCmprs f s
  | .expnd f => Sys2Proof.Machine.execExpnd f s
  | .pand f => Sys2Proof.Machine.execPand f s
  | .por f => Sys2Proof.Machine.execPor f s
  | .pxor f => Sys2Proof.Machine.execPxor f s
  | .pnot f => Sys2Proof.Machine.execPnot f s
  | .pset pd sa g => Sys2Proof.Machine.execPset pd sa g s
  | .pcnt sd pa g => Sys2Proof.Machine.execPcnt sd pa g s
  | .pff sd pa g => Sys2Proof.Machine.execPff sd pa g s
  | .pld p b => Sys2Proof.Machine.execPld p b s
  | .pst p b => Sys2Proof.Machine.execPst p b s
  | .map f fn => Sys2Proof.Machine.execMap f fn s
  | .mapr f fn => Sys2Proof.Machine.execMapr f fn s
  | .lret => Sys2Proof.Machine.execLret s
  | .lskipNz a n => Sys2Proof.Machine.execLskipNz a n s
  | .lskipZ a n => Sys2Proof.Machine.execLskipZ a n s
  | .mopa f rep => Sys2Proof.Machine.execMopa f rep s
  | .mops f rep => Sys2Proof.Machine.execMops f rep s
  | .mma f => Sys2Proof.Machine.execMma f s
  | .mmad f tids => Sys2Proof.Machine.execMmad f tids s
  | .oload slab b d => Sys2Proof.Machine.execOload slab b d s
  | .ofree slab => Sys2Proof.Machine.execOfree slab s
  | .apre a e k => Sys2Proof.Machine.execApre a e k s
  | .ainv a => Sys2Proof.Machine.execAinv a s
  | .ainvAll => Sys2Proof.Machine.execAinvAll s
  | .adtb b l => Sys2Proof.Machine.execAdtb b l s
  | .convoyIssue => Sys2Proof.Machine.execConvoyIssue s
  | .feedElementLoad k => Sys2Proof.Machine.execFeedElementLoad k s
  | .queueDeadlock => Sys2Proof.Machine.execQueueDeadlock s
  | .preemption => Sys2Proof.Machine.execPreemption s
  | .clusterPlacement p => Sys2Proof.Machine.execClusterPlacement p s
  | .timeSliceExpiry => Sys2Proof.Machine.execTimeSliceExpiry s
  | .stripRewind m => Sys2Proof.Machine.execStripRewind m s
  | .userInterruptEntry => Sys2Proof.Machine.execUserInterruptEntry s
  | .barrierPhaseComplete k => Sys2Proof.Machine.execBarrierPhaseComplete k s
  | .adapterRowFetch row => Sys2Proof.Machine.execAdapterRowFetch row s
  | .cardStart p n => Sys2Proof.Machine.execCardStart p n s
  | .cardComplete p n => Sys2Proof.Machine.execCardComplete p n s
  | .nvmeCompletion p qp => Sys2Proof.Machine.execNvmeCompletion p qp s
  | .packetNop p q => Sys2Proof.Machine.execPacketNop p q s
  | .packetLaunch p q => Sys2Proof.Machine.execPacketLaunch p q s
  | .packetGraphRun p q => Sys2Proof.Machine.execPacketGraphRun p q s
  | .packetWrite p q => Sys2Proof.Machine.execPacketWrite p q s
  | .packetSignal p q => Sys2Proof.Machine.execPacketSignal p q s
  | .packetWriteSignal p q => Sys2Proof.Machine.execPacketWriteSignal p q s
  | .packetWait p q => Sys2Proof.Machine.execPacketWait p q s
  | .waitConditionMet p q => Sys2Proof.Machine.execWaitConditionMet p q s
  | .packetFence p q => Sys2Proof.Machine.execPacketFence p q s
  | .taskComplete p h => Sys2Proof.Machine.execTaskComplete p h s
  | .taskEnd p h tcause => Sys2Proof.Machine.execTaskEnd p h tcause s
  | .completionEntryWrite p q => Sys2Proof.Machine.execCompletionEntryWrite p q s
  | .quietIntervalExpiry p q => Sys2Proof.Machine.execQuietIntervalExpiry p q s
  | .queueSliceExpiry p => Sys2Proof.Machine.execQueueSliceExpiry p s
  | .qtailDoorbell p q v => Sys2Proof.Machine.execQtailDoorbell p q v s
  | .qctlWrite p q v => Sys2Proof.Machine.execQctlWrite p q v s
  | .graphValidate p g v => Sys2Proof.Machine.execGraphValidate p g v s
  | .gtrig p v => Sys2Proof.Machine.execGtrig p v s
  | .graphNodeStart p g n => Sys2Proof.Machine.execGraphNodeStart p g n s
  | .codeLoad p v => Sys2Proof.Machine.execCodeLoad p v s
  | .codeUnload p v => Sys2Proof.Machine.execCodeUnload p v s
  | .codeSlotFree p e => Sys2Proof.Machine.execCodeSlotFree p e s
  | .faultRecordWrite p => Sys2Proof.Machine.execFaultRecordWrite p s
  | .fqringWrite p v => Sys2Proof.Machine.execFqringWrite p v s
  | .fqresResume p ctx => Sys2Proof.Machine.execFqresResume p ctx s
  | .fqresSkip p ctx => Sys2Proof.Machine.execFqresSkip p ctx s
  | .fqresKill p ctx => Sys2Proof.Machine.execFqresKill p ctx s
  | .presetKeep p => Sys2Proof.Machine.execPresetKeep p s
  | .presetScrub p => Sys2Proof.Machine.execPresetScrub p s
  | .pctlWrite p v => Sys2Proof.Machine.execPctlWrite p v s
  | .sluiceEntryWrite p grant k hi v => Sys2Proof.Machine.execSluiceEntryWrite p grant k hi v s
  | .sluiceCloseComplete p k => Sys2Proof.Machine.execSluiceCloseComplete p k s
  | .ownerMapWrite p r v => Sys2Proof.Machine.execOwnerMapWrite p r v s
  | .handoverSwitch p => Sys2Proof.Machine.execHandoverSwitch p s
  | .causewayRequest => Sys2Proof.Machine.execCausewayRequest s
  | .causewayResponse => Sys2Proof.Machine.execCausewayResponse s
  | .bringup fails => Sys2Proof.Machine.execBringup fails s
  | .fullRateTransition p => Sys2Proof.Machine.execFullRateTransition p s
  | .registerWrite fn sp off v => Sys2Proof.Machine.execRegisterWrite fn sp off v s
  | .resyncComplete p m => Sys2Proof.Machine.execResyncComplete p m s
  | .dieLinkResume m => Sys2Proof.Machine.execDieLinkResume m s
  | .causewayRetrain port => Sys2Proof.Machine.execCausewayRetrain port s
  | .trapTaken t => Sys2Proof.Machine.execTrapTaken t s
  | .recheckRerun runs => Sys2Proof.Machine.execRecheckRerun runs s
  | .msixUnmask fn vec => Sys2Proof.Machine.execMsixUnmask fn vec s
  | .sluiceDown va => Sys2Proof.Machine.execSluiceDown va s
  | .hoctlWrite v => Sys2Proof.Machine.execHoctlWrite v s
  | .attestQuote fn nonce mask => Sys2Proof.Machine.execAttestQuote fn nonce mask s
  | .attestLog fn chain => Sys2Proof.Machine.execAttestLog fn chain s
  | .voteDissent p m copy => Sys2Proof.Machine.execVoteDissent p m copy s
  | .controlMachineCheck p => Sys2Proof.Machine.execControlMachineCheck p s
  | .dieLinkRepair m bad bad2 => Sys2Proof.Machine.execDieLinkRepair m bad bad2 s
  | .causewayFlitReceive port flit => Sys2Proof.Machine.execCausewayFlitReceive port flit s
  | .causewayReplay port ack => Sys2Proof.Machine.execCausewayReplay port ack s
  | .causewayPortDown port => Sys2Proof.Machine.execCausewayPortDown port s
  | .causewayTimeout p tag => Sys2Proof.Machine.execCausewayTimeout p tag s
  | .inboundPcieAccess fn off op => Sys2Proof.Machine.execInboundPcieAccess fn off op s
  | .railLimit p act => Sys2Proof.Machine.execRailLimit p act s
  | .failure u => Sys2Proof.Machine.execFailure u s
  | .uncorrectableError pl => Sys2Proof.Machine.execUncorrectableError pl s
  | .qptabWrite p e w v => Sys2Proof.Machine.execQptabWrite p e w v s
  | .qringWrite p q v => Sys2Proof.Machine.execQringWrite p q v s
  | .qcqWrite p q v => Sys2Proof.Machine.execQcqWrite p q v s
  | .qctlErrClear p q => Sys2Proof.Machine.execQctlErrClear p q s

end Sys2Proof.Machine
end

