-- ==== Sys2Proof/Machine/Firmware.lean ====
section
/-! DEFINITION. The firmware cores of the command processor and the scheduler (R243, R289, R369): what a word does there, and
the views that the firmware keeps of the scheduler's tables. What the firmware chooses is in the instructions of the table
(R232 to R242); a core's own program is not (log 80). -/

namespace Sys2Proof.Machine

/-! ### The cores -/

/-- A firmware core of polder p: that of the command processor, or that of the scheduler. -/
def getFw (s : State) (p : Nat) (sched : Bool) : FwCore := vget FwCore.init (getPolder s p).fw (if sched then 1 else 0)

/-- Replace it. -/
def setFw (s : State) (p : Nat) (sched : Bool) (x : FwCore) : State :=
  updPolder s p fun y => { y with fw := vset y.fw (if sched then 1 else 0) x }

/-- The majors that a firmware core executes (R243). -/
def fwMajor (m : Nat) : Bool :=
  decide (0x01 ≤ m ∧ m ≤ 0x10) || decide (0x14 ≤ m ∧ m ≤ 0x16) || m == 0x1A || m == 0x1B || m == 0x22 || m == 0x23 || m == 0x29

/-- A firmware exception: the core saves the address and its privilege level, and its exceptions are off until ERET
(R369). Where the handler is, and at what level it runs, is the implementation's (log 80). -/
def fwException (x : FwCore) : FwCore :=
  { x with savedPc := x.pc, savedPriv := x.priv, pc := Config.fwVector x.pc, priv := Config.fwPriv x.priv, exceptions := false }

/-- ERET (R369). -/
def fwReturn (x : FwCore) : FwCore := { x with pc := x.savedPc, priv := x.savedPriv, exceptions := true }

/-- The number under which a firmware core's registers stand in a block's place: no context has it. -/
def fwCtx : Nat := 65537

/-- A task without feeds or arguments. -/
def fwTask : Task :=
  { handle := 0, origin := .packet 0 0, queue := 0, entry := 0, textVa := 0, slot := 0, gen := 0, tilesCode := 0, feedRec := 0,
    fns := [], root := 0, counts := [], loops := [], args := [], feeds := [], prio := 0, weight := 1, clsz := 0, pers := false,
    scope := 0, ctAddr := 0, ctVal := 0, nblocks := 1, placed := 0, halted := 0, ended := none, faulted := none }

/-- The core's registers in a block's place (R243); no SHAPE changes its row of 512 bits. -/
def fwBlock (x : FwCore) : Block :=
  { newBlock fwTask 0 0 0 (grantWord Polder.init 0 0) (0, 0) with core := x.core, pc := x.pc }

/-- The next word in order. -/
def fwNext (x : FwCore) : FwCore := { x with pc := x.pc + 4 }

/-- An instruction of the core alone: its registers and its address as the instruction leaves them; a trap is an exception. -/
def fwExec (s : State) (p : Nat) (x : FwCore) (i : Instr) : FwCore :=
  let id : BlkId := ⟨p, fwCtx⟩
  match exec i (setBlock { s with cur := some id } id (fwBlock x)) with
  | .next s1 => match getBlock s1 id with
    | some b => if b.status = .suspended then fwException x else { x with core := b.core, pc := b.pc }
    | none => x
  | _ => fwException x

/-! ### The core's memory (log 80) -/

/-- n bytes of the memory of a core. -/
def fwBytes (p : Nat) (sched : Bool) (x : FwCore) (a n : Nat) : List Byte :=
  (upTo n).map fun k => memByte x.mem (a + k) ^^^ Config.fwMemory p sched (a + k)

/-- Write a number of n bytes there. -/
def fwPut (p : Nat) (sched : Bool) (a n v : Nat) (x : FwCore) : FwCore :=
  { x with mem := memSetBytes x.mem a (((leBytes n v).zip (upTo n)).map fun e => e.1 ^^^ Config.fwMemory p sched (a + e.2)) }

/-- LD: a misaligned address is an exception. -/
def fwLoad (p : Nat) (sched : Bool) (x : FwCore) (d b i : RegNo) (z : LdSize) (scaled : Bool) : FwCore :=
  let n := ldBytes z
  let va := scalarVa x.core b i n scaled
  if va % n ≠ 0 then fwException x
  else fwNext { x with core := regSet x.core true d (ldValue z (leNat (fwBytes p sched x va n))) }

/-- ST. -/
def fwStore (p : Nat) (sched : Bool) (x : FwCore) (r b i : RegNo) (z : StSize) (scaled : Bool) : FwCore :=
  let n := stBytes z
  let va := scalarVa x.core b i n scaled
  if va % n ≠ 0 then fwException x else fwNext (fwPut p sched va n (rget x.core.a r).toNat x)

/-- An atomic of the family, or AMOCAS (R347, R350). -/
def fwAmo (p : Nat) (sched : Bool) (x : FwCore) (fn : Nat) (f : FmtAmo) : FwCore :=
  let n := if f.dbl then 8 else 4
  let va := (rget x.core.a f.b).toNat
  let old := leNat (fwBytes p sched x va n)
  if va % n ≠ 0 then fwException x
  else
    let y := match amoWrite fn f.dbl old ((rget x.core.a f.v).toNat % 2 ^ (8 * n)) ((rget x.core.a f.d).toNat % 2 ^ (8 * n)) with
      | some v => fwPut p sched va n v x
      | none => x
    fwNext { y with core := regSet y.core true f.d (amoResult fn f.dbl old) }

/-- The bits of an element in the core's memory. -/
def fwElem (p : Nat) (sched : Bool) (x : FwCore) (h : ShapeRec) (e : MemEl) : Nat :=
  leNat (fwBytes p sched x e.va e.size) / 2 ^ e.shift % 2 ^ typeWidth h.ty

/-- LDT and STT of one row of 512 bits (R243, R388, R419). -/
def fwTileMem (p : Nat) (sched : Bool) (x : FwCore) (f : FmtTileMem) (store : Bool) : FwCore :=
  let c := x.core
  let h := srcRec c f.t
  let y := tileSrc c f.t.toNat
  let els := (activeIx c ⟨f.pg, false⟩ (recElems h)).map (imageEl h (rget c.a f.b).toNat (strideOf c h f.i))
  if (tileMemCheck (fwBlock x) f).isSome ∨ strideBad c h f.i ∨ (els.any fun e => e.va % e.size != 0) then fwException x
  else if store then
    fwNext (els.foldl (fun x e =>
      let old := leNat (fwBytes p sched x e.va e.size)
      fwPut p sched e.va e.size (old + (y.get e.ix * 2 ^ e.shift) - old / 2 ^ e.shift % 2 ^ typeWidth h.ty * 2 ^ e.shift) x) x)
  else fwNext { x with core := writeTile c f.t.toNat h false (els.map fun e => ⟨e.ix, fwElem p sched x h e, none, 0⟩) [] }

/-- TAMO (R427): every active element in turn. -/
def fwTamo (p : Nat) (sched : Bool) (x : FwCore) (f : FmtTamo) : FwCore :=
  let c := x.core
  let h := srcRec c f.t
  let y := tileSrc c f.t.toNat
  let dbl := decide (typeWidth h.ty = 64)
  let els := gatherEls c f.t f.x f.pg (rget c.a f.b).toNat (if dbl then 3 else 2)
  if (gatherCheck (fwBlock x) f.t f.x f.pg (tamoType f.op)).isSome ∨ (els.any fun e => e.va % e.size != 0) then fwException x
  else
    let z := els.foldl (fun z e =>
      let old := leNat (fwBytes p sched z.1 e.va e.size)
      (fwPut p sched e.va e.size (amoNew (amoCode f.op) dbl old (y.get e.ix)) z.1, z.2 ++ [(⟨e.ix, old, none, 0⟩ : Res)])) (x, [])
    fwNext { z.1 with core := writeTile c f.t.toNat h false z.2 [] }

/-- What an instruction does on a core: the memory majors reach the core's own memory; WFE holds nothing, since no event of a
block reaches the core (log 80); the others act on its registers. -/
def fwInstr (s : State) (p : Nat) (sched : Bool) (x : FwCore) (i : Instr) : FwCore :=
  match i with
  | .eret => fwReturn x
  | .tlbinvS2 | .tlbinv _ _ | .wfe => fwNext x
  | .ld d b i z => fwLoad p sched x d b i z false
  | .ldX d b i z => fwLoad p sched x d b i z true
  | .st r b i z => fwStore p sched x r b i z false
  | .stX r b i z => fwStore p sched x r b i z true
  | .ldt f => fwTileMem p sched x f false
  | .stt f => fwTileMem p sched x f true
  | .amoadd f => fwAmo p sched x 0 f
  | .amoand f => fwAmo p sched x 1 f
  | .amoor f => fwAmo p sched x 2 f
  | .amoxor f => fwAmo p sched x 3 f
  | .amomin f => fwAmo p sched x 4 f
  | .amomax f => fwAmo p sched x 5 f
  | .amominn f => fwAmo p sched x 6 f
  | .amomaxn f => fwAmo p sched x 7 f
  | .amoswp f => fwAmo p sched x 8 f
  | .amofadd f => fwAmo p sched x 9 f
  | .amocas f => fwAmo p sched x 10 f
  | .tamo f => fwTamo p sched x f
  | i => fwExec s p x i

/-- The translations of the polder that an instruction of a core drops: TLBINV.s2 those of stage 2, which is every translation
(R148, R153), and TLBINV, whose root is the firmware's, all of them too (log 80). -/
def fwDrops : Instr → Bool
  | .tlbinvS2 | .tlbinv _ _ => true
  | _ => false

/-- A word that a firmware core executes (R243, R289, R293, R369): a major outside its list, or a word that is no instruction,
raises ILLEGAL_INSTR there. -/
def fwStep (p : PolderNo) (sched : Bool) (w : Word32) (s : State) : Out :=
  let n := p.toNat
  let x := getFw s n sched
  let m := (Fields.ofWord w).major.toNat
  .next (if fwMajor m = false then setFw s n sched (fwException x)
    else match decode w with
    | .error _ => setFw s n sched (fwException x)
    | .ok i =>
      let s1 := setFw s n sched (fwInstr s n sched x i)
      if fwDrops i then updPolder s1 n fun y => { y with tlb := [] } else s1)

/-! ### The firmware's structures (R243) -/

/-- The mask of a priority over the waiting tasks: creator and handle of each. -/
def priorityMask (s : State) (p k : Nat) : List (Nat × Nat) :=
  (((getPolder s p).clusters.filter fun c => clusterWaits s p c && clusterPrio s c == k).map fun c =>
    (c.creator, c.handle)).eraseDups

/-- Who waits at a WAIT: a queue, or a node of a graph slot. -/
inductive Waiter where
  | queue (q : Nat)
  | node (g n : Nat)
  deriving DecidableEq, Repr

/-- The address or handle of condition i of a WAIT. -/
def condWord (w : List Word64) (i : Nat) : Nat := (dw w (2 + 3 * i)).toNat

/-- The signal table: the waiting WAITs of queues and of graph nodes, each with the address or handle of the condition that it
waits for. -/
def signalTable (s : State) (p : Nat) : List (Waiter × Nat) :=
  ((upTo 64).filterMap fun q => (getQueue s p q).waitIx.map fun (w, i) => (.queue q, condWord w i))
    ++ (upTo 64).flatMap fun g =>
      let x := getSlot s p g
      let imgs := slotImgs s p x
      x.waits.map fun (n, k) => (.node g n, condWord (imgs.getD n []) k)

end Sys2Proof.Machine
end

