-- ==== Sys2Proof/Machine/Halves.lean ====
section
/-! DEFINITION. The two halves of a block (R43 to R50). The model executes a block's instructions in program order. Where
an instruction waits at a queue that only the other half can fill or empty, the other half goes on ahead of it on a copy
of the state, as far as R44, R45, R47 and R48 let it; either it serves the waiting instruction, or something outside the
block is awaited, or the condition of R50 holds (log 16). -/

namespace Sys2Proof.Machine

/-! ### What one half awaits of the other (R44) -/

/-- Tiles of an operand, by number. -/
def tilesOf (c : Core) (t : BitVec 5) : List Nat := if t.toNat < 28 then span t.toNat (groupSize (srcRec c t)) else []

/-- A predicate; p0 is hard-wired. -/
def predRes (p : Nat) : List Nat := if p % 8 = 0 then [] else [32 + p % 8]

/-- Operand [19:15] names a tile or queue. -/
def tileTa (m fn : Nat) : Bool :=
  decide (0x20 ≤ m ∧ m ≤ 0x28 ∧ m ≠ 0x25) || (m == 0x25 && (fn == 1 || fn == 2)) || m == 0x2B || m == 0x2D || m == 0x2E

/-- Operand [14:10] names a tile or queue. -/
def tileTb (m fn : Nat) : Bool :=
  (m == 0x20 && (decide (fn ≤ 3) || fn == 9 || fn == 10 || fn == 13)) || m == 0x21 || (m == 0x22 && fn != 3) || m == 0x23
    || (m == 0x27 && (fn == 1 || fn == 5)) || m == 0x2B || m == 0x2D

/-- The destination is read as well. -/
def tileTd (m fn : Nat) : Bool := m == 0x21 || (m == 0x20 && fn == 13) || m == 0x2B || m == 0x2D || m == 0x2E

/-- Number of the control register of a CTLR or CTLW, from 1,000. -/
def ctlRes (f : Fields) : Nat := 1000 + f.imm15.toNat % 4096

/-- The grant and the records, which a trim writes (R157). -/
def grantRes : Nat := 10000

/-- What a fault-only-first load may write by a trim: the grant, the records and the registers of the strip's SHAPE. No
later instruction that reads them issues before the load has probed (R157). -/
def trimRes (c : Core) (h : ShapeRec) : List Nat :=
  if fofRec h then grantRes :: (match c.shapeD with
    | some d => span (100 + d.toNat) 3 ++ span (200 + d.toNat) 3
    | none => [])
  else []

/-- A scalar register: from 100 those of the execute half, from 200 those of the access half. -/
def regRes (side : Bool) (r : RegNo) : Nat := (if side then 200 else 100) + r.toNat

/-- The operand tiles of a matrix instruction: a later instruction of either half that reads or writes one of them waits until
it retires (R111). -/
def matrixTiles (f : Fields) : List Nat :=
  let n := f.rep5.toNat + 1
  let l := if f.major.toNat = 0x2D then
      span f.f1.toNat n ++ span f.f2.toNat (if f.b25 then n else 1) ++ span f.f3.toNat (if f.b25 then 1 else n)
    else if f.major.toNat = 0x2E then [f.f1.toNat, f.f2.toNat] ++ if f.fn2 = 1 then [f.rep5.toNat] else []
    else []
  l.filter fun t => decide (t < 28)

/-- The slabs of spans that a test names. -/
def spansOf (c : Core) (hit : Nat → Slab → Bool) : List Nat :=
  (c.slabs.filter fun e => hit e.1 e.2).flatMap fun e => span (64 + e.1) e.2.span

/-- The slabs that OLOAD or OFREE changes: its own span, and every span that it frees (R119, R121). A descriptor that a passed
instruction has still to write may name any. -/
def slabRes (c : Core) (wrote : List Nat) (f : Fields) : List Nat :=
  if f.fn4 = 0 then
    if wrote.contains (regRes true f.f3) then span 64 32
    else match slabDesc f.f1.toNat (rget c.a f.f3) with
      | some x => span (64 + f.f1.toNat) x.span ++ spansOf c fun k y => decide (k < f.f1.toNat + x.span) && decide (f.f1.toNat < k + y.span)
      | none => []
  else spansOf c fun k y => inSpan k y f.f1.toNat

/-- The s-registers that a scalar instruction of the execute half reads, from 100. -/
def scalarReads (f : Fields) : List Nat :=
  let m := f.major.toNat
  if f.b25 then []
  else if m = 0x08 ∨ m = 0x10 ∨ m = 0x11 then [100 + f.f2.toNat, 100 + f.f3.toNat]
  else if m = 0x03 then [100 + f.f1.toNat, 100 + f.f2.toNat]
  else if m = 0x0F then [100 + f.f1.toNat]
  else if m = 0x02 ∨ m = 0x06 ∨ m = 0x07 ∨ (0x09 ≤ m ∧ m ≤ 0x0E) ∨ m = 0x12 then [100 + f.f2.toNat]
  else []

/-- Registers whose value waits for every earlier change that they report (R364): TLIVE and TDIRTY for the tiles,
HREC0 to HREC7 for the records. -/
def ctlReads (f : Fields) : List Nat :=
  let n := f.imm15.toNat % 4096
  if n = 0x3A ∨ n = 0x3B then span 0 28
  else if 0x30 ≤ n ∧ n ≤ 0x37 then [grantRes]
  else []

/-- The CU's adapter lines, which AINV removes and MMA and MMAD look up (R345). -/
def adapterRes : Nat := 10001

/-- What an instruction reads that the other half may write: tiles by number, predicates from 32, slabs from 64,
s-registers from 100, control registers from 1,000, the grant, the adapter lines. A CTLW of FMODE waits for whatever may raise
a flag, like one of FSTAT (R364). -/
def readsRes (c : Core) (f : Fields) : List Nat :=
  let m := f.major.toNat
  let fn := f.fn6.toNat
  let f4 := f.fn4.toNat
  if m = 0x02 then ctlRes f :: ((if f.imm15.getLsbD 14 ∧ ctlRes f = 1000 then [1001] else []) ++ ctlReads f ++ scalarReads f)
  else if m = 0x10 then 1000 :: scalarReads f
  else if m = 0x13 then (if fn = 0 then [grantRes, 100 + f.f2.toNat] else if fn ≤ 2 then [grantRes] else [])
  else if m = 0x16 then (if f4 = 1 then tilesOf c f.f1 else []) ++ predRes f.pg.toNat
  else if m = 0x17 then 1003 :: predRes f.pg.toNat
  else if m = 0x18 then (if f4 = 1 then tilesOf c f.f1 else []) ++ tilesOf c f.f3 ++ predRes f.pg.toNat
  else if m = 0x29 then grantRes :: predRes f.pg.toNat ++ (if fn ≠ 4 then predRes f.f2.toNat else []) ++ (if fn < 3 then predRes f.f3.toNat else [])
  else if m = 0x2A then (if f4 = 1 then predRes f.f1.toNat else [])
  else if m = 0x2D ∨ m = 0x2E then
    1000 :: grantRes :: predRes f.pg.toNat ++ matrixTiles f ++ (if m = 0x2E then [64 + f.f3.toNat, 1000 + 0x29, adapterRes] else [])
  else if (0x20 ≤ m ∧ m ≤ 0x28) ∨ m = 0x2B then
    1000 :: grantRes :: predRes f.pg.toNat ++ (if tileTa m fn then tilesOf c f.f2 else []) ++ (if tileTb m fn then tilesOf c f.f3 else [])
      ++ (if tileTd m fn then tilesOf c f.f1 else [])
  else scalarReads f

/-- What a passed instruction of the execute half holds against writes: the predicates that it reads (R404), and the slab and
the tiles of a matrix instruction (R111, R119). -/
def heldRes (c : Core) (f : Fields) : List Nat :=
  matrixTiles f ++ (readsRes c f).filter fun r => decide (32 ≤ r) && decide (r < 96)

/-- What an instruction writes that the other half may read; `wrote` is what instructions passed before it write. -/
def writesRes (c : Core) (wrote : List Nat) (f : Fields) : List Nat :=
  let m := f.major.toNat
  let fn := f.fn6.toNat
  let f4 := f.fn4.toNat
  if m = 0x02 then (if f.imm15.getLsbD 14 then [ctlRes f] else [regRes f.b25 f.f1])
  else if 0x08 ≤ m ∧ m ≤ 0x0F then [regRes f.b25 f.f1]
  else if m = 0x07 then (if f.lo = 1 then [regRes f.b25 f.f1] else [])
  else if m = 0x14 ∨ m = 0x1A then [regRes true f.f1]
  else if m = 0x10 then [1001, 100 + f.f1.toNat]
  else if m = 0x13 then (if fn = 3 then span f.f1.toNat (f.f3.toNat + 1 - f.f1.toNat) else if fn = 4 then tilesOf c f.f1 else [])
  else if m = 0x16 ∨ m = 0x18 then (if f4 = 0 then tilesOf c f.f1 ++ trimRes c (srcRec c f.f1) else [])
  else if m = 0x17 then (if f4 = 0 then trimRes c (srcRec c f.f1) else [])
  else if m = 0x1B then (if f4 = 0 then [] else tilesOf c f.f1)
  else if m = 0x1E then (if f4 = 1 then tilesOf c f.f1 else [])
  else if m = 0x1F then (if f4 = 0 then predRes f.f2.toNat else [])
  else if m = 0x29 then (if fn < 5 then predRes f.f1.toNat else [100 + f.f1.toNat])
  else if m = 0x2A then (if f4 = 0 then predRes f.f1.toNat else [])
  else if m = 0x2F then (if f4 ≤ 1 then slabRes c wrote f else if f4 = 3 then [adapterRes] else if f4 = 4 then [1000 + 0x29] else [])
  else if m = 0x23 ∧ fn < 8 then 1001 :: predRes f.f1.toNat
  else if m = 0x28 ∧ fn = 0 then (100 + f.f3.toNat) :: tilesOf c f.f1
  else if m = 0x2D ∨ m = 0x2E then 1001 :: matrixTiles f
  else if (0x20 ≤ m ∧ m ≤ 0x28) ∨ m = 0x2B then 1001 :: tilesOf c f.f1
  else []

/-- What an instruction writes whole: whoever reads it later reads this value and no earlier one (R44). A predicate is always
written whole (R81). -/
def rewritesRes (c : Core) (wrote : List Nat) (f : Fields) : List Nat :=
  let m := f.major.toNat
  let low (n : Nat) : List Nat := (writesRes c wrote f).filter fun r => decide (r < n)
  if m ≤ 0x13 ∨ m = 0x1F ∨ m = 0x29 ∨ m = 0x2A ∨ m = 0x2F ∨ (m = 0x23 ∧ f.fn6.toNat < 8) then low 1000
  else if (m = 0x16 ∨ m = 0x18) ∧ fofRec (srcRec c f.f1) then []
  else if m = 0x28 then (if f.fn6 = 0 then [100 + f.f3.toNat] else [])
  else if f.pg = 0 ∧ (m < 0x20 ∨ f.pn = false) ∧ tileTd m f.fn6.toNat = false then low 64
  else []

/-- The access half holds these back until every earlier execute-half instruction has completed (R48). -/
def heldBack (f : Fields) : Bool :=
  let m := f.major.toNat
  let f4 := f.fn4.toNat
  m == 0x1A || m == 0x1B || (m == 0x1F && f4 == 0) || (m == 0x1E && f4 == 0) || (m == 0x1C && f4 != 3)

/-- A load of a device page waits for every earlier instruction of both halves (R145). -/
def deviceAhead (s : State) (id : BlkId) (b : Block) (i : Instr) : Bool :=
  let acc := blockAcc s id b
  let els (l : List MemEl) : Bool := touchesDevice (l.filterMap (probedOf s acc needRd))
  let one (d : Except Cause Where) : Bool := match d with
    | .ok w => w.device
    | .error _ => false
  let lines (l : List (Nat × Nat)) : Bool := l.any fun x => one (probeAt s acc needRd x.1)
  match i with
  | .ld _ x y z => one (scalarProbe s acc needRd (scalarVa b.core x y (ldBytes z) false) (ldBytes z))
  | .ldX _ x y z => one (scalarProbe s acc needRd (scalarVa b.core x y (ldBytes z) true) (ldBytes z))
  | .pld _ x => lines (pieces128 (rget b.core.a x).toNat (predBytes b.core))
  | .feed _ x => lines (pieces128 (rget b.core.a x).toNat 64)
  | .oload k x d => match slabDesc k.toNat (rget b.core.a d) with
    | some y => lines ((slabRows y (rget b.core.a x).toNat).flatMap fun r => pieces128 r.1 r.2)
    | none => false
  | .ldq f => els (runEls b.core (queueRec b.core false f.q) f)
  | .ldg f => els (gatherEls b.core f.t f.x f.pg (rget b.core.a f.b).toNat f.scale.toNat)
  | .ldt f =>
    let h := srcRec b.core f.t
    els ((activeIx b.core ⟨f.pg, false⟩ (recElems h)).map
      (imageEl h (rget b.core.a f.b).toNat (strideOf b.core h f.i)))
  | _ => false

/-! ### What a waiting instruction needs (R45, R46) -/

/-- What a half waits for at a queue: elements of load queues, elements of a store queue, an entry of aq (true) or eq; or
room in one of them. -/
inductive Want where
  | elems (need : List (Nat × Nat))
  | stored (k n : Nat)
  | entry (aq : Bool)
  | roomL (k : Nat)
  | roomS (k : Nat)
  | roomE (aq : Bool)
  deriving DecidableEq, Repr

/-- Load queue k. -/
def lqAt (c : Core) (k : Nat) : TQueue := vget ⟨[], 0⟩ c.lq k
/-- Store queue k. -/
def sqAt (c : Core) (k : Nat) : TQueue := vget ⟨[], 0⟩ c.sq k
/-- aq or eq. -/
def entryQueue (c : Core) (aq : Bool) : SQueue := if aq then c.aq else c.eq
/-- Capacity of a load queue in elements. -/
def capL (c : Core) (k : Nat) : Nat := 8 * (queueRec c false (BitVec.ofNat 2 k)).gc
/-- Capacity of a store queue in elements. -/
def capS (c : Core) (k : Nat) : Nat := 8 * (queueRec c true (BitVec.ofNat 2 k)).gc

/-- The feeds of load queue k can still bring elements. -/
def feedOpen (c : Core) (k : Nat) : Bool :=
  let x := vget ⟨none, none, true⟩ c.feeds k
  x.cur.isSome || x.next.isSome

/-- What the instruction at which the block waits needs of a queue; none where it waits for something else. -/
def wantOf (b : Block) (w : Word32) (i : Instr) : Option Want :=
  let c := b.core
  match i with
  | .ldq f =>
    let h := queueRec c false f.q
    let left := recElems h - (b.prog.head?.map Progress.index).getD 0 * h.gc
    if feedOpen c f.q.toNat || (lqAt c f.q.toNat).room left h.gc then none else some (.roomL f.q.toNat)
  | .stq f | .stqu f =>
    let n := recElems (queueRec c true f.q)
    if (sqAt c f.q.toNat).elems.length < n then some (.stored f.q.toNat n) else none
  | .qput f => if (entryQueue c f.side).room then none else some (.roomE f.side)
  | .qget f => if (entryQueue c (!f.side)).entries.isEmpty then some (.entry (!f.side)) else none
  | _ =>
    let lack := b.need.filter fun e => decide ((lqAt c e.1).elems.length < e.2)
    let f := Fields.ofWord w
    if lack ≠ [] then (if lack.any fun e => feedOpen c e.1 then none else some (.elems b.need))
    else if halfOf w = .execute ∧ 28 ≤ f.f1.toNat ∧ dstRoom b f.f1 = false then some (.roomS (f.f1.toNat - 28))
    else none

/-- Rows of the needed load queues that stand ready, and that a streaming instruction has already taken (R46). -/
def streamed (c : Core) (need : List (Nat × Nat)) : Nat :=
  need.foldl (fun m e => Nat.min m ((lqAt c e.1).elems.length / Nat.max 1 (queueRec c false (BitVec.ofNat 2 e.1)).gc)) 1000000

/-- The want is met in a core that the other half has reached. `held` is what it then waits for itself, so that it has
already taken whole rows of a queue. -/
def wantMet (c : Core) (held : Option Want) : Want → Bool
  | .elems need => need.all fun e => decide (e.2 ≤ (lqAt c e.1).elems.length)
  | .stored k n => decide (n ≤ (sqAt c k).elems.length)
  | .entry aq => !(entryQueue c aq).entries.isEmpty
  | .roomL k =>
    let took := match held with
      | some (.elems need) => if need.any fun e => e.1 == k then streamed c need * (queueRec c false (BitVec.ofNat 2 k)).gc else 0
      | _ => 0
    decide ((lqAt c k).elems.length ≤ capL c k + took)
  | .roomS k =>
    let gc := (queueRec c true (BitVec.ofNat 2 k)).gc
    let took := match held with
      | some (.stored j _) => if j = k then (sqAt c k).elems.length / Nat.max 1 gc * gc else 0
      | _ => 0
    decide ((sqAt c k).elems.length ≤ capS c k + took)
  | .roomE aq => decide ((entryQueue c aq).entries.length ≤ 16)

/-- The waiting half takes elements only row by row: what the other half pushed for it must fit (R45, R46). -/
def wantFits (c : Core) : Want → Bool
  | .elems need => need.all fun e =>
      decide ((lqAt c e.1).elems.length ≤ capL c e.1 + streamed c need * (queueRec c false (BitVec.ofNat 2 e.1)).gc)
  | .stored k _ =>
    let gc := (queueRec c true (BitVec.ofNat 2 k)).gc
    decide ((sqAt c k).elems.length ≤ capS c k + (sqAt c k).elems.length / Nat.max 1 gc * gc)
  | _ => true

/-- An instruction pushes to the queue whose elements are wanted, so that the waiting half makes room for it. -/
def feedsWant (w : Want) (word : Word32) (i : Instr) : Bool :=
  match w, i with
  | .elems need, .ldq f => need.any fun e => e.1 == f.q.toNat
  | .stored k _, _ => halfOf word = .execute ∧ (Fields.ofWord word).f1.toNat = 28 + k
  | _, _ => false

/-! ### Going on ahead -/

/-- How the other half's run ends. -/
inductive Ahead where
  /-- The want is met in this core. -/
  | served (c : Core)
  /-- It waits for something outside the block; requests may have left the device. -/
  | outside (d : Device)
  /-- It goes on yet. -/
  | fuel
  /-- It waits for the waiting half (R50). -/
  | stuck
  /-- It has rewound the strip. -/
  | rewound (s : State)

/-- What a word that both halves execute does to a half that has gone ahead: it passes, it must be executed, or the half
waits there for the other. -/
inductive Joint where
  | run | wait
  deriving DecidableEq, Repr

/-- Branches, JALR and TRAP belong to one half, which goes on if it is its own (R47); a half waits at every rendezvous.
WFE is none: the half that reaches it awaits an event (R467). -/
def jointOf (o : Half) (f : Fields) : Joint :=
  let m := f.major.toNat
  let own : Bool := f.b25 == decide (o = .access)
  if m = 0x01 then
    (match f.lo.toNat with
    | 0 | 2 | 3 | 7 => .run
    | 5 => if own then .run else .wait
    | _ => .wait)
  else if m = 0x03 ∨ m = 0x06 then (if own then .run else .wait)
  else if m = 0x04 ∨ m = 0x05 ∨ m = 0x13 then .run
  else if m = 0x1D then (if f.lo.extractLsb' 8 2 = 0 then .wait else .run)
  else .wait

/-- A branch, JALR or TRAP, whose outcome the half pushes. -/
def hasOutcome (f : Fields) : Bool :=
  let m := f.major.toNat
  m == 0x03 || m == 0x06 || (m == 0x01 && f.lo == 5)

/-- The copy of the block goes on past a word of the other half. -/
def skipWord (s : State) (id : BlkId) (b : Block) : State := setBlock s id { b with pc := b.pc + 4, waiting := false, need := [] }

/-- Requests of the block itself and those of place k of the run change names: an instruction asks for what it needs in the
block's name. -/
def swapAsk (id : BlkId) (k : Nat) (s : State) : State :=
  let mine : Requester := .block id.p id.ctx
  let there : Requester := .ahead id.p id.ctx k
  updDev s fun d => { d with outstanding := d.outstanding.map fun o =>
    if o.who = mine then { o with who := there } else if o.who = there then { o with who := mine } else o }

/-- What the run ahead has asked for finds nobody: the instruction for which it was asked has gone on. -/
def disownAhead (s : State) (id : BlkId) : State :=
  let old (o : OutReq) : Bool := match o.who with
    | .ahead p c _ => p == id.p && c == id.ctx
    | _ => false
  updDev s fun d => { d with outstanding := mapIf old (fun o => { o with who := .gone o.p }) d.outstanding }

/-- Run half `o` ahead on a copy of the state: `want` is what the other half waits for, `got` the answers that have come for
this run, `wrote` what the skipped instructions write, `held` what they hold against writes, `outs` the outcomes that `o` has
pushed, `k` the place in the run. -/
def runAhead (o : Half) (id : BlkId) (want : Want) (got : List (Nat × RemResult)) :
    Nat → List Nat → List Nat → Nat → Nat → State → Ahead
  | 0, _, _, _, _, _ => .fuel
  | fuel + 1, wrote, held, outs, k, s0 =>
    match getBlock s0 id with
    | none => .stuck
    | some b0 =>
      let b := { b0 with remDone := (got.filter fun e => e.1 == k).map Prod.snd }
      let s := setBlock (swapAsk id k s0) id b
      match fetchAt s id b b.pc with
      | .fails _ => .stuck
      | .wait r => .outside (swapAsk id k (askAll s (blockReq id) [r])).dev
      | .word w =>
        let f := Fields.ofWord w
        let h := halfOf w
        let writes := writesRes b.core wrote f
        let held' := if h = .execute then held ++ heldRes b.core f else held
        match decode w with
        | .error _ => if h ≠ o ∧ h ≠ .both then runAhead o id want got fuel (wrote ++ writes) held' outs (k + 1) (skipWord s0 id b0) else .stuck
        | .ok i =>
          if h ≠ o ∧ h ≠ .both then runAhead o id want got fuel (wrote ++ writes) held' outs (k + 1) (skipWord s0 id b0)
          else if h = .both ∧ jointOf o f = .wait then .stuck
          else if h = .both ∧ hasOutcome f ∧ (16 ≤ (entryQueue b.core (decide (o = .access))).entries.length + outs
              ∨ want = .entry (decide (o = .access))) then .stuck
          else if ((readsRes b.core f).any fun r => wrote.contains r) ∨ (writes.any fun r => held.contains r) = true then .stuck
          else if o = .access ∧ (heldBack f || deviceAhead s id b i) then .stuck
          else
            let issues := convoyHere s id b w
            let out := if issues then execConvoyIssue s
              else exec i (setBlock s id { b with room := feedsWant want w i })
            let outs' := if h = .both ∧ hasOutcome f then outs + 1 else outs
            match out with
            | .next s2 =>
              let s1 := swapAsk id k s2
              match getBlock s1 id with
              | none => .stuck
              | some b1 =>
                if b1.rewinds > b.rewinds then .rewound s1
                else if b1.status ≠ .resident ∨ b1.stuck then .stuck
                else if b1.waiting && issues then .outside s1.dev
                else if b1.waiting then
                  let mine := wantOf b1 w i
                  if wantMet b1.core mine want then .served b1.core
                  else if mine.isSome then .stuck
                  else .outside s1.dev
                else if !wantFits b1.core want then .stuck
                else if outs' + (entryQueue b1.core (decide (o = .access))).entries.length > 16 then .stuck
                else if wantMet b1.core none want then .served b1.core
                else runAhead o id want got fuel (wrote.filter fun r => !(rewritesRes b.core wrote f).contains r) held outs' (k + 1) s1
            | _ => .stuck

/-- Instructions that the other half runs through in one look. A look that ends without an answer is taken again, further. -/
def aheadFuel : Nat := 4096

/-- The other half. -/
def otherHalf : Half → Half
  | .access => .execute
  | _ => .access

/-- Elements that the other half has pushed ahead join the queue, and are owed by their instruction. -/
def TQueue.borrow (q ahead : TQueue) (n : Nat) : TQueue :=
  ⟨ahead.elems.take n, q.debt + (n - q.elems.length)⟩

/-- The block goes on with what the other half has done for it. -/
def served (b : Block) (c : Core) : Want → Block
  | .elems need =>
    let lq := need.foldl (fun l e => vset l e.1 ((lqAt b.core e.1).borrow (lqAt c e.1) (Nat.max e.2 (lqAt b.core e.1).elems.length))) b.core.lq
    { b with waiting := false, core := { b.core with lq := lq } }
  | .stored k n =>
    { b with waiting := false, core := { b.core with sq := vset b.core.sq k ((sqAt b.core k).borrow (sqAt c k) n) } }
  | .entry aq =>
    let q := entryQueue b.core aq
    let e : SQueue := ⟨(entryQueue c aq).entries.take 1, q.debt + 1⟩
    { b with waiting := false, core := if aq then { b.core with aq := e } else { b.core with eq := e } }
  | .roomL _ | .roomS _ | .roomE _ => { b with waiting := false, room := true }

/-- The copy from which the other half starts: past the waiting instruction, which has pushed all that it pushes if it is
room that it wants. -/
def startAhead (s : State) (id : BlkId) (b0 : Block) (i : Instr) (want : Want) : Option State :=
  let b := { b0 with runsAhead := true }
  match want with
  | .roomL _ | .roomS _ | .roomE _ =>
    match exec i (setBlock s id { b with room := true, waiting := false }) with
    | .next s1 => match getBlock s1 id with
      | some b1 => if b1.status = .resident ∧ b1.waiting = false ∧ b1.pc = b.pc + 4 then some s1 else none
      | none => none
    | _ => none
  | _ => some (skipWord s id b)

/-- A block waits at the instruction at its pc: what the other half, going on ahead, makes of it (R46, R50). What that half asks
the causeways for is sent, and the run is made again when the answers have come. -/
def lookAhead (s0 : State) (id : BlkId) (b : Block) (w : Word32) (i : Instr) : State :=
  match wantOf b w i with
  | none => s0
  | some want =>
    let s := if b.ahead.isNone then disownAhead s0 id else s0
    let h := halfOf w
    match startAhead s id b i want with
    | none => setBlock s id { b with waiting := false, room := true, recheck := [] }
    | some s1 =>
      let f := Fields.ofWord w
      let (wrote, held) := match want with
        | .roomL _ | .roomS _ | .roomE _ => ([], [])
        | _ => (writesRes b.core [] f, if h = .execute then heldRes b.core f else [])
      match runAhead (otherHalf h) id want (b.ahead.getD []) (aheadFuel * (b.look + 1)) wrote held 0 0 s1 with
      | .served c => setBlock s id { served b c want with recheck := [] }
      | .outside d => setBlock { s with dev := d } id { b with ahead := some (b.ahead.getD []) }
      | .fuel => setBlock s id { b with look := b.look + 1 }
      | .stuck => setBlock s id { b with stuck := true }
      | .rewound s2 => s2

end Sys2Proof.Machine
end

