-- ==== Sys2Proof/Machine/Progress.lean ====
section
/-! DEFINITION. How far an instruction has come when its block is brought to rest inside it (R61, R115, R131, R252, R253): a
turn gives the progress indices, and this file computes what each member leaves. The instruction itself stays to be done
whole, from the core that stands before it, which gives the bits and flags of an uninterrupted run (R109, log 73). -/

namespace Sys2Proof.Machine

/-! ### Element groups (R54, R253) -/

/-- Element groups of a row. -/
def rowGroups (h : ShapeRec) : Nat := Nat.max 1 ((h.gc * typeWidth h.ty + 511) / 512)

/-- Row and column of an operand lie in the first n groups. -/
def inGroups (h : ShapeRec) (n r c : Nat) : Bool := decide (r * rowGroups h + c * typeWidth h.ty / 512 < n)

/-- An instruction that works row by row of its source: TRED, TREDO, TREDB and MAPR. -/
def byRow (f : Fields) : Bool :=
  (f.major == 0x26 && decide (f.fn6.toNat < 12)) || (f.major == 0x2B && f.fn6.getLsbD 5)

/-- TCMP, whose result is a predicate. -/
def toPred (f : Fields) : Bool := f.major == 0x23 && decide (f.fn6.toNat < 8)

/-- TQNT, whose steps follow the groups of its source (R451). -/
def byBlock (f : Fields) : Bool := f.major == 0x24 && f.fn6 == 1

/-- The operand whose groups an index counts: the source of TQNT, and where the result has fewer columns; else the
destination. -/
def countedRec (c : Core) (f : Fields) : ShapeRec := if byRow f || toPred f || byBlock f then srcRec c f.f2 else dstRec c f.f1

/-- Groups of the whole operand. -/
def allGroups (h : ShapeRec) : Nat := groupSize h * h.gr * rowGroups h

/-- An index that an instruction can have: that of TQNT is the first group of a block of 32 elements (R451). -/
def indexFits (c : Core) (f : Fields) (n : Nat) : Bool :=
  let h := countedRec c f
  decide (n ≤ allGroups h) && (!byBlock f || (n % rowGroups h * 512 / Nat.max 1 (typeWidth h.ty)) % 32 == 0)

/-- Entries of a new map for which a test holds, with the old map's for the others. -/
def mergeMap {α : Type} (sel : Nat → Bool) (old new : SMap α) : SMap α :=
  (new.filter fun e => sel e.1).foldl (fun m e => mapPut m e.1 e.2) (old.filter fun e => !sel e.1)

/-- Member j of an operand once the first n groups are done, counted over a record `g`. -/
def partTile (g h : ShapeRec) (j n : Nat) (old new : Tile) : Tile :=
  if n = 0 then old
  else
    let all := decide (allGroups g ≤ n)
    let sel (r c : Nat) : Bool := all || (decide (r < h.gr) && decide (c < h.gc) && inGroups g n (j * h.gr + r) c)
    { new with
        elems := mergeMap (fun k => sel (k / 16384) (k % 16384)) old.elems new.elems,
        scales := mergeMap (fun k => sel (k / 512) (k % 512 * 32)) old.scales new.scales,
        marks := mergeMap (fun k => sel (k / 256) (k % 256 * 512 / Nat.max 1 (typeWidth h.ty))) old.marks new.marks }

/-! ### What a member leaves -/

/-- Rows reached and rows finished at index n. -/
def rowsBegun (h : ShapeRec) (n : Nat) : Nat := Nat.min (groupSize h * h.gr) ((n + rowGroups h - 1) / rowGroups h)
/-- Rows finished. -/
def rowsDone (h : ShapeRec) (n : Nat) : Nat := Nat.min (groupSize h * h.gr) (n / rowGroups h)

/-- Operand [19:15] may name a queue. -/
def queueTa (m fn : Nat) : Bool := decide (0x20 ≤ m ∧ m ≤ 0x26 ∧ m ≠ 0x25) || (m == 0x25 && (fn == 1 || fn == 2)) || m == 0x2B

/-- Operand [14:10] may name a queue. -/
def queueTb (m fn : Nat) : Bool :=
  (m == 0x20 && (decide (fn ≤ 3) || fn == 9 || fn == 10 || fn == 13)) || m == 0x21 || (m == 0x22 && fn != 3) || m == 0x23 || m == 0x2B

/-- Elements popped from the load queues that an instruction names. -/
def popsAt (c : Core) (f : Fields) (rows : Nat) : SMap Nat :=
  let m := f.major.toNat
  let fn := f.fn6.toNat
  (upTo 4).filterMap fun k =>
    if (queueTa m fn && f.f2.toNat == 28 + k) || (queueTb m fn && f.f3.toNat == 28 + k) then
      some (k, rows * (queueRec c false (BitVec.ofNat 2 k)).gc)
    else none

/-- What an instruction leaves at index n, from the cores before and after its whole run. -/
def leftAt (c c' : Core) (f : Fields) (n : Nat) : Progress :=
  let h := countedRec c f
  let d := dstRec c f.f1
  let lim := if byRow f then rowsDone h n * rowGroups d else n
  let g := if byBlock f then h else d
  let changed := (upTo 28).filter fun t => getTile c t ≠ getTile c' t
  { index := n,
    tiles := if toPred f then [] else changed.map fun t =>
      (t, partTile g d ((t - f.f1.toNat) % groupSize d) lim (getTile c t) (getTile c' t)),
    preds := if toPred f then
        let p := low3 f.f1
        let done := bitsOf ((upTo (recElems h)).filter fun i => inGroups h n (i / h.gc) (i % h.gc))
        [(p.toNat, (vget 0 c'.preds p.toNat &&& done) ||| (vget 0 c.preds p.toNat &&& (2 ^ 65536 - 1 - done)))]
      else [],
    pops := popsAt c f (rowsBegun h n),
    pushes := if toPred f ∨ f.f1.toNat < 28 then [] else
      let k := f.f1.toNat - 28
      let new := (vget ⟨[], 0⟩ c'.sq k).elems.drop (vget ⟨[], 0⟩ c.sq k).elems.length
      [(k, new.take (rowsDone g lim * d.gc))] }

/-- The first steps of MOPA or MOPS, each with an accumulator of its own (R115). -/
def leftSteps (c' : Core) (f : Fields) (n : Nat) : Progress :=
  { (Progress.count n) with tiles := (upTo n).map fun k => (f.f1.toNat + k, getTile c' (f.f1.toNat + k)) }

/-- What member `w` leaves, where its kind keeps an index: element groups, or steps. -/
def leftBy (c c' : Core) (w : Word32) (n : Nat) : Option Progress :=
  let f := Fields.ofWord w
  let m := f.major.toNat
  if emptyStrip c ∧ n ≠ 0 then none
  else if (0x20 ≤ m ∧ m ≤ 0x26) ∨ m = 0x2B then (if indexFits c f n then some (leftAt c c' f n) else none)
  else if m = 0x2D then (if n ≤ f.rep5.toNat + 1 then some (leftSteps c' f n) else none)
  else none

/-! ### Coming to rest -/

/-- The progress of the members from the pc on, each brought to its index; none where one of them does not complete. -/
def restMembers (id : BlkId) : List Nat → State → Option (List Progress)
  | [], _ => some []
  | n :: t, s =>
    match getBlock s id with
    | none => none
    | some b => match fetchAt s id b b.pc with
      | .word w => match decode w with
        | .ok i => match exec i s with
          | .next s1 => match getBlock s1 id with
            | some b1 =>
              if b1.status = .resident ∧ b1.waiting = false ∧ b1.pc = b.pc + 4 ∧ b1.rewinds = b.rewinds then
                match leftBy b.core b1.core w n, restMembers id t s1 with
                | some x, some l => some (x :: l)
                | _, _ => none
              else none
            | none => none
          | _ => none
        | .error _ => none
      | _ => none

/-- Rows of an MMA or MMAD that a mask names finish: those that find their adapter and meet no cause (R131). -/
def restRows (s : State) (id : BlkId) (b : Block) (f : FmtMma) (tids : Option TileCode) (mask : Nat) : State :=
  if (mmaCheck b f tids).isSome then s
  else
    let c := b.core
    let x := slabOf c f
    let all := mmaRows c f
    let rows := (rowsLeft b all).filter fun r => bit mask r && !bit b.mmadRows r && (mmaHits c f tids r).isEmpty
    let look := (rows.map fun r => (r, rowAdapter s id b (rowId c f tids r) x.k x.n)).filter fun e => match e.2 with
      | .base | .ready _ => true
      | .fault _ _ | .miss => false
    let fine := look.filter fun e =>
      (fpHits c.fmode (srcRec c f.tacc) f.tacc.toNat ((mmadOf b all).step c f tids e.1 e.2).results).isEmpty
    let m := fine.foldl (fun m e => m.step c f tids e.1 e.2) (mmadOf b all)
    setBlock (touchRows s id x.k x.n fine) id { b with waiting := true, mmad := some (m.stand c f), mmadRows := m.ended }

/-- The instruction at pc, an issued convoy with its members, comes to rest at indices that the turn gives. An instruction
that has begun accesses, one already at rest, and one of another kind are left alone. -/
def restBlock (s : State) (id : BlkId) (b : Block) (index : List Nat) : State :=
  match fetchAt s id b b.pc with
  | .word w => match decode w with
    | .ok (.mma f) => restRows s id b f none (index.headD 0)
    | .ok (.mmad f t) => restRows s id b f (some t) (index.headD 0)
    | _ =>
      let s1 := if convoyHere s id b w then (match execConvoyIssue s with
          | .next s1 => s1
          | _ => s)
        else s
      match getBlock s1 id with
      | some b1 =>
        if b1.status = .resident ∧ index.length ≤ Nat.max 1 b1.convoy then
          match restMembers id index s1 with
          | some l => setBlock s1 id { b1 with prog := l }
          | none => s
        else s
      | none => s
  | _ => s

end Sys2Proof.Machine
end

