-- ==== Sys2Proof/Machine/Sequencer.lean ====
section
/-! DEFINITION. What acts next (log 3): a block at its pc, a turn that is given, or what the hardware does by itself; and
the placing of one instruction where the next step fetches. -/

namespace Sys2Proof.Machine

/-! ### A block's step (R42, R46, R57, R150, R221, R286) -/

/-- The state in which block `id` acts. -/
def asBlock (s : State) (id : BlkId) : State := { s with cur := some id }

/-- After an instruction: a block that waits at it may be served by its other half (R46, R50). -/
def afterExec (id : BlkId) (pc : Nat) (w : Word32) (i : Instr) (s : State) : State :=
  match getBlock s id with
  | some b =>
    if b.waiting && !b.holding && !b.stuck && !b.begun && b.status == .resident && b.pc == pc then lookAhead s id b w i else s
  | none => s

/-! ### The recheck queue around an instruction (R257 to R259) -/

/-- The flags that an instruction raises: those of its run with none set before. -/
def raisedFlags (i : Instr) (s : State) (id : BlkId) (b : Block) (after : Core) : Nat :=
  if b.core.fstat = 0 then after.fstat.toNat
  else match exec i (setBlock s id { b with core := { b.core with fstat := 0 } }) with
    | .next s1 => match getBlock s1 id with
      | some b1 => b1.core.fstat.toNat
      | none => 0
    | _ => 0

/-- A covered instruction that has completed takes an entry. -/
def noteRun (s : State) (id : BlkId) (b : Block) (w : Word32) (i : Instr) (s1 : State) : State :=
  match getBlock s1 id with
  | some b1 =>
    if rechecked (Fields.ofWord w) ∧ b1.status = .resident ∧ b1.waiting = false ∧ b1.pc = b.pc + 4 ∧ b1.rewinds = b.rewinds then
      takeEntry (updBlock s1 id fun b => { b with adHeld := [] }) id
        ⟨b.pc, w, b.core, b1.core, raisedFlags i s id b b1.core, b1.convoy, b1.openW, b1.adHeld⟩
    else s1
  | none => s1

/-- Before an instruction through which results reach the access half, a register or a strip boundary, every entry of the
block retires (R258). -/
def beforeRun (s : State) (id : BlkId) (b : Block) (w : Word32) : State :=
  if b.recheck.isEmpty || recheckPure (Fields.ofWord w) then s else retireAll s id

/-- A trap of the block's registers. -/
def isTrap (b : Block) (t : TrapInfo) : Bool := b.tcause == tcauseOf t && b.tcoord == t.coord && b.taddr == t.addr

/-- The instruction with no trap enabled, and the traps enabled as before. -/
def execUntrapped (i : Instr) (s : State) (id : BlkId) (b : Block) : Option (State × Block) :=
  match exec i (setBlock s id { b with core := { b.core with fmode := b.core.fmode &&& ~~~(0x7F00 : Word64) } }) with
  | .next s1 => match getBlock s1 id with
    | some b1 =>
      if b1.status = .resident ∧ b1.waiting = false ∧ b1.pc = b.pc + 4 then
        some (s1, { b1 with core := { b1.core with fmode := b.core.fmode } })
      else none
    | none => none
  | _ => none

/-- An instruction whose first run trapped on a flag, where neither rerun traps (R137, R259): its results are those of the
vote, and no enabled flag stands. -/
def voteUntrapped (i : Instr) (s : State) (id : BlkId) (b : Block) (w : Word32) (r : RecheckRuns) : Option State :=
  match execUntrapped i s id b with
  | none => none
  | some (s1, b1) =>
    let off := 2 ^ 64 - 1 - fld b.core.fmode 14 8
    let e : Recheck := ⟨b.pc, w, b.core, b1.core, raisedFlags i s id b b1.core &&& off, b.convoy, b.openW, []⟩
    match settleRuns e { r with trap := none } with
    | .stands c => some (countRecheck (setBlock s1 id { b1 with core := c }) id.p)
    | .traps t _ => some (takeTrap s id b t)
    | .mismatch bad => some (recheckTrap s id b e bad)


/-! ### Words -/

/-- The causes of issue (R245). -/
def issueCodes : List Nat := [causeCode .illegalInstr, causeCode .priv, causeCode .shapeInvalid, causeCode .shapeMismatch]

/-- An instruction that may not join a convoy, carrying C = 1, has an issue-time cause of its own: what it does then. -/
def strayTrap (s : State) (id : BlkId) (b : Block) (w : Word32) : Option State :=
  match decode (w &&& ~~~(0x2000000 : Word32)) with
  | .error e => match raiseAt s id b (decodeCause e) (halfBit b w) 0 with
    | .next s1 => some s1
    | _ => none
  | .ok i => match exec i (setBlock s id b) with
    | .next s1 => match getBlock s1 id with
      | some b1 => if b1.status = .suspended ∧ issueCodes.contains (fld b1.tcause 7 0) then some s1 else none
      | none => none
    | _ => none

/-- The first word of a convoy with a cause of its own, where it is one that may not join (R57, R245). -/
def firstStray (s : State) (id : BlkId) (b : Block) : Nat → List Word32 → Option State
  | _, [] => none
  | k, w :: t => match convoyWord b w with
    | .ineligible => match strayTrap s id { b with pc := b.pc + 4 * k } w with
      | some s1 => some s1
      | none => firstStray s id b (k + 1) t
    | x => if x.cause.isSome then none else firstStray s id b (k + 1) t

/-- A convoy is issued (R57). -/
def issueConvoy (s : State) (id : BlkId) (b : Block) (w : Word32) : Out :=
  let x := followers s id b (b.pc + 4) 4
  match if x.wait.isSome then none else firstStray s id b 0 (w :: x.words) with
  | some s1 => .next s1
  | none => execConvoyIssue s

/-- An instruction runs, with what the recheck queue and the other half make of it. -/
def runInstr (s : State) (id : BlkId) (b : Block) (w : Word32) (i : Instr) : Out :=
  match exec i (beforeRun s id b w) with
  | .next s1 => .next (afterExec id b.pc w i (noteRun s id b w i s1))
  | .fault x => .fault x
  | .refused x => .refused x

/-- The instruction at pc traps in its first run, and its reruns are compared before the trap is taken (R137, R258, R259):
the majority decides whether it traps and how. The results of an instruction that does not trap stand as its entry's. -/
def rerunTrap (s : State) (id : BlkId) (b : Block) (w : Word32) (i : Instr) (r : RecheckRuns) : Out :=
  match exec i s, r.trap with
  | .next s1, some (y, z) => match getBlock s1 id with
    | some b1 =>
      let first (t : Option TrapInfo) : Bool := t.any (isTrap b1)
      if b1.status ≠ .suspended ∨ first y ∨ first z then runInstr s id b w i
      else if y = z then match y with
        | some t =>
          let c := if t.cause = .suspect ∨ t.cause = .fpEnabled then
              orFlags b.core (trapFlags t (match r.flags with
                | some (u, v) => u &&& v
                | none => 0))
            else b.core
          .next (countRecheck (takeTrap s id { b with core := c } t) id.p)
        | none => match voteUntrapped i s id b w r with
          | some s2 => .next s2
          | none => .next s1
      else .next (recheckTrap s id b ⟨b.pc, w, b.core, b.core, 0, b.convoy, b.openW, []⟩ [])
    | none => .next s1
  | _, _ => runInstr s id b w i

/-- A word that has been fetched: a convoy is issued (R57), an instruction executed, any other word traps (R289). -/
def runWord (s : State) (id : BlkId) (b : Block) (w : Word32) : Out :=
  if convoyHere s id b w then issueConvoy s id b w
  else match decode w with
  | .error e => raiseAt s id b (decodeCause e) (halfBit b w) 0
  | .ok i => runInstr s id b w i

/-- One step of a block: a pin to be set again before it issues (R131), QUEUE_DEADLOCK where it has arisen (R50), an interrupt
at its boundary (R221), or the instruction at its pc. -/
def stepBlock (s : State) (id : BlkId) (b : Block) : Out :=
  if !b.repins.isEmpty then repinNext s id b
  else if b.stuck then execQueueDeadlock s
  else if interruptReady b then execUserInterruptEntry s
  else match fetchAt s id b b.pc with
  | .word w => runWord s id b w
  | .fails c => raiseAt s id b c (jointSide b) b.pc
  | .wait r => holdFetch s id b r

/-- The block goes on: it is resident, or it has been stopped and still completes what it has begun (R252). -/
def Block.goesOn (b : Block) : Bool := b.status == .resident || (b.status == .preempted && b.begun)

/-- After a block's step: a block that has been stopped, and has now completed what it had begun, is at rest (R252), which may
be what a write of the owner map has waited for (R265). -/
def settleBlock (id : BlkId) : Out → Out
  | .next s => .next (settleOwner (comeToRest s id) id.p)
  | o => o

/-- A block's turn: only a block of a polder that is up and not stalled issues (R32, R42). -/
def blockTurn (s : State) (id : BlkId) : Out :=
  match getBlock s id with
  | some b =>
    if b.goesOn && !polderDown s id.p && !(getPolder s id.p).stalled then settleBlock id (stepBlock (asBlock s id) id b)
    else unchanged s
  | none => unchanged s

/-- A block brought to rest inside its instruction (R252, R253). -/
def restTurn (s : State) (id : BlkId) (index : List Nat) : Out :=
  match getBlock s id with
  | some b =>
    if b.status == .resident && !b.begun && !b.waiting && b.prog.isEmpty && b.repins.isEmpty && !polderDown s id.p then
      .next { restBlock (asBlock s id) id b index with cur := s.cur }
    else unchanged s
  | none => unchanged s

/-- A block event. A rerun whose entry is the next to be taken concerns the instruction at pc, which has not completed. Any
event but a rerun finds the block's entries retired: it comes between instructions. -/
def blockEventTurn (s : State) (id : BlkId) (i : Instr) : Out :=
  let s1 := asBlock s id
  match getBlock s id, i with
  | some b, .recheckRerun r =>
    if r.entry = b.recheck.length ∧ b.status = .resident ∧ b.repins = [] ∧ b.stuck = false ∧ !polderDown s id.p then
      match fetchAt s1 id b b.pc with
      | .word w => if convoyHere s1 id b w || !rechecked (Fields.ofWord w) then unchanged s1 else match decode w with
        | .ok j => rerunTrap s1 id b w j r
        | .error _ => unchanged s1
      | _ => unchanged s1
    else exec i s1
  | _, _ => exec i (retireAll s1 id)

/-! ### The host's events (R20, R273, R284) -/

/-- The function through which the host makes an event; none for what the hardware does. -/
def hostFn (s : State) (i : Instr) : Option FnId :=
  let own (p : PolderNo) : Option FnId := some (.vf (BitVec.ofNat 7 (8 * p.toNat)))
  let ofQueue (p : PolderNo) (q : QueueNo) : Option FnId := some (.vf (BitVec.ofNat 7 (8 * p.toNat + q.toNat / 8)))
  let reset (p : PolderNo) : Option FnId := if (getPolder s p.toNat).resetJob.isSome then none else some .pf0
  match i with
  | .qtailDoorbell p q _ | .qringWrite p q _ | .qcqWrite p q _ | .qctlWrite p q _ => ofQueue p q
  | .graphValidate p _ _ | .gtrig p _ | .fqringWrite p _ | .fqresResume p _ | .fqresSkip p _ | .fqresKill p _
  | .codeLoad p _ | .codeUnload p _ | .ownerMapWrite p _ _ | .sluiceEntryWrite p _ _ _ _ | .qptabWrite p _ _ _ => own p
  | .pctlWrite _ _ | .hoctlWrite _ => some .pf0
  | .presetKeep p | .presetScrub p => reset p
  | .registerWrite fn _ _ _ | .msixUnmask fn _ | .attestQuote fn _ _ | .attestLog fn _ => some fn
  | _ => none

/-- A turn of the host through one of its functions. -/
def hostTurn (s : State) (fn : FnId) (k : Out) : Out := if hostReaches s fn then k else unchanged s

/-- A turn. -/
def turn (s : State) : Turn → Out
  | .block id => blockTurn s id
  | .blockEv id i => blockEventTurn s id i
  | .event i => match hostFn s i with
    | some fn => hostTurn s fn (exec i s)
    | none => exec i s
  | .hostWrite a bs => .next { s with bus := memSetBytes s.bus a bs }
  | .regStore fn off bs => storeRegister fn off bs s
  | .hostStore fn sp off bs => hostTurn s fn (storeSpace fn sp off bs s)
  | .regRead fn sp off n => hostTurn s fn
      (.next (updDev s fun d => { d with out := d.out ++ [.regRead fn sp off (readSpace s fn sp off n)] }))
  | .noAtomic l => .next (updDev s fun d => { d with noAtomic := l })
  | .rest id index => restTurn s id index
  | .firmware p m w => if polderDown s p.toNat then unchanged s else fwStep p m w s
  | .stage img => .next (updDev s fun d => { d with staged := some img })

/-! ### What the hardware does by itself -/

/-- The event that meets a packet of a TYPE. -/
def packetTurn (p : PolderNo) (n ty : Nat) : Turn :=
  let q : QueueNo := BitVec.ofNat 6 n
  .event (match ty with
    | 2 => .packetLaunch p q | 3 => .packetGraphRun p q | 4 => .packetWrite p q | 5 => .packetSignal p q
    | 6 => .packetWriteSignal p q | 7 => .packetWait p q | 8 => .packetFence p q | _ => .packetNop p q)

/-- The event that meets the packet which a polder has in hand, or would start next. -/
def packetEvent (s : State) (p : PolderNo) : List Turn :=
  match (getPolder s p.toNat).cpBusy with
  | some j => [packetTurn p j.q j.pkt.ty]
  | none => match pickQueue s p.toNat (getPolder s p.toNat).served with
    | none => []
    | some (n, w) => [packetTurn p n (pktType w)]

/-- Events of one queue. -/
def queueEvents (s : State) (p : PolderNo) (n : Nat) : List Turn :=
  let h := getQueue s p.toNat n
  let q : QueueNo := BitVec.ofNat 6 n
  if !h.cqWaiting.isEmpty && !h.cqFull then [.event (.completionEntryWrite p q)] else []

/-- The waiting WAITs of the signal table are scanned again (R243): those of queues, and of graph nodes. -/
def waitEvents (s : State) (p : PolderNo) : List Turn :=
  (signalTable s p.toNat).map fun e => .event (match e.1 with
    | .queue q => .waitConditionMet p (BitVec.ofNat 6 q)
    | .node g n => .graphNodeStart p (BitVec.ofNat 6 g) (BitVec.ofNat 12 n))

/-- Events of one graph slot. -/
def graphEvents (s : State) (p : PolderNo) (n : Nat) : List Turn :=
  let x := getSlot s p.toNat n
  match x.running with
  | none => []
  | some r =>
    let ready := if r.begun then readyNodes (slotImgs s p.toNat x) r ++ x.steps.map Prod.fst ++ (if allEnded r then [0] else []) else [0]
    ready.map fun k => .event (.graphNodeStart p (BitVec.ofNat 6 n) (BitVec.ofNat 12 k))

/-- Events of the engines. -/
def cardEvents (s : State) (p : PolderNo) : List Turn :=
  let x := getPolder s p.toNat
  (x.cards.filterMap fun c =>
    if canStart s p.toNat c then some (.event (.cardStart p c.num))
    else if c.started && cKind c.data != 5 then some (.event (.cardComplete p c.num)) else none)
  ++ (if x.cards.isEmpty then [] else (upTo 64).filterMap fun k =>
      if cqeNew s p.toNat k then some (.event (.nvmeCompletion p (BitVec.ofNat 6 k))) else none)

/-- Events of the clusters. -/
def clusterEvents (s : State) (p : PolderNo) : List Turn :=
  (getPolder s p.toNat).clusters.flatMap fun c => match c.ctxs with
    | [] => []
    | x :: _ => (upTo 8).filterMap fun k =>
      if c.resident && phaseReady s p.toNat c (BitVec.ofNat 3 k) then
        some (.blockEv ⟨p.toNat, x⟩ (.barrierPhaseComplete (BitVec.ofNat 3 k)))
      else none

/-- What a resident block can do: feeds, adapter rows, its own step. -/
def blockEvents (s : State) (e : Nat × Block) (p : Nat) : List Turn :=
  let id : BlkId := ⟨p, e.1⟩
  if e.2.status == .resident then
    ((upTo 4).filterMap fun k => if feedReady e.2 k then some (.blockEv id (.feedElementLoad (BitVec.ofNat 2 k))) else none)
    ++ (if e.2.waiting then ((missingRows s id e.2).take 1).map fun r => .blockEv id (.adapterRowFetch (BitVec.ofNat 8 r)) else [])
    ++ (if e.2.recheck.isEmpty then [] else [.blockEv id (.recheckRerun (RecheckRuns.agree 0))])
    ++ [.block id]
  else if e.2.goesOn then [.block id]
  else []

/-- Events of the voted machines, of a reset and of a hand-over. -/
def controlEvents (s : State) (p : PolderNo) : List Turn :=
  let x := getPolder s p.toNat
  let vote (m : VotedMachine) : List Turn :=
    if (vget none x.votes (machineIx m)).isSome then [.event (.resyncComplete p m)] else []
  (match x.resetJob with
    | some j => [.event (if j.scrub then .presetScrub p else .presetKeep p)]
    | none => [])
  ++ vote .commandProcessor ++ vote .scheduler ++ vote .walkers
  ++ (if canSwitch s p.toNat && x.pendingImage.isSome then [.event (.handoverSwitch p)] else [])
  ++ (if x.st = .reduced then [.event (.fullRateTransition p)] else [])
  ++ x.closing.map (fun c => .event (.sluiceCloseComplete p (BitVec.ofNat 3 c.k)))

/-- Events of one polder. -/
def polderEvents (s : State) (n : Nat) : List Turn :=
  let p : PolderNo := BitVec.ofNat 4 n
  let x := getPolder s n
  controlEvents s p ++
  (if polderDown s n then []
  else
    (upTo 64).flatMap (queueEvents s p) ++ waitEvents s p ++ packetEvent s p
    ++ (if x.fq.waiting.isEmpty then [] else [.event (.faultRecordWrite p)])
    ++ (upTo 64).flatMap (graphEvents s p) ++ cardEvents s p
    ++ (x.tasks.filterMap fun t => if taskDone s n t.2 then some (.event (.taskComplete p t.1)) else none)
    ++ (if (nextPlacement s n).isSome then [.event (.clusterPlacement p)] else [])
    ++ clusterEvents s p
    ++ ((upTo 64).zip x.code.toList).filterMap (fun e =>
        if e.2.st = .unloading then some (.event (.codeSlotFree p (BitVec.ofNat 6 e.1))) else none)
    ++ x.blocks.flatMap fun e => blockEvents s e n)

/-- Events of the links. -/
def linkEvents (s : State) : List Turn :=
  (if s.dev.arrivedReq.isEmpty then [] else [.event .causewayRequest])
  ++ (if s.dev.arrivedRsp.isEmpty then [] else [.event .causewayResponse])
  ++ ((upTo 12).filterMap fun n => if (getPort s n).paused then some (.event (.causewayRetrain (BitVec.ofNat 4 n))) else none)
  ++ ((upTo 40).filterMap fun m => if (getModule s m).paused then some (.event (.dieLinkResume (BitVec.ofNat 6 m))) else none)

/-- Everything that the hardware can do now. Before bring-up that is bring-up alone (R284). -/
def ownTurns (s : State) : List Turn :=
  if s.dev.step = 0 then [.event (.bringup [])]
  else linkEvents s ++ (upTo 16).flatMap (polderEvents s)

/-- A turn that changes the state. -/
def effective (s : State) (t : Turn) : Bool :=
  match turn s t with
  | .next s1 => decide ({ s1 with cur := s.cur } ≠ s)
  | _ => true

/-- The numbers of a list's places, each with its element, from place k on and round to the start. -/
def rotated {α : Type} (l : List α) (k : Nat) : List (Nat × α) :=
  let n := (upTo l.length).zip l
  n.drop (k % Nat.max 1 l.length) ++ n.take (k % Nat.max 1 l.length)

/-- What comes next by itself: the first of the possible turns, from the round-robin pointer on, that changes the state,
with the pointer after it. -/
def ownTurn (s : State) : Option (Nat × Turn) :=
  ((rotated (ownTurns s) s.rr).find? fun e => effective s e.2).map fun e => (e.1 + 1, e.2)

/-- One step: the turn that is given, else one of the hardware's own, else nothing happens. -/
def nextStep (s : State) : Out :=
  match s.sched with
  | t :: rest => turn { s with sched := rest } t
  | [] => match ownTurn s with
    | some (k, t) => turn { s with rr := k } t
    | none => unchanged s

/-! ### Placing an instruction (log 1) -/

/-- A task of one block in polder 0, with its code at VA 0. -/
def placedTask : Task :=
  { handle := 1, origin := .packet 0 0, queue := 0, entry := 0, textVa := 0, slot := 0, gen := 1, tilesCode := 2, feedRec := 0,
    fns := [], root := 0x10000, counts := [1, 0, 0, 0], loops := [(2, 1), (0, 0), (0, 0), (0, 0)],
    args := List.replicate 16 0, feeds := [none, none, none, none], prio := 0, weight := 1, clsz := 0, pers := false,
    scope := 0, ctAddr := 0, ctVal := 0, nblocks := 1, placed := 1, halted := 0, ended := none, faulted := none }

/-- Its cluster. -/
def placedCluster : Cluster :=
  { cid := 0, creator := 0, handle := 1, idx := 0, blkids := [0], ctxs := [0], phases := Vector.replicate 8 0,
    resident := true, suspended := false, order := 0, placedAt := 0 }

/-- The polder in which an instruction is placed: released, in a partition of its own, with one resident block. -/
def placedPolder (x : Polder) : Polder :=
  let x1 := { x with st := .full, pctl := 0x8000000000000100, ctxpool := 0x100001, resetJob := none, stalled := false,
                     pgen := 1, nextTask := 2, nextCid := 1, nextOrder := 1, nextPlaced := 1,
                     code := vset x.code 0 ⟨0, 1, 0, .loaded, 0, 65536, [], 0⟩ }
  { x1 with tasks := [(1, placedTask)], clusters := [placedCluster], tlb := [],
            blocks := [(0, newBlock placedTask 0 0 0 (grantWord x1 0 2) (0, 0))] }

/-- The page tables and the code page: root at 0x10000, level 1 at 0x20000, level 2 at 0x30000, VA 0 at PA 0x40000, every
access allowed. -/
def placedHbm (m : Memory) (n w : Nat) : Memory :=
  memSetNat (memSetNat (memSetNat (memSetNat m 0x10000 8 0x20003) 0x20000 8 0x30003) 0x30000 8 0x4001F) 0x40000 n w

/-- The state whose next step fetches and runs the instruction of n bytes with bits w (log 1). -/
def placeWord (s : State) (n w : Nat) : State :=
  let s1 := updPolder s 0 placedPolder
  { s1 with sched := [.block ⟨0, 0⟩], hbm := placedHbm s1.hbm n w, poison := mapDel s1.poison (0x40000 / 128) }

end Sys2Proof.Machine
end

