-- ==== Sys2Proof/Machine/Step.lean ====
section
/-! DEFINITION. The step of the machine, and the placing of an instruction where it fetches next. -/

namespace Sys2Proof.Machine

/-- One step. -/
def step (s : State) : Host.Outcome State Fault Refusal := nextStep s

/-- The same state with the instruction whose bits are w placed where the next step fetches. The longest instruction is
one word of four bytes, so the bits above nbits are zero there. -/
def State.withFetchWord (s : State) (nbits w : Nat) : State := placeWord s (Nat.max 4 (nbits / 8)) (w % 2 ^ Nat.max nbits 1)

end Sys2Proof.Machine
end

