-- ==== Sys2Proof/Safety.lean ====
section
/-! DEFINITION. The words of the claims: what a safe state is, which block acts, how a block stands after an instruction
that completes, what an instruction leaves alone, and what it delivers to memory and tiles. -/

namespace Sys2Proof.Machine

/-! ### Safe states -/

/-- A polder's own memories are canonical: scheduler memory, those of its firmware cores, and the shared-store region of every
block. -/
def Polder.safe (x : Polder) : Prop :=
  Memory.wf x.sched = true ∧ (∀ k : Fin 2, Memory.wf (x.fw[k]).mem = true) ∧ ∀ e ∈ x.blocks, Memory.wf e.2.shared = true

/-- Every byte memory of the machine is in its canonical form. -/
def State.safe (s : State) : Prop :=
  Memory.wf s.hbm = true ∧ Memory.wf s.bus = true ∧ ∀ p : Fin 16, (s.polders[p]).safe

/-! ### The block that acts -/

/-- Block `id` acts, and its data are `b`. -/
def Acts (s : State) (id : BlkId) (b : Block) : Prop := s.cur = some id ∧ getBlock s id = some b

/-- It acts outside a user-interrupt handler (R221). -/
def ActsFree (s : State) (id : BlkId) (b : Block) : Prop := Acts s id b ∧ inHandler b = false

/-- No register of a list carries a mark (R260). -/
def Unmarked (c : Core) (side : Bool) (rs : List RegNo) : Prop := ∀ r ∈ rs, regMark c side r = none

/-! ### Completion -/

/-- A block whose instruction has completed, apart from that instruction's own results: control is at `pc`, the
instruction is the one that completed last, one member of a convoy in progress is done, and nothing waits. -/
def Block.done (b : Block) (pc : Nat) : Block :=
  { b.quiet with pc := pc, prog := b.prog.drop 1, stored := false, convoy := b.convoy - 1,
                 openW := if b.convoy = 0 then [] else b.openW, skipC := false }

/-- Instruction `i` completes with the block's data `b` and control at `pc`; the rest of the machine stays. -/
def CompletesAt (i : Instr) (s : State) (id : BlkId) (b : Block) (pc : Nat) : Prop :=
  exec i s = .next (setBlock s id (b.done pc))

/-- Instruction `i` completes with the block's data `b`, and the next instruction in order follows. -/
def Completes (i : Instr) (s : State) (id : BlkId) (b : Block) : Prop := CompletesAt i s id b (b.pc + 4)

/-- Instruction `i` traps: the next state has taken the trap (R247). -/
def Traps (i : Instr) (s : State) (id : BlkId) (b : Block) (t : TrapInfo) : Prop := exec i s = .next (takeTrap s id b t)

/-- Instruction `i` cannot go on: only the wait is recorded (R42). -/
def Waits (i : Instr) (s : State) (id : BlkId) (b : Block) : Prop :=
  exec i s = .next (setBlock s id { b with waiting := true })

/-! ### Frames -/

/-- Nothing outside the polders changes: memory, poison and device. -/
def SameOutside (s t : State) : Prop := t.hbm = s.hbm ∧ t.bus = s.bus ∧ t.poison = s.poison ∧ t.dev = s.dev

/-- Every block but `id` stays. -/
def SameOthers (s t : State) (id : BlkId) : Prop := ∀ k, k ≠ id → getBlock t k = getBlock s k

/-- The registers of a block that an exception or an event writes, and its control registers outside the core. -/
def SameSpecial (b b' : Block) : Prop :=
  b'.tcause = b.tcause ∧ b'.tcoord = b.tcoord ∧ b'.taddr = b.taddr ∧ b'.fltpc = b.fltpc ∧ b'.progix = b.progix
    ∧ b'.grantc = b.grantc ∧ b'.stripId = b.stripId ∧ b'.wmark = b.wmark ∧ b'.uivec = b.uivec ∧ b'.uistat = b.uistat
    ∧ b'.uiret = b.uiret ∧ b'.adtBase = b.adtBase ∧ b'.shared = b.shared ∧ b'.sbuf = b.sbuf ∧ b'.status = b.status

/-- The store at pc has done nothing yet (R144, R171), and the block is not the copy on which a half runs ahead (log 16). -/
def Block.unstarted (b : Block) : Prop := b.stored = false ∧ b.devDone = 0 ∧ b.runsAhead = false

/-! ### Memory -/

/-- Instruction `i` completes with the block's data `b`; memory, poison, the device and every other block stay, and of the
polder only what the instruction's translations and lookups cache may change. -/
def Delivers (i : Instr) (s : State) (id : BlkId) (b : Block) : Prop :=
  ∃ t, exec i s = .next t ∧ getBlock t id = some (b.done (b.pc + 4)) ∧ SameOutside s t ∧ SameOthers s t id

/-- The bytes from `va` lie at `pa` in HBM for the block: the address translates with the permissions needed, as memory that
is no device memory, and the polder of the HBM is up. -/
def InHbm (s : State) (id : BlkId) (b : Block) (n : Need) (va size pa : Nat) : Prop :=
  pa + size ≤ 0x8000000000 ∧ polderDown s (pa / polderBytes) = false
    ∧ ∃ mt, mt ≠ 2 ∧ probeAt s (blockAcc s id b) n va = .ok (.phys pa mt)

/-- An element in memory that a load can take from HBM, its scale byte with it: aligned, and in no poisoned line. -/
def ElemInHbm (s : State) (id : BlkId) (b : Block) (n : Need) (e : MemEl) (pa : Nat) : Prop :=
  e.va % e.size = 0 ∧ InHbm s id b n e.va e.size pa ∧ poisonIn s pa e.size = none
    ∧ ∀ v, e.scale = some v → ∃ q, InHbm s id b n v 1 q ∧ poisonIn s q 1 = none

/-- An element that a store can buffer: aligned, and its place, like that of its scale byte, is no device memory. -/
def ElemStorable (s : State) (id : BlkId) (b : Block) (e : MemEl) (w : Where) : Prop :=
  e.va % e.size = 0 ∧ probeAt s (blockAcc s id b) needWr e.va = .ok w ∧ w.device = false
    ∧ ∀ v, e.scale = some v → ∃ q, probeAt s (blockAcc s id b) needWr v = .ok q ∧ q.device = false

/-- The buffered entry of an element of operand `x` that is to be stored at `e` (R170, R420). A marked element is a new source
where it is stored (R261). -/
def EntryOf (s : State) (id : BlkId) (b : Block) (x : Src) (e : MemEl) (en : SbEntry) : Prop :=
  en.va = e.va ∧ en.size = e.size ∧ en.val = x.get e.ix
    ∧ en.nibble = (if typeWidth x.rc.ty = 4 then some (decide (e.shift = 4)) else none)
    ∧ ∃ w, probeAt s (blockAcc s id b) needWr e.va = .ok w ∧ en.loc = w.loc 0
        ∧ en.mark = (x.mark e.ix).map fun _ => storedMark w e.va

/-- The bytes of an interval lie in HBM, in no poisoned line, and are `bs`. -/
def SpanInHbm (s : State) (id : BlkId) (b : Block) (va : Nat) (bs : List Byte) : Prop :=
  ∀ v k, (v, k) ∈ pieces128 va bs.length → ∃ pa, InHbm s id b needRd v k pa ∧ poisonIn s pa k = none
    ∧ memBytes s.hbm pa k = (bs.drop (v - va)).take k

/-! ### Tiles -/

/-- A dead tile lists no element (R62, R78). -/
def TidyTiles (c : Core) : Prop := ∀ k : Fin 28, (c.tiles[k]).live = false → (c.tiles[k]).elems = []

/-- No operand is dead at an index where that counts (R78). -/
def NoDead (c : Core) (xs : List Src) (ix : List Nat) : Prop := deadReads c = true → ∀ x ∈ xs, ∀ i ∈ ix, x.dead i = false

/-- No operand carries a mark at an index (R260). -/
def NoMarks (xs : List Src) (ix : List Nat) : Prop := ∀ x ∈ xs, ∀ i ∈ ix, x.mark i = none

/-- No flag is raised that FMODE.TE enables (R108). -/
def NoTrapFlags (c : Core) (fl : Nat) : Prop := fl &&& fld c.fmode 14 8 = 0

/-- The union of the flags of some elements (R108). -/
def flagsOf (ix : List Nat) (f : Nat → Nat) : Nat := ix.foldl (fun a i => a ||| f i) 0

/-- A record whose rows fit the element numbering: no granted row is longer than 16,384 elements (R65). -/
def FitsRow (h : ShapeRec) : Prop := h.gc ≤ 16384

/-- From core `c` to `c'`, exactly the tile or group at `t` is written: element i takes `v i` where `w i` holds and stays
elsewhere; a tile written into is live and dirty; other tiles, and all else but the copies in tile store, stay. In a strip
whose grant is 0 × 0 nothing is written (R74). -/
def TileWritten (c c' : Core) (t : TileCode) (w : Nat → Bool) (v : Nat → Nat) : Prop :=
  let h := dstRec c t
  if c.gr = 0 then c' = c
  else c' = { c with tiles := c'.tiles, copies := c'.copies }
    ∧ c'.copies.store = c.copies.store ∧ (c.copies.held = [] → c'.copies = c.copies) ∧ (c.copies.lost = true → c'.copies.lost = true)
    ∧ (∀ k, k < t.toNat ∨ t.toNat + groupSize h ≤ k → mapGet c'.copies.held k = mapGet c.copies.held k)
    ∧ (∀ k : Fin 28, (k.val < t.toNat ∨ t.toNat + groupSize h ≤ k.val) → c'.tiles[k] = c.tiles[k])
    ∧ (∀ i, i < recElems h → (tileSrc c' t.toNat).get i = if w i then v i else (tileSrc c t.toNat).get i)
    ∧ ∀ i, i < recElems h → w i = true → ∀ k : Fin 28, k.val = (memberOf h t.toNat (i / h.gc)).1 →
        (c'.tiles[k]).live = true ∧ (c'.tiles[k]).dirty = true

/-- From core `c` to `c'`, one operand of row-blocks joins store queue `t`: element i is `v i` where `w i` holds, else zero
(R70). -/
def QueuePushed (c c' : Core) (t : TileCode) (w : Nat → Bool) (v : Nat → Nat) : Prop :=
  let h := dstRec c t
  let q := vget ⟨[], 0⟩ c.sq (t.toNat - 28)
  ∃ es : List QElem, c' = { c with sq := vset c.sq (t.toNat - 28) ⟨q.elems ++ es, 0⟩ } ∧ es.length = recElems h
    ∧ ∀ i, i < recElems h → (es[i]?.map QElem.bits) = some (if w i then v i else 0)

/-- A destination operand is written. -/
def Written (c c' : Core) (t : TileCode) (w : Nat → Bool) (v : Nat → Nat) : Prop :=
  if t.toNat < 28 then TileWritten c c' t w v else QueuePushed c c' t w v

/-- A destination that can take results now, in a strip that has elements (R74): a tile or group that R64 allows, or a store
queue with room that owes nothing (log 16); its rows fit, and dead tiles list nothing. -/
def DstReady (b : Block) (c : Core) (t : TileCode) : Prop :=
  c.gr ≠ 0 ∧ dstOk b.grantc b.core t = true ∧ dstRoom b t = true ∧ FitsRow (dstRec c t) ∧ TidyTiles c
    ∧ (28 ≤ t.toNat → (vget ⟨[], 0⟩ c.sq (t.toNat - 28)).debt = 0)

/-- Instruction `i` completes by writing destination `t` of the core `c` that its operands left: element k becomes `v k` where
`w k` holds, and the flags are ORed into FSTAT. -/
def WritesDst (i : Instr) (s : State) (id : BlkId) (b : Block) (c : Core) (t : TileCode) (w : Nat → Bool) (v : Nat → Nat)
    (flags : Nat) : Prop :=
  ∃ c', Written c c' t w v
    ∧ Completes i s id { b with core := { c' with fstat := c'.fstat ||| BitVec.ofNat 64 flags } }

/-- An elementwise instruction: once its operands `xs` have been taken, carry no mark and no dead element that counts, and
no enabled flag arises, every active element of the destination becomes what `f` makes of theirs. In a strip whose grant is
0 × 0 it completes with no operand changed (R74), and raises flags only where it names no queue. -/
def Elementwise (i : Instr) (s : State) (id : BlkId) (b : Block) (c : Core) (t : TileCode) (g : Guard) (xs : List Src)
    (f : Nat → List Nat → Nat × Nat) : Prop :=
  let act := activeIx c g (recElems (dstRec c t))
  let r (k : Nat) : Nat × Nat := f k (xs.map fun x => x.get k)
  let fl := flagsOf act fun k => (r k).2
  NoDead c xs act → NoMarks xs act → NoTrapFlags c fl →
    (DstReady b c t → WritesDst i s id b c t (isActive c g) (fun k => (r k).1) fl)
    ∧ (c.gr = 0 → ∃ k, (k = 0 ∨ k = fl)
        ∧ Completes i s id { b with core := { b.core with fstat := b.core.fstat ||| BitVec.ofNat 64 k } })

/-! ### Rounding (R88, R92 to R94) -/

/-- Bits of the fraction of f64 and f32. -/
def fracBits (dbl : Bool) : Nat := if dbl then 52 else 23

/-- Bits of the exponent. -/
def expBits (dbl : Bool) : Nat := if dbl then 11 else 8

/-- The sign bit of an encoding. -/
def floatSign (dbl : Bool) (x : Nat) : Bool := x.testBit (fracBits dbl + expBits dbl)

/-- 2 to this power is 1 in units of the least subnormal. -/
def floatUnit (dbl : Bool) : Nat := if dbl then 1074 else 149

/-- The number that an encoding stands for (R88), in units of the least subnormal; none for an infinity or a NaN. -/
def finiteVal (dbl : Bool) (x : Nat) : Option Int :=
  let fr := x % 2 ^ fracBits dbl
  let ex := x / 2 ^ fracBits dbl % 2 ^ expBits dbl
  let mag := if ex = 0 then fr else (2 ^ fracBits dbl + fr) * 2 ^ (ex - 1)
  if ex = 2 ^ expBits dbl - 1 then none else some (if floatSign dbl x then -(mag : Int) else mag)

/-- Rounding overflows (R93): the magnitude of n / d, rounded as though the exponent had no bound, is above the largest finite
one. `rm` is FMODE.RM (R83): 0 RNE, 1 RTZ, 2 RUP, 3 RDN. -/
def RoundOverflows (dbl : Bool) (rm : Nat) (n : Int) (d : Nat) : Prop :=
  let ulp := 2 ^ (2 ^ expBits dbl - 3)
  let next := 2 ^ (fracBits dbl + 1) * ulp
  if rm = 0 then d * (2 * next - ulp) ≤ 2 * n.natAbs
  else if (rm = 2 ∧ 0 < n) ∨ (rm = 3 ∧ n < 0) then d * (next - ulp) < n.natAbs
  else d * next ≤ n.natAbs

/-- The encoding `r` and the flags `fl` are what R92 to R94 make of the exact value n / d, in units of the least subnormal, under
FZ = 0. `neg0` is the sign of an exact zero. -/
def RoundsTo (dbl : Bool) (rm : Nat) (n : Int) (d : Nat) (neg0 : Bool) (r fl : Nat) : Prop :=
  let inf := (2 ^ expBits dbl - 1) * 2 ^ fracBits dbl
  r < 2 ^ (fracBits dbl + expBits dbl + 1) ∧ floatSign dbl r = (if n = 0 then neg0 else decide (n < 0))
  ∧ (RoundOverflows dbl rm n d → fl = fOF + fNX ∧ r % 2 ^ (fracBits dbl + expBits dbl) =
      if rm = 0 ∨ (rm = 2 ∧ 0 < n) ∨ (rm = 3 ∧ n < 0) then inf else inf - 1)
  ∧ (¬ RoundOverflows dbl rm n d → ∃ v, finiteVal dbl r = some v
      ∧ (rm = 0 → ∀ w y, finiteVal dbl w = some y → y ≠ v →
          (v * d - n).natAbs < (y * d - n).natAbs ∨ ((v * d - n).natAbs = (y * d - n).natAbs ∧ r % 2 = 0))
      ∧ ((rm = 3 ∨ (rm = 1 ∧ 0 ≤ n)) → v * d ≤ n ∧ ∀ w y, finiteVal dbl w = some y → y * d ≤ n → y ≤ v)
      ∧ ((rm = 2 ∨ (rm = 1 ∧ n < 0)) → n ≤ v * d ∧ ∀ w y, finiteVal dbl w = some y → n ≤ y * d → v ≤ y)
      ∧ fl = if v * d = n then 0 else if v ≠ 0 ∧ v.natAbs < 2 ^ fracBits dbl then fUF + fNX else fNX)

/-! ### Packets and events -/

/-- The completion entry of a packet, phase bit clear (R237). -/
def completionWords (e : Started) (task detail status : Nat) : List Word64 :=
  [BitVec.ofNat 64 (task % 2 ^ 48),
   BitVec.ofNat 64 (((e.tag % 2 ^ 32) <<< 32) + ((e.off / 64 % 2 ^ 18) <<< 14) + e.ty % 256),
   BitVec.ofNat 64 detail, BitVec.ofNat 64 (status % 65536)]

/-- A started packet has completed: it is in flight no longer, and where it asked for an entry, that waits for its place in
the completion ring. -/
def Reported (s t : State) (p q : Nat) (e : Started) (task detail status : Nat) : Prop :=
  (∀ y ∈ (getQueue t p q).started, y.sn ≠ e.sn)
    ∧ (e.cqe = true → ∃ more, (getQueue t p q).cqWaiting
        = (getQueue s p q).cqWaiting ++ completionWords e task detail status :: more)

/-- A saved block: it has left its slot and keeps what its context keeps (R252 to R254). The finished rows of an MMA or MMAD
are in its accumulator (R131), queued reruns are done, and every tile, the checkpoint's too, is clean (R79). An instruction that
has begun accesses is still to complete, in the slot (R252). -/
def Saved (b b' : Block) : Prop :=
  let c := if b.begun then b.core else (restMmad b).core
  b'.status = .preempted ∧ b'.place = (if b.begun then b.place else none) ∧ b'.pc = (if b.holding then b.pc + 4 else b.pc)
    ∧ b'.sbuf = b.sbuf ∧ b'.ckpt = cleanTiles b.ckpt ∧ b'.rewindable = b.rewindable ∧ b'.shared = b.shared
    ∧ b'.uistat = b.uistat ∧ b'.recheck = [] ∧ b'.begun = b.begun ∧ b'.core = cleanTiles c
    ∧ (∀ fl r, regGet b'.core fl r = regGet b.core fl r) ∧ b'.core.preds = b.core.preds ∧ b'.core.recs = b.core.recs
    ∧ b'.core.fstat = b.core.fstat ∧ (b.mmad = none → b'.core.copies = b.core.copies)
    ∧ ∀ k : Fin 28, (b'.core.tiles[k]).elems = (c.tiles[k]).elems ∧ (b'.core.tiles[k]).live = (c.tiles[k]).live
        ∧ (b'.core.tiles[k]).dirty = false ∧ (b'.ckpt.tiles[k]).dirty = false

end Sys2Proof.Machine
end

