-- ==== Sys2Proof/Certificates/Slice0/Obligations.lean ====
section
/-! DEFINITION. The statements about the model, for the provers. Each formalises rules of the manual; where a statement
rests on a choice of the model, its docstring says so and names the log entry. -/

open Sys2Proof Sys2Proof.Machine

/-! ### Scalar integers -/

/-- The scalar integer family (R87, R342, R343, R390, R395, R401, R407, R413, R471): with no mark among its sources, an
instruction completes and rd of the file that side names takes the result, register 0 excepted, which discards it.
Division by zero and the overflow of −2^63 by −1 have the fixed results of R87, which are those of `BitVec.sdiv` and its
kin but for the zero divisor. SEL reads the old rd as a third source. CLZ writes 64 for zero, else n with bit 63 − n the
highest one; CTZ 64 for zero, else n with bit n the lowest one; POPC counts. imm15 is sign-extended, a shift takes its
6-bit amount, and LIH replaces one quarter of the old rd. -/
def Obligations.ScalarResults : Prop :=
  (∀ (s : State) (id : BlkId) (b : Block) (f : FmtSR), Acts s id b → Unmarked b.core f.side [f.rs1, f.rs2] →
     let x := regGet b.core f.side f.rs1
     let y := regGet b.core f.side f.rs2
     let gives (i : Instr) (v : Word64) : Prop := Completes i s id { b with core := regSet b.core f.side f.rd v }
     gives (.add f) (x + y) ∧ gives (.sub f) (x - y) ∧ gives (.mul f) (x * y)
     ∧ gives (.mulh f) (((x.signExtend 128 * y.signExtend 128) >>> 64).setWidth 64)
     ∧ gives (.mulhn f) (((x.setWidth 128 * y.setWidth 128) >>> 64).setWidth 64)
     ∧ gives (.div f) (if y = 0 then BitVec.allOnes 64 else x.sdiv y)
     ∧ gives (.divn f) (if y = 0 then BitVec.allOnes 64 else x / y)
     ∧ gives (.rem f) (x.srem y) ∧ gives (.remn f) (x % y)
     ∧ gives (.and f) (x &&& y) ∧ gives (.or f) (x ||| y) ∧ gives (.xor f) (x ^^^ y)
     ∧ gives (.shl f) (x <<< (y &&& 63)) ∧ gives (.shr f) (x >>> (y &&& 63)) ∧ gives (.sra f) (x.sshiftRight' (y &&& 63))
     ∧ gives (.slt f) (if x.toInt < y.toInt then 1 else 0) ∧ gives (.sltn f) (if x.toNat < y.toNat then 1 else 0)
     ∧ gives (.min f) (if x.toInt < y.toInt then x else y) ∧ gives (.max f) (if x.toInt < y.toInt then y else x)
     ∧ gives (.minn f) (if x.toNat < y.toNat then x else y) ∧ gives (.maxn f) (if x.toNat < y.toNat then y else x))
  ∧ ((∀ (s : State) (id : BlkId) (b : Block) (f : FmtSR), Acts s id b → Unmarked b.core f.side [f.rd, f.rs1, f.rs2] →
      let v := if regGet b.core f.side f.rd ≠ 0 then regGet b.core f.side f.rs1 else regGet b.core f.side f.rs2
      Completes (.sel f) s id { b with core := regSet b.core f.side f.rd v })
    ∧ ∀ (s : State) (id : BlkId) (b : Block) (f : FmtSRu), Acts s id b → Unmarked b.core f.side [f.rs1] →
      let x := regGet b.core f.side f.rs1
      let gives (i : Instr) (n : Nat) : Prop :=
        Completes i s id { b with core := regSet b.core f.side f.rd (BitVec.ofNat 64 n) }
      (∃ n, gives (.clz f) n ∧ (x = 0 → n = 64)
        ∧ (x ≠ 0 → n < 64 ∧ x.getLsbD (63 - n) = true ∧ ∀ k, 63 - n < k → x.getLsbD k = false))
      ∧ (∃ n, gives (.ctz f) n ∧ (x = 0 → n = 64)
        ∧ (x ≠ 0 → n < 64 ∧ x.getLsbD n = true ∧ ∀ k, k < n → x.getLsbD k = false))
      ∧ gives (.popc f) ((List.range 64).countP fun k => x.getLsbD k))
  ∧ ((∀ (s : State) (id : BlkId) (b : Block) (f : FmtSI), Acts s id b → Unmarked b.core f.side [f.rs1] →
      let x := regGet b.core f.side f.rs1
      let k := f.imm.signExtend 64
      let gives (i : Instr) (v : Word64) : Prop := Completes i s id { b with core := regSet b.core f.side f.rd v }
      gives (.addi f) (x + k) ∧ gives (.andi f) (x &&& k) ∧ gives (.ori f) (x ||| k) ∧ gives (.xori f) (x ^^^ k)
        ∧ gives (.slti f) (if x.toInt < k.toInt then 1 else 0))
    ∧ (∀ (s : State) (id : BlkId) (b : Block) (f : FmtShift), Acts s id b → Unmarked b.core f.side [f.rs1] →
      let x := regGet b.core f.side f.rs1
      let gives (i : Instr) (v : Word64) : Prop := Completes i s id { b with core := regSet b.core f.side f.rd v }
      gives (.shli f) (x <<< f.n) ∧ gives (.shri f) (x >>> f.n) ∧ gives (.srai f) (x.sshiftRight' f.n))
    ∧ ∀ (s : State) (id : BlkId) (b : Block) (f : FmtLih), Acts s id b → Unmarked b.core f.side [f.rd] →
      ∃ v : Word64, Completes (.lih f) s id { b with core := regSet b.core f.side f.rd v }
        ∧ ∀ k, k < 64 → v.getLsbD k = if k / 16 = f.q.toNat then f.imm.getLsbD (k % 16)
            else (regGet b.core f.side f.rd).getLsbD k)

/-- ORI and XORI, whole (R401, R471): the encoding of each with the words that its rule works out, what it writes, and that
it sets no flag; for XORI also its place in lane functions and the consumption of a marked source. -/
def Obligations.OriAndXori : Prop :=
  (∀ f : FmtSI, encode (.ori f) = some ((0x0B#6 ++ (BitVec.ofBool f.side ++ (f.rd ++ (f.rs1 ++ f.imm)))) : BitVec 32)
    ∧ encode (.xori f) = some ((0x0C#6 ++ (BitVec.ofBool f.side ++ (f.rd ++ (f.rs1 ++ f.imm)))) : BitVec 32))
  ∧ decode 0x2CA50030 = .ok (.ori ⟨false, 10, 10, 0x30⟩)
  ∧ decode 0x3031FFFF = .ok (.xori ⟨false, 3, 3, -1⟩) ∧ decode 0x32530055 = .ok (.xori ⟨true, 5, 6, 0x55⟩)
  ∧ (∀ (fm : Word64) (f : FmtSI), (laneOp fm (.xori f)).isSome = !f.side)
  ∧ ∀ (s : State) (id : BlkId) (b : Block) (f : FmtSI), Acts s id b →
    (regMark b.core f.side f.rs1 = none →
      let c (v : Word64) : Machine.Core := regSet b.core f.side f.rd v
      let o := c (regGet b.core f.side f.rs1 ||| f.imm.signExtend 64)
      let x := c (regGet b.core f.side f.rs1 ^^^ f.imm.signExtend 64)
      Completes (.ori f) s id { b with core := o } ∧ o.fstat = b.core.fstat
        ∧ Completes (.xori f) s id { b with core := x } ∧ x.fstat = b.core.fstat)
    ∧ ∀ m, regMark b.core f.side f.rs1 = some m →
      exec (.xori f) s = consumeMark s id b m f.side 0

/-- What the scalar integer instructions leave alone, whatever rd is: memory, poison and the device; every other block; and
of their own block all but rd of their side (register 0 discards it) and what ends any instruction: control goes on, and
nothing waits. So every flag and control register, the binding registers, records, block numbers, user-interrupt state,
pending watermark and checkpoint stay. -/
def Obligations.ScalarFrame : Prop :=
  ∀ (s t : State) (id : BlkId) (b : Block), Acts s id b →
    let keeps (i : Instr) (side : Bool) (rd : RegNo) (srcs : List RegNo) : Prop :=
      Unmarked b.core side srcs → exec i s = .next t →
        SameOutside s t ∧ SameOthers s t id ∧ ∃ v : Word64,
          let c := regSet b.core side rd v
          getBlock t id = some { b.done (b.pc + 4) with core := c }
          ∧ SameSpecial b { b.done (b.pc + 4) with core := c }
          ∧ (∀ fl r, (fl ≠ side ∨ r ≠ rd) → regGet c fl r = regGet b.core fl r ∧ regMark c fl r = regMark b.core fl r)
          ∧ regGet c side 0 = 0
          ∧ c = { b.core with a := c.a, s := c.s, am := c.am, sm := c.sm }
    (∀ f : FmtSR, ∀ i ∈ ([.add f, .sub f, .mul f, .mulh f, .mulhn f, .div f, .divn f, .rem f, .remn f, .and f, .or f,
        .xor f, .shl f, .shr f, .sra f, .slt f, .sltn f, .min f, .max f, .minn f, .maxn f] : List Instr),
      keeps i f.side f.rd [f.rs1, f.rs2])
    ∧ (∀ f : FmtSRu, ∀ i ∈ ([.clz f, .ctz f, .popc f] : List Instr), keeps i f.side f.rd [f.rs1])
    ∧ (∀ f : FmtSR, keeps (.sel f) f.side f.rd [f.rd, f.rs1, f.rs2])
    ∧ (∀ f : FmtSI, ∀ i ∈ ([.addi f, .andi f, .ori f, .xori f, .slti f] : List Instr), keeps i f.side f.rd [f.rs1])
    ∧ (∀ f : FmtShift, ∀ i ∈ ([.shli f, .shri f, .srai f] : List Instr), keeps i f.side f.rd [f.rs1])
    ∧ ∀ f : FmtLih, keeps (.lih f) f.side f.rd [f.rd]

/-- A marked scalar operand (R260 to R263): every scalar integer instruction consumes the marks of its sources, and the
reported one is the first among them in the order that the model gives them, which is its choice (log 97): the old rd where the
instruction reads it, as SEL and LIH do, then rs1, then rs2. While the strip is rewindable, the source has not
been consumed in it before and fewer than four rewinds were taken, the checkpoint is restored with undrained stores
discarded and every mark remembered as consumed; else POISON or UNCORRECTABLE is raised with TCOORD zero. rd is not written in
either case. -/
def Obligations.MarkedScalarOperand : Prop :=
  ∀ (s : State) (id : BlkId) (b : Block) (m : Mark), Acts s id b →
    let consumes (i : Instr) (side : Bool) (srcs : List RegNo) : Prop :=
      srcs.findSome? (fun r => regMark b.core side r) = some m → ∃ t, exec i s = .next t
        ∧ (b.canRewind = true → b.consumed.any (sameSource m) = false → b.rewinds < 4 →
            ∃ b', getBlock t id = some b' ∧ b'.core = b.ckpt ∧ b'.pc = b.ckptPc ∧ b'.sbuf = [] ∧ b'.rewinds = b.rewinds + 1
              ∧ b'.consumed = b.consumed ++ srcs.filterMap fun r => regMark b.core side r)
        ∧ ((b.canRewind = false ∨ b.consumed.any (sameSource m) = true ∨ 4 ≤ b.rewinds) →
            t = takeTrap s id b (match m with
              | .line _ va => ⟨.poison, side, false, 0, BitVec.ofNat 64 va⟩
              | .chip _ _ => ⟨.uncorrectable, side, false, 0, 0⟩))
    (∀ f : FmtSR, ∀ i ∈ ([.add f, .sub f, .mul f, .mulh f, .mulhn f, .div f, .divn f, .rem f, .remn f, .and f, .or f, .xor f,
        .shl f, .shr f, .sra f, .slt f, .sltn f, .min f, .max f, .minn f, .maxn f] : List Instr),
      consumes i f.side [f.rs1, f.rs2])
    ∧ (∀ f : FmtSRu, ∀ i ∈ ([.clz f, .ctz f, .popc f] : List Instr), consumes i f.side [f.rs1])
    ∧ (∀ f : FmtSR, consumes (.sel f) f.side [f.rd, f.rs1, f.rs2])
    ∧ (∀ f : FmtSI, ∀ i ∈ ([.addi f, .andi f, .ori f, .xori f, .slti f] : List Instr), consumes i f.side [f.rs1])
    ∧ (∀ f : FmtShift, ∀ i ∈ ([.shli f, .shri f, .srai f] : List Instr), consumes i f.side [f.rs1])
    ∧ ∀ f : FmtLih, consumes (.lih f) f.side [f.rd]

/-! ### Control flow -/

/-- The branches and jumps (R357, R383): the comparison of the operands picks the target, 4 times the sign-extended
offset from the instruction modulo 2^64, or the next instruction; JAL and JALR write the link to rd after the target was
read; a misaligned JALR target raises MISALIGN with TADDR and leaves rd. The half that resolves one passes its outcome
through its outgoing scalar queue, so the queue must have a free place (R47); with 16 entries in it both halves wait for
each other, which is the condition of R50 (the model's reading of R47, log 16). -/
def Obligations.BranchesAndJumps : Prop :=
  ∀ (s : State) (id : BlkId) (b : Block), Acts s id b →
    let rel {w : Nat} (off : BitVec w) : Nat := (((b.pc : Int) + 4 * off.toInt) % 2 ^ 64).toNat
    let link : Word64 := BitVec.ofNat 64 (b.pc + 4)
    let stuckAt (i : Instr) : Prop := exec i s = .next (setBlock s id { b with waiting := true, stuck := true })
    (∀ f : FmtB, Unmarked b.core f.side [f.rs1, f.rs2] →
      let x := regGet b.core f.side f.rs1
      let y := regGet b.core f.side f.rs2
      let goes (i : Instr) (c : Bool) : Prop :=
        ((outQueue b.core f.side).entries.length < 16 →
          CompletesAt i s id b (if c then rel f.off else b.pc + 4))
        ∧ (16 ≤ (outQueue b.core f.side).entries.length → stuckAt i)
      goes (.beq f) (decide (x = y)) ∧ goes (.bne f) (decide (x ≠ y))
      ∧ goes (.blt f) (decide (x.toInt < y.toInt)) ∧ goes (.bge f) (decide (y.toInt ≤ x.toInt))
      ∧ goes (.bltn f) (decide (x.toNat < y.toNat)) ∧ goes (.bgen f) (decide (y.toNat ≤ x.toNat)))
    ∧ (∀ off, CompletesAt (.jmp off) s id b (rel off))
    ∧ (∀ side rd off, CompletesAt (.jal side rd off) s id { b with core := regSet b.core side rd link } (rel off))
    ∧ ∀ f : FmtSI, Unmarked b.core f.side [f.rs1] →
        let t := regGet b.core f.side f.rs1 + f.imm.signExtend 64
        (t.toNat % 4 ≠ 0 → Traps (.jalr f) s id b ⟨.misalign, f.side, false, 0, t⟩)
        ∧ (t.toNat % 4 = 0 → (outQueue b.core f.side).entries.length < 16 →
            CompletesAt (.jalr f) s id { b with core := regSet b.core f.side f.rd link } t.toNat)
        ∧ (t.toNat % 4 = 0 → 16 ≤ (outQueue b.core f.side).entries.length → stuckAt (.jalr f))

/-- NOP and YIELD change nothing but the pc (R399, R472). WFE clears a set event flag and ends; without one both halves
hold (R467; that it then holds, where R467 lets it end, is the model's choice, log 13). UIEN writes the enable, and a
change makes the strip non-rewindable (R465). UIRET (R466) exchanges a1 to a7 and s1 to s7 with the shadow set in a
handler with their marks, clears ACTIVE, returns to the interrupted instruction, and leaves everything else; outside a handler it raises
ILLEGAL_INSTR. BRK, SYSC, TLBINV.s2 and ERET raise their causes with TCOORD and TADDR zero, TRAP raises BREAK when its
register is not zero and otherwise has no effect (R358, R369, R421, R447, R452); a TRAP that finds its half's outgoing
queue full waits as a branch does (R47, log 16). HALF at an instruction of both halves is
a free value (log 20). -/
def Obligations.SystemInstructions : Prop :=
  (∀ (s : State) (id : BlkId) (b : Block), Acts s id b →
     Completes .nop s id b ∧ Completes .yield s id b
     ∧ (b.eventFlag = true → Completes .wfe s id { b with eventFlag := false })
     ∧ (b.eventFlag = false → exec .wfe s = .next (setBlock s id { b with waiting := true, holding := true }))
     ∧ ∀ k, Completes (.uien k) s id
         (if b.uien = k then b else { b with uien := k, rewindable := false }))
  ∧ (∀ (s : State) (id : BlkId) (b : Block), Acts s id b →
      (b.uistat.getLsbD 2 = false → Traps .uiret s id b ⟨.illegalInstr, Config.jointHalf b.pc, false, 0, 0⟩)
      ∧ (b.uistat.getLsbD 2 = true → ∃ b', CompletesAt .uiret s id b' b.uiret
          ∧ (∀ r : RegNo, 1 ≤ r.toNat → r.toNat ≤ 7 →
              regGet b'.core true r = vget 0 b.shadowA (r.toNat - 1) ∧ regGet b'.core false r = vget 0 b.shadowS (r.toNat - 1)
              ∧ regMark b'.core true r = vget none b.shadowAm (r.toNat - 1)
              ∧ regMark b'.core false r = vget none b.shadowSm (r.toNat - 1)
              ∧ vget 0 b'.shadowA (r.toNat - 1) = regGet b.core true r
              ∧ vget 0 b'.shadowS (r.toNat - 1) = regGet b.core false r
              ∧ vget none b'.shadowAm (r.toNat - 1) = regMark b.core true r
              ∧ vget none b'.shadowSm (r.toNat - 1) = regMark b.core false r)
          ∧ (∀ (fl : Bool) (r : RegNo), 7 < r.toNat → regGet b'.core fl r = regGet b.core fl r
              ∧ regMark b'.core fl r = regMark b.core fl r)
          ∧ b'.uistat.getLsbD 2 = false ∧ (∀ k, k ≠ 2 → b'.uistat.getLsbD k = b.uistat.getLsbD k)
          ∧ b' = { b with
              core := { b.core with a := b'.core.a, s := b'.core.s, am := b'.core.am, sm := b'.core.sm },
              shadowA := b'.shadowA, shadowS := b'.shadowS, shadowAm := b'.shadowAm, shadowSm := b'.shadowSm,
              uistat := b'.uistat }))
  ∧ (∀ (s : State) (id : BlkId) (b : Block), Acts s id b →
      let joint (c : Cause) : TrapInfo := ⟨c, Config.jointHalf b.pc, false, 0, 0⟩
      Traps .brk s id b (joint .brk) ∧ Traps .sysc s id b (joint .syscall)
      ∧ Traps .tlbinvS2 s id b (joint .priv) ∧ Traps .eret s id b (joint .priv)
      ∧ ∀ f : SideRs, Unmarked b.core f.side [f.rs] →
          ((outQueue b.core f.side).entries.length < 16 → (regGet b.core f.side f.rs = 0 → Completes (.trap f) s id b)
            ∧ (regGet b.core f.side f.rs ≠ 0 → Traps (.trap f) s id b ⟨.brk, f.side, false, 0, 0⟩))
          ∧ (16 ≤ (outQueue b.core f.side).entries.length →
              exec (.trap f) s = .next (setBlock s id { b with waiting := true, stuck := true })))

/-- QPUT and QGET (R45, R406): QPUT appends the register with its mark to the half's outgoing queue of 16 entries, QGET
takes the head of the incoming one into the register with its mark; a full or an empty queue makes the instruction wait.
A queue owes nothing (`debt`) and `room` is false wherever the other half has not run ahead (log 16). -/
def Obligations.ScalarQueues : Prop :=
  ∀ (s : State) (id : BlkId) (b : Block), ActsFree s id b →
    (∀ f : SideRs,
      let q := if f.side then b.core.aq else b.core.eq
      let q' : SQueue := { q with entries := q.entries ++ [⟨regGet b.core f.side f.rs, regMark b.core f.side f.rs⟩] }
      (q.debt = 0 → q.entries.length < 16 → Completes (.qput f) s id
        { b with core := if f.side then { b.core with aq := q' } else { b.core with eq := q' } })
      ∧ (q.debt = 0 → 16 ≤ q.entries.length → b.room = false → Waits (.qput f) s id b))
    ∧ ∀ f : SideRd,
      let q := if f.side then b.core.eq else b.core.aq
      (q.entries = [] → Waits (.qget f) s id b)
      ∧ ∀ e t, q.entries = e :: t →
          let q' : SQueue := { q with entries := t }
          let c := if f.side then { b.core with eq := q' } else { b.core with aq := q' }
          Completes (.qget f) s id { b with core := regSetMarked c f.side f.rd e.val e.mark }

/-- CTLR reads every control register of R82. CTLW writes the registers that R82 makes writable field by field (R4, R83,
R84, R125, R220, R364): RW bits take the value, W1C bits clear where it holds 1, every other bit stays; a write of UIVEC,
UISTAT or ADTBASE makes the strip non-rewindable. A number that R82 does not assign raises ILLEGAL_INSTR, for CTLW also
one that is read only throughout. -/
def Obligations.ControlRegisters : Prop :=
  (∀ (s : State) (id : BlkId) (b : Block), Acts s id b → ∀ (side : Bool) (rd : RegNo),
     let reads (n : BitVec 12) (v : Word64) : Prop :=
       Completes (.ctlr side rd n) s id { b with core := regSet b.core side rd v }
     reads 0x000 b.core.fmode ∧ reads 0x001 b.core.fstat ∧ reads 0x002 b.grantc ∧ reads 0x003 b.core.sidx
     ∧ reads 0x008 b.tcause ∧ reads 0x009 b.tcoord ∧ reads 0x00A b.taddr ∧ reads 0x00B b.fltpc ∧ reads 0x00C b.progix
     ∧ reads 0x010 b.stripId ∧ reads 0x011 b.wmark
     ∧ reads 0x018 (BitVec.ofNat 64 b.blkid) ∧ reads 0x019 (BitVec.ofNat 64 b.clrank)
     ∧ (∀ k : Fin 4, reads (BitVec.ofNat 12 (0x01A + k)) (BitVec.ofNat 64 (b.loopix[k] % 2 ^ 32)))
     ∧ reads 0x020 b.uivec ∧ reads 0x021 b.uistat ∧ reads 0x028 (engstat b) ∧ reads 0x029 b.adtBase
     ∧ (∀ k : Fin 8, reads (BitVec.ofNat 12 (0x030 + k)) (recWord b.core.recs[k]))
     ∧ (∃ v, reads 0x038 v ∧ ∀ k : Fin 16, v.extractLsb' (3 * k) 3 = b.core.bindT[k.val])
     ∧ (∃ v, reads 0x039 v ∧ (∀ k : Fin 12, v.extractLsb' (3 * k) 3 = b.core.bindT[k.val + 16])
         ∧ ∀ q : Fin 4, v.extractLsb' (3 * q + 36) 3 = b.core.bindL[q] ∧ v.extractLsb' (3 * q + 48) 3 = b.core.bindS[q])
     ∧ (∃ v, reads 0x03A v ∧ ∀ k : Fin 28, v.getLsbD k = b.core.tiles[k].live)
     ∧ (∃ v, reads 0x03B v ∧ ∀ k : Fin 28, v.getLsbD k = b.core.tiles[k].dirty)
     ∧ ∀ n : BitVec 12, n ∉ ([0x000, 0x001, 0x002, 0x003, 0x008, 0x009, 0x00A, 0x00B, 0x00C, 0x010, 0x011, 0x018, 0x019,
         0x01A, 0x01B, 0x01C, 0x01D, 0x020, 0x021, 0x028, 0x029, 0x030, 0x031, 0x032, 0x033, 0x034, 0x035, 0x036, 0x037,
         0x038, 0x039, 0x03A, 0x03B] : List (BitVec 12)) →
         Traps (.ctlr side rd n) s id b ⟨.illegalInstr, side, false, 0, 0⟩)
  ∧ (∀ (s : State) (id : BlkId) (b : Block), Acts s id b → ∀ (side : Bool) (rs : RegNo),
      let v := regGet b.core side rs
      let rw (old : Word64) (m : Nat → Bool) (new : Word64) : Prop :=
        ∀ k, k < 64 → new.getLsbD k = if m k then v.getLsbD k else old.getLsbD k
      let w1c (old : Word64) (m : Nat → Bool) (new : Word64) : Prop :=
        ∀ k, k < 64 → new.getLsbD k = (old.getLsbD k && !(m k && v.getLsbD k))
      (Unmarked b.core side [rs] →
        (∃ x, Completes (.ctlw side rs 0x000) s id { b with core := { b.core with fmode := x } }
          ∧ rw b.core.fmode (fun k => decide (1 ≤ k ∧ k ≤ 6) || decide (8 ≤ k ∧ k ≤ 14) || decide (32 ≤ k)) x)
        ∧ (∃ x, Completes (.ctlw side rs 0x001) s id { b with core := { b.core with fstat := x } }
          ∧ w1c b.core.fstat (fun k => decide (k ≤ 6)) x)
        ∧ Completes (.ctlw side rs 0x003) s id { b with core := { b.core with sidx := v } }
        ∧ (∃ x, Completes (.ctlw side rs 0x020) s id { b with uivec := x, rewindable := false }
          ∧ rw b.uivec (fun k => decide (2 ≤ k ∧ k ≤ 54)) x)
        ∧ (∃ x, Completes (.ctlw side rs 0x021) s id { b with uistat := x, rewindable := false }
          ∧ w1c b.uistat (fun k => decide (k ≤ 1)) x)
        ∧ (∃ x, Completes (.ctlw side rs 0x029) s id { b with adtBase := x, rewindable := false }
          ∧ rw b.adtBase (fun k => decide (5 ≤ k ∧ k ≤ 54) || decide (59 ≤ k)) x))
      ∧ ∀ n : BitVec 12, n ∉ ([0x000, 0x001, 0x003, 0x020, 0x021, 0x029] : List (BitVec 12)) →
          Traps (.ctlw side rs n) s id b ⟨.illegalInstr, side, false, 0, 0⟩)


/-! ### The machine as a whole -/

/-- Decoding gives back what encoding put in: for every instruction with a word, the decoder reads that word as the
instruction, with every operand at every value its field holds (R286 to R305). -/
def Obligations.DecodeAfterEncode : Prop := ∀ (i : Instr) (w : Word32), encode i = some w → decode w = .ok i

/-- Encoding gives back what decoding accepted: a word that decodes has every bit that its instruction's encoding fixes,
so no reserved or fixed bit is dropped and no two words are one instruction (R289). -/
def Obligations.EncodeAfterDecode : Prop := ∀ (w : Word32) (i : Instr), decode w = .ok i → encode i = some w

/-- The encoding of the barriers, whole (R352): each field of the three, the words of the rule, and ILLEGAL_INSTR for op 0b11.
Words that other rules work out decode to the instructions they give them for (R342, R356, R390, R406, R413, R452, R447,
R343). -/
def Obligations.WorkedWordsDecode : Prop :=
  (∀ k : BitVec 3,
    let word (op : BitVec 2) : BitVec 32 := 0x1D#6 ++ (0#16 ++ (op ++ (0#5 ++ k)))
    encode (.bar k) = some (word 0) ∧ encode (.arrive k) = some (word 1) ∧ encode (.await k) = some (word 2)
      ∧ decode (word 0) = .ok (.bar k) ∧ decode (word 1) = .ok (.arrive k) ∧ decode (word 2) = .ok (.await k)
      ∧ ∃ e, decode (word 3) = .error e ∧ decodeCause e = .illegalInstr)
  ∧ decode 0x74000002 = .ok (.bar 2) ∧ decode 0x74000105 = .ok (.arrive 5) ∧ decode 0x74000205 = .ok (.await 5)
  ∧ decode 0x23082800 = .ok (.add ⟨true, 16, 16, 10⟩) ∧ decode 0x20321405 = .ok (.div ⟨false, 3, 4, 5⟩)
  ∧ decode 0x22238015 = .ok (.clz ⟨true, 2, 7⟩) ∧ decode 0x0C325004 = .ok (.bgen ⟨false, 3, 4, 4⟩)
  ∧ decode 0x0FCEAFF7 = .ok (.blt ⟨true, 28, 29, -9⟩) ∧ decode 0x3CA05000 = .ok (.lih ⟨false, 10, 0, 0x5000⟩)
  ∧ decode 0x3EB80020 = .ok (.lih ⟨true, 11, 2, 0x20⟩) ∧ decode 0x1C058000 = .ok (.qput ⟨false, 11⟩)
  ∧ decode 0x1EB00001 = .ok (.qget ⟨true, 11⟩) ∧ decode 0x36A40002 = .ok (.shli ⟨true, 10, 8, 2⟩)
  ∧ decode 0x38327FFF = .ok (.slti ⟨false, 3, 4, -1⟩) ∧ decode 0x06018009 = .ok (.tlbinv 3 0)
  ∧ decode 0x06019009 = .ok (.tlbinv 3 4) ∧ decode 0x04038005 = .ok (.trap ⟨false, 7⟩)
  ∧ decode 0x2A31FFC0 = .ok (.andi ⟨true, 3, 3, -64⟩)

/-- A block's turn runs the instruction at its pc (R42, R286): where the word there is fetched, begins no convoy and
decodes, and the block goes on (it is resident, or stopped and still completing what it has begun, R252) in a polder that is
up, has no deadlock pending, no pin to set again (which a turn does first, R131) and takes no interrupt there, the step is that instruction's meaning on
the state in which the block acts. Before it the entries of the block's recheck queue retire, where there are any and the instruction is one
through which results leave the execute half (`beforeRun`, R258); after it a completed instruction of the checked kind
takes an entry (`noteRun`, R257), and a block that waits at the instruction is looked at again (`afterExec`, log 16). A block
that has been stopped and has now completed leaves its slot, and writes of the owner map that waited for that take effect
(`settleBlock`, R252, R265); nothing else is done with a resident block. A word
that does not decode traps with the cause of its error (R289). The word is the little-endian word of the four bytes at the
PA that translation with X gives the pc. Majors 0x00 and 0x30 to 0x3F are no instructions (R292): a turn that fetches such a
word outside a convoy raises ILLEGAL_INSTR, whatever the other bits are. -/
def Obligations.StepRunsDecodedInstruction : Prop :=
  (∀ (s : State) (id : BlkId) (b : Block) (rest : List Turn) (w : Word32),
     s.sched = .block id :: rest → getBlock s id = some b → b.goesOn = true → polderDown s id.p = false →
     (getPolder s id.p).stalled = false → b.repins = [] → b.stuck = false → interruptReady b = false →
     let s0 : State := { s with sched := rest, cur := some id }
     Acts s0 id b
     ∧ (fetchAt s0 id b b.pc = .word w → convoyHere s0 id b w = false →
         (∀ i, decode w = .ok i → step s = settleBlock id (match exec i (beforeRun s0 id b w) with
           | .next t => .next (afterExec id b.pc w i (noteRun s0 id b w i t))
           | .fault x => .fault x
           | .refused x => .refused x))
         ∧ (∀ e, decode w = .error e →
             step s = settleBlock id (.next (takeTrap s0 id b ⟨decodeCause e, halfBit b w, false, 0, 0⟩))))
     ∧ (fetchAt s0 id b b.pc = .word w → convoyHere s0 id b w = true → step s = settleBlock id (issueConvoy s0 id b w))
     ∧ (∀ t b', getBlock t id = some b' → b'.status = .resident → (getPolder t id.p).ownerWrites = [] →
         settleBlock id (.next t) = .next t)
     ∧ (b.recheck = [] → beforeRun s0 id b w = s0)
     ∧ (∀ i t, rechecked (Fields.ofWord w) = false → noteRun s0 id b w i t = t)
     ∧ (∀ i t b', getBlock t id = some b' → b'.waiting = false → afterExec id b.pc w i t = t)
     ∧ ∀ x a, probe s0 (blockAcc s0 id b) needX b.pc = .ok x → physTarget s0 x.pa = .hbm a →
         polderDown s0 (a / polderBytes) = false →
         fetchAt s0 id b b.pc = .word (wordOfBytes (memByte s.hbm a) (memByte s.hbm (a + 1)) (memByte s.hbm (a + 2))
           (memByte s.hbm (a + 3))))
  ∧ (∀ (s : State) (id : BlkId) (b : Block) (rest : List Turn), s.sched = .block id :: rest → getBlock s id = some b →
      b.goesOn = true → polderDown s id.p = false → (getPolder s id.p).stalled = false → b.repins ≠ [] →
      step s = settleBlock id (repinNext { s with sched := rest, cur := some id } id b))
  ∧ (∀ (w : Word32), ((w >>> 26).toNat = 0 ∨ 0x30 ≤ (w >>> 26).toNat) →
      decode w = .error .unassignedMajor ∧ decodeCause .unassignedMajor = .illegalInstr
      ∧ ∀ (s : State) (id : BlkId) (b : Block), Acts s id b → runWord s id b w =
          .next (takeTrap s id b ⟨.illegalInstr, halfBit b w, false, 0, 0⟩))

/-- Right after reset (R13, R226, R240, R248, R265, R266, R314, R285): every polder is off and disabled, no queue or graph
slot is configured, no task, cluster or block exists, no sluice is open, no port or link is up, and nothing is poisoned;
QCTL and QSLICE hold their own reset values. That unlisted memory reads as zero is the model's choice (log 2). -/
def Obligations.ResetState : Prop :=
  (∀ p, p < 16 → let x := getPolder State.reset p
    x.st = .off ∧ x.pctl = 0 ∧ x.s2root = 0 ∧ x.ctxpool = 0 ∧ x.lmi = 0 ∧ x.coderes = 0 ∧ x.pgen = 0 ∧ x.slOpen = 0
    ∧ x.slDown = 0 ∧ x.tasks = [] ∧ x.clusters = [] ∧ x.blocks = [] ∧ x.cards = [] ∧ x.tlb = [] ∧ x.rchkcnt = 0
    ∧ x.fq.fqring = 0 ∧ x.fq.fqctl = 0
    ∧ (∀ q, q < 64 → let h := vget HostQueue.init x.queues q
        h.qring = 0 ∧ h.qtail = 0 ∧ h.qhead = 0 ∧ h.qcq = 0 ∧ h.qctl = 0x0000010000000000 ∧ h.qroot = 0
        ∧ h.qslice = 4000000))
  ∧ State.reset.dev.domnum = 0 ∧ State.reset.dev.hoctl = 0 ∧ State.reset.dev.dlrth = 64 ∧ State.reset.dev.linkUp = false
  ∧ State.reset.poison = [] ∧ (∀ a, memByte State.reset.hbm a = 0) ∧ State.reset.safe

/-- The byte memories (log 2): every operation keeps the canonical form, a byte reads as what was last written there, and a
number written reads back modulo its bytes. A memory write at its home (R141, R147): the bytes written read back, every
other byte of the HBM stays, and a marked write poisons exactly the lines it reaches beside those already poisoned. -/
def Obligations.MemoryLaws : Prop :=
  (∀ (m : Memory), Memory.wf m = true → ∀ (a : Nat),
     (∀ bs, Memory.wf (memSetBytes m a bs) = true
       ∧ (∀ x, x < a ∨ a + bs.length ≤ x → memByte (memSetBytes m a bs) x = memByte m x)
       ∧ memBytes (memSetBytes m a bs) a bs.length = bs)
     ∧ (∀ n v, memNat (memSetNat m a n v) a n = v % 2 ^ (8 * n))
     ∧ (∀ hi, Memory.wf (memClear m a hi) = true)
     ∧ ∀ m', Memory.wf m' = true → (∀ x, memByte m x = memByte m' x) → m = m')
  ∧ (∀ (s : State) (a : Nat) (bs : List Byte) (marked : Bool), Memory.wf s.hbm = true →
      let t := hbmWrite s a bs marked
      memBytes t.hbm a bs.length = bs ∧ Memory.wf t.hbm = true
      ∧ (∀ x, x < a ∨ a + bs.length ≤ x → memByte t.hbm x = memByte s.hbm x)
      ∧ t.bus = s.bus ∧ t.polders = s.polders ∧ t.dev = s.dev
      ∧ (marked = true → bs ≠ [] → ∀ l, a / 128 ≤ l → l ≤ (a + bs.length - 1) / 128 → linePoisoned t l = true)
      ∧ (∀ l, l < a / 128 ∨ (a + bs.length - 1) / 128 < l → linePoisoned t l = linePoisoned s l))

/-- Taking a trap (R246 to R249), for the causes that allow a continuation: the trap registers are written and FLTPC holds
the pc; the block is suspended with its registers, checkpoint, uncommitted stores and pc; its whole cluster is saved,
no longer resident, and marked suspended, its other resident members pre-empted; and one record with the trap registers
joins the polder's fault queue. What the block has asked of other devices it waits for no more, and of the device nothing else
changes than who awaits an answer. Of the marks only those of lines in the cluster's contexts change, which saving writes
(R147, R255). That of memory only the headers of these contexts change, where R255 saves a whole image, is the model's choice
(log 17). -/
def Obligations.TrapEntry : Prop :=
  ∀ (s : State) (id : BlkId) (b : Block) (t : TrapInfo) (progix : Nat) (r : Resume), getBlock s id = some b →
    r ≠ .none → Memory.wf s.hbm = true →
    let s' := takeTrapAs s id b t progix r
    let members : List Nat := match clusterOf s id.p b.cid with
      | some c => id.ctx :: c.ctxs
      | none => [id.ctx]
    (∃ b', getBlock s' id = some b' ∧ b'.tcause = tcauseOf t ∧ b'.tcoord = t.coord ∧ b'.taddr = t.addr
      ∧ b'.fltpc = BitVec.ofNat 64 b.pc ∧ b'.progix = BitVec.ofNat 64 progix ∧ b'.status = .suspended ∧ b'.resume = r
      ∧ b'.pc = b.pc ∧ b'.rewindable = b.rewindable ∧ b'.sbuf = b.sbuf ∧ b'.shared = b.shared
      ∧ b'.ckpt = { b.ckpt with tiles := b'.ckpt.tiles }
      ∧ (∀ k : Fin 28, (b'.ckpt.tiles[k]).elems = (b.ckpt.tiles[k]).elems ∧ (b'.ckpt.tiles[k]).live = (b.ckpt.tiles[k]).live)
      ∧ b'.uistat = b.uistat ∧ b'.stripId = b.stripId ∧ b'.wmark = b.wmark
      ∧ (∀ fl g, regGet b'.core fl g = regGet b.core fl g) ∧ b'.core.preds = b.core.preds ∧ b'.core.recs = b.core.recs
      ∧ b'.core.fstat = b.core.fstat ∧ b'.core.fmode = b.core.fmode ∧ b'.core.copies = b.core.copies)
    ∧ (∀ c, clusterOf s id.p b.cid = some c →
        (∃ c', clusterOf s' id.p b.cid = some c' ∧ c'.resident = false ∧ c'.suspended = true)
        ∧ ∀ x ∈ c.ctxs, x ≠ id.ctx → ∀ d, getBlock s ⟨id.p, x⟩ = some d → d.status = .resident →
            ∃ d', getBlock s' ⟨id.p, x⟩ = some d' ∧ d'.status = .preempted ∧ d'.place = if d.begun then d.place else none)
    ∧ (∃ rec, (getPolder s' id.p).fq.waiting = (getPolder s id.p).fq.waiting ++ [rec]
        ∧ rec.length = 8 ∧ rec[2]? = some (tcauseOf t) ∧ rec[3]? = some t.coord ∧ rec[4]? = some t.addr
        ∧ rec[5]? = some (BitVec.ofNat 64 b.pc)
        ∧ (∀ w, rec[1]? = some w → fld w 55 53 = resumeCode r ∧ w.getLsbD 52 = b.canRewind))
    ∧ s'.bus = s.bus
    ∧ (∃ f : OutReq → Requester,
        s'.dev = { s.dev with outstanding := s.dev.outstanding.map fun o => { o with who := f o } }
        ∧ (∀ o, o.who.isOf id = true → f o = .gone o.p)
        ∧ ∀ o, (∀ x ∈ members, o.who.isOf ⟨id.p, x⟩ = false) → f o = o.who)
    ∧ (∀ l, (∀ x ∈ members, 128 * (l + 1) ≤ ctxAddr s ⟨id.p, x⟩ ∨ ctxAddr s ⟨id.p, x⟩ + 0x500000 ≤ 128 * l) →
        mapGet s'.poison l = mapGet s.poison l)
    ∧ ∀ a, (∀ x ∈ members, a < ctxAddr s ⟨id.p, x⟩ ∨ ctxAddr s ⟨id.p, x⟩ + 32 ≤ a) → memByte s'.hbm a = memByte s.hbm a

/-- Every step keeps every byte memory of the machine in its canonical form: device HBM, PCIe space, each polder's scheduler
memory and firmware cores' memories, and each block's shared store (log 2, log 80). So equal memories are equal data, whatever runs. -/
def Obligations.StepKeepsMemoriesCanonical : Prop := ∀ s t : State, s.safe → step s = .next t → t.safe

/-! ### Scalar floating point -/

/-- The scalar floating-point family (R372 to R374): the result of R373 on the low bits of the s-registers goes to rd and
the flags are ORed into FSTAT; an enabled flag instead raises FP_ENABLED with FSTAT updated and rd kept, and TCOORD zero, as no
element is named (the model's reading, log 34). FFMA adds the old
rd. FCLASS writes a mask with exactly one bit set, below bit 10, and raises no flag, for every encoding of both formats. -/
def Obligations.ScalarFloatResults : Prop :=
  (∀ (s : State) (id : BlkId) (b : Block), Acts s id b →
     let ends (i : Instr) (rd : RegNo) (r : FRes) : Prop :=
       let c := { b.core with fstat := b.core.fstat ||| BitVec.ofNat 64 r.2 }
       (r.2 &&& fld b.core.fmode 14 8 = 0 →
         Completes i s id { b with core := regSet c false rd (BitVec.ofNat 64 r.1) })
       ∧ (r.2 &&& fld b.core.fmode 14 8 ≠ 0 → Traps i s id { b with core := c } ⟨.fpEnabled, false, false, 0, 0⟩)
     let get (r : RegNo) : Word64 := regGet b.core false r
     (∀ f : FmtFp, Unmarked b.core false [f.rs1, f.rs2] →
       let res (op : FpOp) : FRes := fpResult op f.dbl b.core.fmode (get f.rs1) (get f.rs2) 0
       ends (.fadd f) f.rd (res .add) ∧ ends (.fsub f) f.rd (res .sub) ∧ ends (.fmul f) f.rd (res .mul)
       ∧ ends (.fdiv f) f.rd (res .div) ∧ ends (.fmin f) f.rd (res .min) ∧ ends (.fmax f) f.rd (res .max)
       ∧ ∀ cc, ends (.fcmp f cc) f.rd (res (.cmp cc)))
     ∧ (∀ f : FmtFp, Unmarked b.core false [f.rs1, f.rs2, f.rd] →
       ends (.ffma f) f.rd (fpResult .fma f.dbl b.core.fmode (get f.rs1) (get f.rs2) (get f.rd)))
     ∧ (∀ f : FmtFpu, Unmarked b.core false [f.rs1] →
       ends (.fsqrt f) f.rd (fpResult .sqrt f.dbl b.core.fmode (get f.rs1) 0 0)
       ∧ ends (.fclass f) f.rd (fpResult .cls f.dbl b.core.fmode (get f.rs1) 0 0))
     ∧ ∀ rd rs cv, Unmarked b.core false [rs] → ends (.fcvt rd rs cv) rd (fcvtResult cv b.core.fmode (get rs)))
  ∧ (∀ (s t : State) (id : BlkId) (b : Block) (f : FmtFpu), Acts s id b → Unmarked b.core false [f.rs1] → f.rd ≠ 0 →
      exec (.fclass f) s = .next t → ∃ b' k, getBlock t id = some b' ∧ k < 10
        ∧ regGet b'.core false f.rd = BitVec.twoPow 64 k ∧ b'.core.fstat = b.core.fstat)

/-- Rounding (R92, R93, R94, R96), said on the encodings of f32 and f64 alone: FADD, FSUB, FMUL, FDIV and FFMA of finite
operands, and FCVT from f64 to f32 and from the integers, give the exact result rounded once by FMODE.RM, with the overflow
of R93, the tininess of R94 and the flags of each; FZ is 0 and no enabled flag arises. An exact zero sum is +0, or −0 under RDN,
but for two zeros of one sign. Values are counted in the least subnormal of their format, so that sums, products and quotients
are exact fractions of integers. -/
def Obligations.FloatRounding : Prop :=
  ∀ (s : State) (id : BlkId) (b : Block), Acts s id b → flag b.core.fmode 3 = false →
    let get (r : RegNo) : Nat := (regGet b.core false r).toNat
    let rm := fld b.core.fmode 2 1
    let gives (i : Instr) (rd : RegNo) (dbl : Bool) (n : Int) (d : Nat) (neg0 : Bool) : Prop :=
      ∃ r fl, RoundsTo dbl rm n d neg0 r fl ∧ (fl &&& fld b.core.fmode 14 8 = 0 →
        Completes i s id { b with
          core := regSet { b.core with fstat := b.core.fstat ||| BitVec.ofNat 64 fl } false rd (BitVec.ofNat 64 r) })
    let zero (x y : Bool) : Bool := if x = y then x else decide (rm = 3)
    (∀ (f : FmtFp) (x y : Int), Unmarked b.core false [f.rs1, f.rs2] →
      finiteVal f.dbl (get f.rs1) = some x → finiteVal f.dbl (get f.rs2) = some y →
      let sx := floatSign f.dbl (get f.rs1)
      let sy := floatSign f.dbl (get f.rs2)
      gives (.fadd f) f.rd f.dbl (x + y) 1 (zero sx sy) ∧ gives (.fsub f) f.rd f.dbl (x - y) 1 (zero sx !sy)
      ∧ gives (.fmul f) f.rd f.dbl (x * y) (2 ^ floatUnit f.dbl) (sx != sy)
      ∧ (y ≠ 0 → gives (.fdiv f) f.rd f.dbl (x * y.sign * 2 ^ floatUnit f.dbl) y.natAbs (sx != sy))
      ∧ ∀ z, Unmarked b.core false [f.rd] → finiteVal f.dbl (get f.rd) = some z →
          gives (.ffma f) f.rd f.dbl (x * y + z * 2 ^ floatUnit f.dbl) (2 ^ floatUnit f.dbl)
            (zero (sx != sy) (floatSign f.dbl (get f.rd))))
    ∧ ∀ rd rs : RegNo, Unmarked b.core false [rs] →
        (∀ x, finiteVal true (get rs) = some x →
          gives (.fcvt rd rs .f32f64) rd false x (2 ^ (floatUnit true - floatUnit false)) (floatSign true (get rs)))
        ∧ (let x := (regGet b.core false rs).toInt
           gives (.fcvt rd rs .f32i64) rd false (x * 2 ^ floatUnit false) 1 false
             ∧ gives (.fcvt rd rs .f64i64) rd true (x * 2 ^ floatUnit true) 1 false)
        ∧ (let x : Int := get rs
           gives (.fcvt rd rs .f32n64) rd false (x * 2 ^ floatUnit false) 1 false
             ∧ gives (.fcvt rd rs .f64n64) rd true (x * 2 ^ floatUnit true) 1 false)

/-! ### Strips and tile state -/

/-- SHAPE and SHAPEI (R74, R75, R270, R298, R409, R410): the encodings, and the effect: once the strip buffer has drained,
the grant of R74 is in force in every record and in registers d to d + 2 of both files; the watermark pending is published,
the strip counts up, it is rewindable with nothing consumed, and the checkpoint is the state right after the SHAPE, every
live tile's contents included. With nothing buffered it completes at once. A d of 0, 30 or 31 raises ILLEGAL_INSTR, whose HALF is
that of the side bit (the model's reading, log 89). A drain that fails ends in the trap of R270. The grant never exceeds the
request, is a whole pair or (0, 0), and fits each record it is for: 256 rows, the row limit of GRANTC, 65,536 elements and the
tile's bytes; no record that takes it has rows of more than 16,384 elements. -/
def Obligations.StripBoundary : Prop :=
  ((∀ f : FmtSR, encode (.shape f)
      = some ((0x11#6 ++ (BitVec.ofBool f.side ++ (f.rd ++ (f.rs1 ++ (f.rs2 ++ 0#10))))) : BitVec 32))
    ∧ ∀ f : FmtSI, encode (.shapei f) = some ((0x12#6 ++ (BitVec.ofBool f.side ++ (f.rd ++ (f.rs1 ++ f.imm)))) : BitVec 32))
  ∧
  (∀ (s : State) (id : BlkId) (b : Block), ActsFree s id b →
    let starts (i : Instr) (d : RegNo) (rq cq : Nat) (s1 : State) (b1 : Block) : Prop :=
      ∃ b' : Block, exec i s = .next (setBlock s1 id (b'.done (b1.pc + 4)))
        ∧ b'.core.gr = (stripGrant b.grantc b.core rq cq).1 ∧ b'.core.gc = (stripGrant b.grantc b.core rq cq).2
        ∧ (∀ k : Fin 8, b'.core.recs[k] = regrant b1.grantc b'.core.gr b'.core.gc (b1.core.recs[k]))
        ∧ (∀ fl, regGet b'.core fl d = BitVec.ofNat 64 b'.core.gr
            ∧ regGet b'.core fl (d + 1) = BitVec.ofNat 64 b'.core.gc
            ∧ regGet b'.core fl (d + 2) = BitVec.ofNat 64 (b'.core.gr * b'.core.gc))
        ∧ (∀ fl r, (r = d ∨ r = d + 1 ∨ r = d + 2) → regMark b'.core fl r = none)
        ∧ (∀ fl r, r ≠ d → r ≠ d + 1 → r ≠ d + 2 →
            regGet b'.core fl r = regGet b1.core fl r ∧ regMark b'.core fl r = regMark b1.core fl r)
        ∧ b' = { b1 with core := b'.core, ckpt := b'.core, ceiling := b1.grantc, ckptPc := b1.pc + 4, wmark := b1.core.wmPend,
                         stripId := b1.stripId + 1, rewindable := true, consumed := [], rewinds := 0 }
        ∧ b'.core = { b1.core with
            gr := b'.core.gr, gc := b'.core.gc, recs := b'.core.recs, a := b'.core.a, s := b'.core.s, am := b'.core.am,
            sm := b'.core.sm, shapeD := some d, arrived := b1.arrMade, copies := b'.core.copies,
            slabs := b1.core.slabs.map fun e => (e.1, { e.2 with fresh := false }),
            feeds := b1.core.feeds.map fun e => { e with armed := true } }
        ∧ b'.wmark = b1.core.wmPend ∧ b'.stripId = b1.stripId + 1 ∧ b'.rewindable = true ∧ b'.consumed = []
        ∧ b'.rewinds = 0 ∧ b'.ckpt = b'.core ∧ b'.ckptPc = b1.pc + 4 ∧ b'.core.tiles = b1.core.tiles
        ∧ b'.core.preds = b1.core.preds ∧ b'.core.fstat = b1.core.fstat ∧ b'.sbuf = b1.sbuf
        ∧ b'.core.shapeD = some d ∧ b'.canRewind = true ∧ b'.ceiling = b1.grantc
        ∧ ∀ k : Fin 28, (mapGet b'.core.copies.held k).isSome = (b'.core.tiles[k]).live
    let begins (i : Instr) (side : Bool) (d : RegNo) (rq cq : Nat) : Prop :=
      ((d.toNat = 0 ∨ 29 < d.toNat) → Traps i s id b ⟨.illegalInstr, side, false, 0, 0⟩)
      ∧ (1 ≤ d.toNat → d.toNat ≤ 29 →
          (b.sbuf = [] → starts i d rq cq s b)
          ∧ (∀ s1 b1, commit s id b = .done s1 b1 → starts i d rq cq s1 b1)
          ∧ (∀ s1 b1 va c, commit s id b = .down s1 b1 va c →
              exec i s = .next (takeTrap s1 id b1 ⟨c, true, false, 0, BitVec.ofNat 64 va⟩)))
    (∀ f : FmtSR, Unmarked b.core f.side [f.rs1, f.rs2] →
      begins (.shape f) f.side f.rd (regGet b.core f.side f.rs1).toNat (regGet b.core f.side f.rs2).toNat)
    ∧ ∀ f : FmtSI, Unmarked b.core f.side [f.rs1] →
      begins (.shapei f) f.side f.rd f.imm.toNat (regGet b.core f.side f.rs1).toNat)
  ∧ ∀ (g : Word64) (c : Machine.Core) (rq cq : Nat),
    let r := stripGrant g c rq cq
    r.1 ≤ rq ∧ r.2 ≤ cq ∧ r.1 ≤ 256 ∧ r.2 ≤ 8192 ∧ (r.1 = 0 ↔ r.2 = 0)
    ∧ (∀ h : ShapeRec, FitsRow (regrant g r.1 r.2 h))
    ∧ ∀ n ∈ boundRecs c, (recN c n).reqr = 0 → (recN c n).reqc = 0 → r.2 ≠ 0 →
        r.2 * typeWidth (recN c n).ty ≤ grantMaxRow g ∧ r.1 * r.2 ≤ 65536
        ∧ r.1 * rowBytes r.2 (typeWidth (recN c n).ty) ≤ grantTileB g

/-- HALT (R171, R251, R270, R380): once the buffer has drained, at once where it is empty, the block's last watermark is
published, its queues, feeds, slabs, pins and shared store are released, it has halted and left its slot, and its task counts
one more halted block; what it asked of other devices finds nobody. A drain that a device must answer makes it wait, and one
that fails ends in the trap of R270. Only its context's header is written (log 17). -/
def Obligations.HaltEndsTheBlock : Prop :=
  ∀ (s : State) (id : BlkId) (b : Block), ActsFree s id b →
    let halts (s1 : State) (b1 : Block) : Prop := ∃ t, exec .halt s = .next t
      ∧ (∀ k d, k ≠ id → getBlock s1 k = some d → ∃ ms, getBlock t k = some { d with msgs := ms })
      ∧ (∃ b', getBlock t id = some b' ∧ b'.status = .halted ∧ b'.place = none ∧ b'.wmark = b1.core.wmPend ∧ b'.pc = b1.pc + 4
        ∧ b'.core.slabs = [] ∧ b'.pins = [] ∧ b'.shared = [] ∧ (∀ k : Fin 4, b'.core.lq[k].elems = [] ∧ b'.core.sq[k].elems = [])
        ∧ b'.core.aq.entries = [] ∧ b'.core.eq.entries = [] ∧ (∀ k : Fin 4, (b'.core.feeds[k]).cur = none ∧ (b'.core.feeds[k]).next = none)
        ∧ b' = { b1.quiet with
            core := { b1.core with lq := b'.core.lq, sq := b'.core.sq, aq := b'.core.aq, eq := b'.core.eq,
                                   feeds := b'.core.feeds, slabs := [] },
            wmark := b1.core.wmPend, status := .halted, place := none, pins := [], shared := [], sharedMarks := [],
            sharedTop := 0, pc := b1.pc + 4, recheck := [], prog := [], convoy := 0, msgs := b'.msgs })
      ∧ (∀ c k, clusterOf s1 id.p b1.cid = some c → getTask s1 c.creator c.handle = some k → c.creator < 16 →
          ∃ k', getTask t c.creator c.handle = some k' ∧ k'.halted = k.halted + 1)
      ∧ (∀ l ∈ (getPolder t id.p).adLines, id.ctx ∉ l.pins)
      ∧ t.bus = s1.bus ∧ t.dev = (disown s1 id).dev
      ∧ (∀ l, l ≠ ctxAddr s1 id / 128 → mapGet t.poison l = mapGet s1.poison l)
      ∧ (Memory.wf s1.hbm = true → ∀ a, (a < ctxAddr s1 id ∨ ctxAddr s1 id + 32 ≤ a) → memByte t.hbm a = memByte s1.hbm a)
    (b.sbuf = [] → halts s b)
    ∧ (∀ s1 b1, commit s id b = .done s1 b1 → halts s1 b1)
    ∧ (∀ s1 b1 va c, commit s id b = .down s1 b1 va c →
        exec .halt s = .next (takeTrap s1 id b1 ⟨c, true, false, 0, BitVec.ofNat 64 va⟩))
    ∧ (∀ s1 b1 r, commit s id b = .wait s1 b1 r → exec .halt s = holdAsk s1 id b1 r)
    ∧ ∀ o ∈ (disown s id).dev.outstanding, o.who.isOf id = false

/-- TBIND (R67, R68, R431 to R433). Of a record: an image that R67 refuses, a group on a record that a queue is bound to,
or a new TYPE while such a queue holds elements raises SHAPE_INVALID; else the record becomes the image under the grant and
the ceiling in force (R73, R75), every other record and every register stays, and when TYPE, GRP, LAY, REQR or REQC changes the tiles bound to it
die. Of codes: a range that runs down or mixes tiles with queues raises ILLEGAL_INSTR, a tile at or above the declared
count or a queue that may not take the record raises SHAPE_INVALID; else exactly the named codes take the record, a tile
dies where its record changes, and no other tile does. A tile that dies loses its dirty mark (the model's reading, log 87), and
the ceiling in force may differ from GRANTC until the next SHAPE (the model's reading, log 83). HALF is a free value (log 20). -/
def Obligations.Bindings : Prop :=
  (∀ (s : State) (id : BlkId) (b : Block) (h : PredNo) (sm : RegNo), ActsFree s id b → Unmarked b.core false [sm] →
     let refused : Prop := Traps (.tbindRecord h sm) s id b ⟨.shapeInvalid, Config.jointHalf b.pc, false, 0, 0⟩
     let old := recN b.core h
     (recOfWord (regGet b.core false sm) = none → refused)
     ∧ ∀ r, recOfWord (regGet b.core false sm) = some r →
       let bound := queuesOf b.core h
       (((bound ≠ [] ∧ r.g ≠ 0) ∨ (r.ty ≠ old.ty ∧ bound.any (queueBusy b.core) = true)) → refused)
       ∧ (¬ ((bound ≠ [] ∧ r.g ≠ 0) ∨ (r.ty ≠ old.ty ∧ bound.any (queueBusy b.core) = true)) →
           ∃ c, Completes (.tbindRecord h sm) s id { b with core := c }
             ∧ recN c h = regrant b.ceiling b.core.gr b.core.gc r ∧ (∀ n, n ≠ h → recN c n = recN b.core n)
             ∧ (∀ k, k < 28 → getTile c k =
                 if vget 0 b.core.bindT k = h ∧ ¬ (r.ty = old.ty ∧ r.g = old.g ∧ r.lay = old.lay ∧ r.reqr = old.reqr
                   ∧ r.reqc = old.reqc) then Tile.dead else getTile b.core k)
             ∧ c.a = b.core.a ∧ c.s = b.core.s ∧ c.preds = b.core.preds ∧ c.bindT = b.core.bindT ∧ c.bindL = b.core.bindL
             ∧ c.bindS = b.core.bindS ∧ c.lq = b.core.lq ∧ c.sq = b.core.sq ∧ c.fstat = b.core.fstat))
  ∧ (∀ (s : State) (id : BlkId) (b : Block) (h : PredNo), ActsFree s id b →
      let trap (c : Cause) : TrapInfo := ⟨c, Config.jointHalf b.pc, false, 0, 0⟩
      (∀ first last : TileCode,
        let lo := first.toNat
        let hi := last.toNat
        let i : Instr := .tbindTiles first last h
        ((hi < lo ∨ (lo ≤ 27 ∧ 28 ≤ hi)) → Traps i s id b (trap .illegalInstr))
        ∧ (lo ≤ hi → hi ≤ 27 → declared b.grantc ≤ hi → Traps i s id b (trap .shapeInvalid))
        ∧ (lo ≤ hi → 28 ≤ lo → (∃ k, lo ≤ k ∧ k ≤ hi ∧ queueBindBad b.core h (false, k - 28) = true) →
            Traps i s id b (trap .shapeInvalid))
        ∧ (lo ≤ hi → hi ≤ 27 → hi < declared b.grantc → ∃ c, Completes i s id { b with core := c }
            ∧ (∀ k, k < 28 → vget 0 c.bindT k = (if lo ≤ k ∧ k ≤ hi then h else vget 0 b.core.bindT k)
                ∧ getTile c k = (if lo ≤ k ∧ k ≤ hi ∧ vget 0 b.core.bindT k ≠ h then Tile.dead else getTile b.core k))
            ∧ c.bindL = b.core.bindL ∧ c.bindS = b.core.bindS ∧ c.recs = b.core.recs ∧ c.a = b.core.a ∧ c.s = b.core.s)
        ∧ (lo ≤ hi → 28 ≤ lo → (∀ k, lo ≤ k → k ≤ hi → queueBindBad b.core h (false, k - 28) = false) →
            ∃ c, Completes i s id { b with core := c }
            ∧ (∀ k, k < 4 → vget 0 c.bindL k = (if lo ≤ k + 28 ∧ k + 28 ≤ hi then h else vget 0 b.core.bindL k))
            ∧ c.bindT = b.core.bindT ∧ c.bindS = b.core.bindS ∧ c.tiles = b.core.tiles ∧ c.recs = b.core.recs))
      ∧ ∀ first last : BitVec 2,
        let i : Instr := .tbindSq first last h
        (last.toNat < first.toNat → Traps i s id b (trap .illegalInstr))
        ∧ (first.toNat ≤ last.toNat →
            (∃ k, first.toNat ≤ k ∧ k ≤ last.toNat ∧ queueBindBad b.core h (true, k) = true) → Traps i s id b (trap .shapeInvalid))
        ∧ (first.toNat ≤ last.toNat →
            (∀ k, first.toNat ≤ k → k ≤ last.toNat → queueBindBad b.core h (true, k) = false) →
            ∃ c, Completes i s id { b with core := c }
            ∧ (∀ k, k < 4 → vget 0 c.bindS k =
                (if first.toNat ≤ k ∧ k ≤ last.toNat then h else vget 0 b.core.bindS k))
            ∧ c.bindT = b.core.bindT ∧ c.bindL = b.core.bindL ∧ c.tiles = b.core.tiles ∧ c.recs = b.core.recs))

/-- TDEAD kills exactly the tiles of its range; TZERO makes exactly the tiles of its operand live, dirty and zero up to the
granted extent (R438, R463), but in a strip whose grant is 0 × 0 it changes no tile (R74). A single tile that was live at the checkpoint and has not been written since takes a new copy in
tile store where there is room; else it is overwritten and the strip is no longer rewindable (R76, R77; what is counted as
room is the model's reading, log 66). Both refuse by the causes of their rules. -/
def Obligations.DeadAndZeroTiles : Prop :=
  ∀ (s : State) (id : BlkId) (b : Block), ActsFree s id b →
    (∀ first last : TileCode,
      let i : Instr := .tdead first last
      (last.toNat < first.toNat → Traps i s id b ⟨.illegalInstr, false, false, 0, 0⟩)
      ∧ (first.toNat ≤ last.toNat → (28 ≤ last.toNat ∨ declared b.grantc ≤ last.toNat) →
          Traps i s id b ⟨.shapeInvalid, false, false, 0, 0⟩)
      ∧ (first.toNat ≤ last.toNat → last.toNat < 28 → last.toNat < declared b.grantc →
          ∃ ts, Completes i s id { b with core := { b.core with tiles := ts } }
            ∧ ∀ k : Fin 28, ts[k] = if first.toNat ≤ k ∧ k ≤ last.toNat then Tile.dead else b.core.tiles[k]))
    ∧ ∀ t : TileCode,
      ((28 ≤ t.toNat ∨ tileOk b.grantc b.core t.toNat = false) →
        Traps (.tzero t) s id b ⟨.shapeInvalid, false, false, 0, 0⟩)
      ∧ (t.toNat < 28 → tileOk b.grantc b.core t.toNat = true → b.core.gr = 0 → Completes (.tzero t) s id b)
      ∧ (t.toNat < 28 → tileOk b.grantc b.core t.toNat = true → b.core.gr ≠ 0 →
          let h := dstRec b.core t
          ∃ ts q, Completes (.tzero t) s id { b with core := { b.core with tiles := ts, copies := q } }
            ∧ q.store = b.core.copies.store ∧ (b.core.copies.held = [] → q = b.core.copies)
            ∧ (∀ n, h.g = 0 → mapGet b.core.copies.held t.toNat = some n →
                let used := b.core.copies.kept + n + ((upTo 28).map fun j =>
                  if j = t.toNat ∨ (getTile b.core j).live then tileBytes b.core j else mapNat b.core.copies.held j).sum
                mapGet q.held t.toNat = none
                  ∧ (used ≤ q.store → q.kept = b.core.copies.kept + n ∧ q.lost = b.core.copies.lost)
                  ∧ (q.store < used → q.kept = b.core.copies.kept ∧ q.lost = true))
            ∧ ∀ k : Fin 28, if t.toNat ≤ k ∧ k < t.toNat + groupSize h then
                ts[k].live = true ∧ ts[k].dirty = true ∧ ts[k].hwr = h.gr ∧ ts[k].hwc = h.gc
                  ∧ (∀ r c, ts[k].elem r c = 0) ∧ ts[k].marks = []
              else ts[k] = b.core.tiles[k])

/-! ### Clusters -/

/-- ARRIVE, AWAIT and BAR (R353, R355): a program arrival re-attaches to one that was made before a rewind, or is a new
one; a new one that would be the third in an incomplete phase waits; AWAIT goes on once as many phases have completed as
the program has arrived in; BAR arrives and then awaits. TSEND and TRECV (R222 to R225, R453): a rank that names no member
raises PERM. TSEND snapshots every element of its operand into a message of the sender, sets the receiver's event, and
makes the strip non-rewindable; with four messages unreceived it waits. TRECV takes the oldest message for it under the
tag and writes every element; without one it waits, and a message of another type or extent raises SHAPE_MISMATCH and
stays. -/
def Obligations.ClusterExchange : Prop :=
  (∀ (s : State) (id : BlkId) (b : Block) (k : BitVec 3), ActsFree s id b →
     let n := arrivedAt b k + 1
     let made := madeAt b k
     let phases := phasesOf s id b k
     let counted (x : Block) : Block := { x with core := { x.core with arrived := vset x.core.arrived k.toNat n } }
     let fresh : Block := { b with arrMade := vset b.arrMade k.toNat n }
     (n ≤ made → Completes (.arrive k) s id (counted b))
     ∧ (made < n → made < phases + 2 → Completes (.arrive k) s id (counted fresh))
     ∧ (made < n → phases + 2 ≤ made → Waits (.arrive k) s id b ∧ Waits (.bar k) s id b)
     ∧ (arrivedAt b k ≤ phases → Completes (.await k) s id b) ∧ (phases < arrivedAt b k → Waits (.await k) s id b)
     ∧ (n ≤ made → n ≤ phases → Completes (.bar k) s id (counted b)) ∧ (n ≤ made → phases < n → Waits (.bar k) s id b)
     ∧ (made < n → made < phases + 2 → n ≤ phases → Completes (.bar k) s id (counted fresh))
     ∧ (made < n → made < phases + 2 → phases < n → Waits (.bar k) s id fresh))
  ∧ (∀ (s : State) (id : BlkId) (b : Block) (t : TileCode) (rank tag : RegNo) (cl : Cluster), ActsFree s id b →
      t.toNat < 28 → tileOk b.grantc b.core t.toNat = true → Unmarked b.core true [rank, tag] →
      clusterOf s id.p b.cid = some cl →
      let r := (regGet b.core true rank).toNat
      let g := (regGet b.core true tag).toNat % 65536
      let h := recN b.core (vget 0 b.core.bindT t.toNat)
      let peer : BlkId := ⟨id.p, cl.ctxs.getD r 0⟩
      let place (i : Nat) : Nat := i / h.gc * 16384 + i % h.gc
      let ends (mine : Block) (theirs : Block → Block) : State :=
        if peer = id then setBlock s id ((theirs mine).done (b.pc + 4))
        else setBlock (updBlock s peer theirs) id (mine.done (b.pc + 4))
      ((15 < r ∨ cl.ctxs.length ≤ r) → Traps (.tsend t rank tag) s id b ⟨.perm, true, false, 0, 0⟩
          ∧ Traps (.trecv t rank tag) s id b ⟨.perm, true, false, 0, 0⟩)
      ∧ (r ≤ 15 → r < cl.ctxs.length → FitsRow h →
        (NoDead b.core [tileSrc b.core t.toNat] (upTo (recElems h)) →
          (4 ≤ b.msgs.length → Waits (.tsend t rank tag) s id b)
          ∧ (b.msgs.length < 4 → ∃ m : Message,
              exec (.tsend t rank tag) s = .next (ends { b with msgs := b.msgs ++ [m], rewindable := false }
                fun x => { x with eventFlag := true, waiting := false })
              ∧ m.dest = r ∧ m.tag = g ∧ m.ty = h.ty ∧ m.rows = recRows h ∧ m.cols = h.gc
              ∧ ∀ i, i < recElems h → mapNat m.elems (place i) = (tileSrc b.core t.toNat).get i))
        ∧ ∀ x, getBlock s peer = some x →
          let mine (m : Message) : Bool := m.dest == b.clrank && m.tag == g
          ((∀ m ∈ x.msgs, mine m = false) → Waits (.trecv t rank tag) s id b)
          ∧ ∀ pre m post, x.msgs = pre ++ m :: post → (∀ y ∈ pre, mine y = false) → mine m = true →
            ((m.ty ≠ h.ty ∨ m.rows ≠ recRows h ∨ m.cols ≠ h.gc) →
                Traps (.trecv t rank tag) s id b ⟨.shapeMismatch, true, false, 0, 0⟩)
            ∧ (m.ty = h.ty → m.rows = recRows h → m.cols = h.gc → ∃ c',
                exec (.trecv t rank tag) s = .next (ends { b with core := c', rewindable := false }
                  fun y => { y with msgs := pre ++ post, core := freeStore m y.core, ckpt := freeStore m y.ckpt })
                ∧ TileWritten b.core c' t (fun _ => true) fun i => mapNat m.elems (place i))))

/-! ### Scalar memory accesses -/

/-- LD and LD.x (R385, R260): the address is base plus index, for .x the index times the size. An address of 2^55 or above
raises XLATE, a misaligned one MISALIGN, a failing probe its cause, each with TADDR; a load from HBM with no buffered
store of the block writes the bytes, extended as the size says, with the mark of a poisoned line; one from the
shared-store aperture the bytes of the block's region. -/
def Obligations.ScalarLoads : Prop :=
  ∀ (s : State) (id : BlkId) (b : Block) (d x i : RegNo) (z : LdSize), Acts s id b → Unmarked b.core true [x, i] →
    let size : Nat := match z with
      | .n8 | .i8 => 1 | .n16 | .i16 => 2 | .n32 | .i32 => 4 | .d => 8
    let value (v : Nat) : Word64 := match z with
      | .i8 => (BitVec.ofNat 8 v).signExtend 64 | .i16 => (BitVec.ofNat 16 v).signExtend 64
      | .i32 => (BitVec.ofNat 32 v).signExtend 64 | _ => BitVec.ofNat 64 v
    let runs (ins : Instr) (va : Nat) : Prop :=
      let trap (c : Cause) : TrapInfo := ⟨c, true, false, 0, BitVec.ofNat 64 va⟩
      (2 ^ 55 ≤ va → Traps ins s id b (trap .xlate))
      ∧ (va < 2 ^ 55 → va % size ≠ 0 → Traps ins s id b (trap .misalign))
      ∧ (va < 2 ^ 55 → va % size = 0 → ∀ c, probeAt s (blockAcc s id b) needRd va = .error c → Traps ins s id b (trap c))
      ∧ (va < 2 ^ 55 → va % size = 0 → b.sbuf = [] →
        (∀ pa, InHbm s id b needRd va size pa →
          let mark : Option Mark := if (poisonIn s pa size).isSome then some (.line (pa - pa % 128) (va - va % 128)) else none
          Delivers ins s id { b with core := regSetMarked b.core true d (value (memNat s.hbm pa size)) mark })
        ∧ (shBase ≤ va → sharedMark b (va - shBase) size = none → Delivers ins s id
          { b with core := regSet b.core true d (value (memNat b.shared (va - shBase) size)) }))
    runs (.ld d x i z) (regGet b.core true x + regGet b.core true i).toNat
    ∧ runs (.ldX d x i z) (regGet b.core true x + regGet b.core true i * BitVec.ofNat 64 size).toNat

/-- ST and ST.x (R414, R415, R144, R170): addresses and causes as for LD under write permission; a store to memory that is
no device memory enters the strip buffer with the low bytes of the register, and memory stays; a mark of the register makes the
line stored to a new source (R261; for a line of the shared store log 94); a store to device HBM is performed at once and makes
the strip non-rewindable. -/
def Obligations.ScalarStores : Prop :=
  ∀ (s : State) (id : BlkId) (b : Block) (r x i : RegNo) (z : StSize), Acts s id b → Unmarked b.core true [x, i] →
    bufBytes b.sbuf + 8 ≤ 262144 → b.unstarted →
    let size : Nat := match z with
      | .n8 => 1 | .n16 => 2 | .n32 => 4 | .d => 8
    let val := (regGet b.core true r).toNat % 2 ^ (8 * size)
    let runs (ins : Instr) (va : Nat) : Prop :=
      let trap (c : Cause) : TrapInfo := ⟨c, true, false, 0, BitVec.ofNat 64 va⟩
      (2 ^ 55 ≤ va → Traps ins s id b (trap .xlate))
      ∧ (va < 2 ^ 55 → va % size ≠ 0 → Traps ins s id b (trap .misalign))
      ∧ (va < 2 ^ 55 → va % size = 0 →
        (∀ c, probeAt s (blockAcc s id b) needWr va = .error c → Traps ins s id b (trap c))
        ∧ (∀ w, probeAt s (blockAcc s id b) needWr va = .ok w → w.device = false →
            Delivers ins s id { b with
              sbuf := b.sbuf ++ [⟨va, w.loc 0, size, val, none, (regMark b.core true r).map fun _ => storedMark w va⟩] })
        ∧ (∀ pa, probeAt s (blockAcc s id b) needWr va = .ok (.phys pa 2) → pa + size ≤ 0x8000000000 →
            polderDown s (pa / polderBytes) = false → hitsBuffer b.sbuf (.phys pa 2) size = false →
            regMark b.core true r = none → ∃ t, exec ins s = .next t
              ∧ getBlock t id = some (({ b with rewindable := false } : Block).done (b.pc + 4))
              ∧ t.hbm = memSetBytes s.hbm pa (leBytes size val) ∧ t.bus = s.bus ∧ t.dev = s.dev ∧ SameOthers s t id))
    runs (.st r x i z) (regGet b.core true x + regGet b.core true i).toNat
    ∧ runs (.stX r x i z) (regGet b.core true x + regGet b.core true i * BitVec.ofNat 64 size).toNat

/-- The strip buffer (R169, R171, R270): the block's loads see its own buffered stores; an entry elsewhere does not change a
load; an empty buffer commits at once; a drain of one entry performs it at its home with its mark; and one that lies
behind a lost sluice stops the drain with SLUICE_DOWN. -/
def Obligations.OwnStoresSeen : Prop :=
  (∀ (s : State) (id : BlkId) (b : Block), b.sbuf = [] → commit s id b = .done s b)
  ∧ ∀ (s : State) (id : BlkId) (b : Block) (e : SbEntry), e.nibble = none →
    (∀ va w res, e.loc = w.loc 0 → 0 < e.size → loadEl s { b with sbuf := b.sbuf ++ [e] } ⟨va, w, e.size⟩ res
        = .ok (e.val % 2 ^ (8 * e.size), e.mark))
    ∧ (∀ (el : LoadEl) res, (∀ k, k < el.size → entryOff e (el.at_.loc k) = none) →
        loadEl s { b with sbuf := b.sbuf ++ [e] } el res = loadEl s b el res)
    ∧ ∀ pa, e.loc = .pa pa → pa + e.size ≤ 0x8000000000 → cardHolds s id pa e.size = false →
      (lostSluice s id.p pa = true → commit s id { b with sbuf := [e] } = .down s { b with sbuf := [e] } e.va .sluiceDown)
      ∧ (lostSluice s id.p pa = false → polderDown s (pa / polderBytes) = false →
          commit s id { b with sbuf := [e] }
            = .done (hbmWrite s pa (leBytes e.size e.val) e.mark.isSome) { b with sbuf := [] })

/-! ### Tiles and queues in memory -/

/-- LDT, LDG and LDQ (R386 to R389): when every active element can be taken from HBM, with no buffered store of the block,
the destination takes their values and everything else stays. LDG's address of an element is the base plus its index
times 2^scale; a row-major LDT element lies at its row and column; a run of LDQ advances by its stride. LDQ pushes the rows
that its queue has room for and waits with the rest, its progress index the rows pushed; in a strip whose grant is 0 × 0 no
tile and no queue changes (R74). -/
def Obligations.TileLoads : Prop :=
  (∀ (h : ShapeRec) (base stride i : Nat), isMx h.ty = false → h.lay = .rowMajor →
    (imageEl h base stride i).va = (base + i / h.gc * stride + i % h.gc * typeWidth h.ty / 8) % 2 ^ 64
    ∧ (imageEl h base stride i).ix = i ∧ (imageEl h base stride i).scale = none)
  ∧ ∀ (s : State) (id : BlkId) (b : Block) (home : Nat → Nat), Acts s id b → b.sbuf = [] →
    let val (h : ShapeRec) (e : MemEl) : Nat := memNat s.hbm (home e.ix) e.size / 2 ^ e.shift % 2 ^ typeWidth h.ty
    let ready (els : List MemEl) : Prop := ∀ e ∈ els, ElemInHbm s id b needRd e (home e.ix)
    (∀ f : FmtTileMem, tileMemCheck b f = none → Unmarked b.core true [f.b, f.i] →
      let h := srcRec b.core f.t
      let el := imageEl h (regGet b.core true f.b).toNat (strideOf b.core h f.i)
      (h.lay ≠ .rowMajor → regGet b.core true f.i ≠ 0 → Traps (.ldt f) s id b ⟨.shapeInvalid, true, false, 0, 0⟩)
      ∧ ((h.lay = .rowMajor ∨ regGet b.core true f.i = 0) → FitsRow h → TidyTiles b.core →
          ready ((activeIx b.core ⟨f.pg, false⟩ (recElems h)).map el) →
          ∃ c', Delivers (.ldt f) s id { b with core := c' }
            ∧ TileWritten b.core c' f.t (isActive b.core ⟨f.pg, false⟩) fun i => val h (el i)))
    ∧ (∀ f : FmtGather, gatherCheck b f.t f.x f.pg gatherType = none → Unmarked b.core true [f.b] →
      let h := srcRec b.core f.t
      let y := tileSrc b.core f.x.toNat
      let el (i : Nat) : MemEl := gatherEl h (regGet b.core true f.b).toNat (intVal y.rc.ty (y.get i)) f.scale.toNat i
      let act := activeIx b.core ⟨f.pg, false⟩ (recElems h)
      FitsRow h → TidyTiles b.core → NoDead b.core [y] act → NoMarks [y] act → ready (act.map el) →
        ∃ c', Delivers (.ldg f) s id { b with core := c' }
          ∧ TileWritten b.core c' f.t (isActive b.core ⟨f.pg, false⟩) fun i => val h (el i))
    ∧ ∀ f : FmtQueueMem, queueMemCheck (queueRec b.core false f.q) f = none → Unmarked b.core true [f.b, f.i] →
      let h := queueRec b.core false f.q
      let q := vget ⟨[], 0⟩ b.core.lq f.q.toNat
      let slot := vget ⟨none, none, true⟩ b.core.feeds f.q.toNat
      let el := runEl h (regGet b.core true f.b).toNat (runStride b.core h f.i)
      ready ((activeIx b.core ⟨f.pg, false⟩ (recElems h)).map el) →
      ((slot.cur.isSome = true ∨ slot.next.isSome = true) → Waits (.ldq f) s id b)
      ∧ (slot.cur = none → slot.next = none → b.core.gr = 0 → Completes (.ldq f) s id b)
      ∧ (slot.cur = none → slot.next = none → b.core.gr ≠ 0 → q.debt = 0 → b.room = false → b.prog = [] →
          let row (i : Nat) : QElem := ⟨if isActive b.core ⟨f.pg, false⟩ i then val h (el i) else 0, none⟩
          let pushed (es : List QElem) : Machine.Core := { b.core with lq := vset b.core.lq f.q.toNat ⟨q.elems ++ es, 0⟩ }
          (0 < recElems h → 8 * h.gc < q.elems.length + h.gc → Waits (.ldq f) s id b)
          ∧ (q.elems.length + recElems h ≤ 8 * h.gc →
              Delivers (.ldq f) s id { b with core := pushed ((upTo (recElems h)).map row) })
          ∧ ∀ m, 0 < m → m < recRows h → q.elems.length + m * h.gc ≤ 8 * h.gc →
              8 * h.gc < q.elems.length + (m + 1) * h.gc → ∃ t,
              let b' : Block := { b with core := pushed ((upTo (m * h.gc)).map row), prog := [Progress.count m] }
              exec (.ldq f) s = .next t ∧ getBlock t id = some { b'.quiet with waiting := true } ∧ SameOutside s t
                ∧ SameOthers s t id)

/-- Fault-only-first (R156, R157): an LDT into a tile without a group and without requests of its own, whose lowest faulting
element k comes after its first one, loads the elements below k and shrinks the grant: whole rows below k, or k columns of
the first row. Its registers take the new grant, and no element from the fault on is written. -/
def Obligations.FaultOnlyFirst : Prop :=
  ∀ (s : State) (id : BlkId) (b : Block) (f : FmtTileMem) (home : Nat → Nat) (k : Nat), Acts s id b → b.sbuf = [] →
    tileMemCheck b f = none → Unmarked b.core true [f.b, f.i] →
    let h := srcRec b.core f.t
    let el := imageEl h (regGet b.core true f.b).toNat (strideOf b.core h f.i)
    let act := activeIx b.core ⟨f.pg, false⟩ (recElems h)
    let gr := if h.gc ≤ k then k / h.gc else 1
    let gc := if h.gc ≤ k then h.gc else k
    (h.lay = .rowMajor ∨ regGet b.core true f.i = 0) → b.core.gr ≠ 0 → h.g = 0 → h.reqr = 0 → h.reqc = 0 → FitsRow h → TidyTiles b.core →
    k ∈ act → (∃ j ∈ act, j < k) → (∀ i ∈ act, i < k → ElemInHbm s id b needRd (el i) (home i)) →
    elCauses s (blockAcc s id b) needRd h f.t.toNat (el k) ≠ [] →
    ∃ c', Delivers (.ldt f) s id { b with core := c' } ∧ c'.gr = gr ∧ c'.gc = gc
      ∧ (∀ n, recN c' n = (let x := recN b.core n
          { x with gr := if x.reqr = 0 then Nat.min x.gr gr else x.gr, gc := if x.reqc = 0 then Nat.min x.gc gc else x.gc }))
      ∧ (∀ d, b.core.shapeD = some d → d.toNat ≤ 29 → d ≠ 0 → ∀ fl, regGet c' fl d = BitVec.ofNat 64 gr
          ∧ regGet c' fl (d + 1) = BitVec.ofNat 64 gc ∧ regGet c' fl (d + 2) = BitVec.ofNat 64 (gr * gc))
      ∧ (∀ r c, r < gr → c < gc → (getTile c' f.t.toNat).elem r c =
          if isActive b.core ⟨f.pg, false⟩ (r * h.gc + c) then
            memNat s.hbm (home (r * h.gc + c)) (el (r * h.gc + c)).size / 2 ^ (el (r * h.gc + c)).shift % 2 ^ typeWidth h.ty
          else (getTile b.core f.t.toNat).elem r c)
      ∧ (∀ r c, c < 16384 → (gr ≤ r ∨ gc ≤ c) → (getTile c' f.t.toNat).elem r c = (getTile b.core f.t.toNat).elem r c)
      ∧ ∀ n : Fin 28, n.val ≠ f.t.toNat → c'.tiles[n] = b.core.tiles[n]

/-- STT, STS, STQ and STQU (R416 to R420, R170, R172): when every active element can be stored, memory stays and the strip
buffer takes one entry for each, with the element's bits; a marked element makes the line stored to a new source (R261). STT and
STQ put them in the order of SIDX, also elements of STQ at one address; STS and STQU, which have no fixed order, in ascending
order, so that of elements at one address the highest index comes last (R167). Which of the elements at one address stay, and
these orders where R172 and R417 leave them open, are the model's reading (log 9). STQ and STQU take the row-blocks from the
queue; in a strip whose grant is 0 × 0 they do nothing (R74). -/
def Obligations.TileStores : Prop :=
  ∀ (s : State) (id : BlkId) (b : Block) (home : Nat → Where), Acts s id b → b.unstarted →
    let rotated (n : Nat) (els : List MemEl) : List MemEl :=
      (els.filter fun e => decide (b.core.sidx.toNat % n ≤ e.ix)) ++ els.filter fun e => decide (e.ix < b.core.sidx.toNat % n)
    let ready (els : List MemEl) : Prop :=
      bufBytes b.sbuf + 9 * els.length ≤ 262144 ∧ ∀ e ∈ els, ElemStorable s id b e (home e.ix)
    (∀ f : FmtTileMem, tileMemCheck b f = none → Unmarked b.core true [f.b, f.i] →
      let h := srcRec b.core f.t
      let x := tileSrc b.core f.t.toNat
      let act := activeIx b.core ⟨f.pg, false⟩ (recElems h)
      let els := act.map (imageEl h (regGet b.core true f.b).toNat (strideOf b.core h f.i))
      (h.lay ≠ .rowMajor → regGet b.core true f.i ≠ 0 → Traps (.stt f) s id b ⟨.shapeInvalid, true, false, 0, 0⟩)
      ∧ ((h.lay = .rowMajor ∨ regGet b.core true f.i = 0) → ready els → NoDead b.core [x] act → ∃ es : List SbEntry,
          Delivers (.stt f) s id { b with sbuf := b.sbuf ++ es }
          ∧ (∀ e ∈ els, ∃ en ∈ es, EntryOf s id b x e en)
          ∧ (∀ e ∈ els, ∀ v, e.scale = some v →
              ∃ en ∈ es, en.va = v ∧ en.size = 1 ∧ en.val = x.scale (e.ix / h.gc) (e.ix % h.gc / 32))
          ∧ (isMx h.ty = false → es.length = els.length ∧ ∀ (k : Nat) (e : MemEl), (rotated (recElems h) els)[k]? = some e →
              ∃ en : SbEntry, es[k]? = some en ∧ EntryOf s id b x e en)))
    ∧ (∀ f : FmtGather, gatherCheck b f.t f.x f.pg gatherType = none → Unmarked b.core true [f.b] →
      let h := srcRec b.core f.t
      let x := tileSrc b.core f.t.toNat
      let y := tileSrc b.core f.x.toNat
      let act := activeIx b.core ⟨f.pg, false⟩ (recElems h)
      let els := act.map fun i => gatherEl h (regGet b.core true f.b).toNat (intVal y.rc.ty (y.get i)) f.scale.toNat i
      ready els → NoDead b.core [x, y] act → NoMarks [y] act → ∃ es : List SbEntry,
        Delivers (.sts f) s id { b with sbuf := b.sbuf ++ es } ∧ es.length = els.length
        ∧ ∀ (k : Nat) (e : MemEl), els[k]? = some e → ∃ en, es[k]? = some en ∧ EntryOf s id b x e en)
    ∧ ∀ f : FmtQueueMem, queueMemCheck (queueRec b.core true f.q) f = none → Unmarked b.core true [f.b, f.i] →
      let h := queueRec b.core true f.q
      let q := vget ⟨[], 0⟩ b.core.sq f.q.toNat
      let x := queueSrc (28 + f.q.toNat) h (q.elems.take (recElems h))
      let els := (activeIx b.core ⟨f.pg, false⟩ (recElems h)).map
        (runEl h (regGet b.core true f.b).toNat (runStride b.core h f.i))
      let last (e : MemEl) : Prop := ∀ e' ∈ els, e'.va = e.va → e'.shift = e.shift → e'.ix ≤ e.ix
      ready els → ∀ i ∈ ([.stq f, .stqu f] : List Instr),
        (b.core.gr = 0 → Completes i s id b)
        ∧ (b.core.gr ≠ 0 → q.elems.length < recElems h → Waits i s id b)
        ∧ (b.core.gr ≠ 0 → recElems h ≤ q.elems.length → ∃ es : List SbEntry,
            Delivers i s id { b with sbuf := b.sbuf ++ es, core := { b.core with
              sq := vset b.core.sq f.q.toNat { q with elems := q.elems.drop (recElems h) } } }
            ∧ es.length = els.length ∧ (∀ e ∈ els, ∃ en ∈ es, EntryOf s id b x e en)
            ∧ (i = .stqu f → ∀ (k : Nat) (e : MemEl), els[k]? = some e → ∃ en, es[k]? = some en ∧ EntryOf s id b x e en)
            ∧ (i = .stq f → ∀ (k : Nat) (e : MemEl),
                (rotated (recElems h) els)[k]? = some e → ∃ en, es[k]? = some en ∧ EntryOf s id b x e en)
            ∧ (i = .stqu f → ∀ e ∈ els, last e → ∃ pre en post, es = pre ++ en :: post ∧ EntryOf s id b x e en
                ∧ ∀ y ∈ post, ¬ (y.va = en.va ∧ y.nibble = en.nibble)))

/-- PLD, PST, FEED, PREF, CLEAN and INVAL (R359, R375, R376, R381, R404, R405). PREF has no effect in this model (log 14);
CLEAN drains the buffer up to the last entry that the region holds, and then completes with the zero-length reads of R182
(their answers are the model's, log 67); a region that runs into the aperture raises XLATE at its first byte there; FEED reads its 64-byte record and takes the queue's
current or next place, clears both where V = 0, dropping what the feed has under way, and waits where both are taken. -/
def Obligations.PredicatesFeedsRegions : Prop :=
  ∀ (s : State) (id : BlkId) (b : Block), Acts s id b →
    let acc := blockAcc s id b
    let a (r : RegNo) : Nat := (regGet b.core true r).toNat
    let n := b.core.gr * b.core.gc
    (∀ x k, Completes (.pref x k) s id b)
    ∧ (∀ (p : PredNo) (x : RegNo) (bs : List Byte), inHandler b = false → Unmarked b.core true [x] → b.sbuf = [] →
        bs.length = (n + 7) / 8 → SpanInHbm s id b (a x) bs →
        Delivers (.pld p x) s id { b with core := setPred b.core p (leNat bs % 2 ^ Nat.min n 65536) })
    ∧ (∀ (p : PredNo) (x : RegNo), inHandler b = false → Unmarked b.core true [x] → b.unstarted →
        bufBytes b.sbuf + (n + 7) / 8 ≤ 262144 →
        (∀ v k, (v, k) ∈ pieces128 (a x) ((n + 7) / 8) → ∃ w, probeAt s acc needWr v = .ok w ∧ w.device = false) →
        ∃ es : List SbEntry, Delivers (.pst p x) s id { b with sbuf := b.sbuf ++ es } ∧ es.length = (n + 7) / 8
          ∧ ∀ (k : Nat) (en : SbEntry), es[k]? = some en → en.va = a x + k ∧ en.size = 1 ∧ en.mark = none ∧ en.nibble = none
            ∧ en.val = ((List.range 8).filter fun j => decide (8 * k + j < n) && predBit b.core p (8 * k + j)).foldl
                (fun v j => v + 2 ^ j) 0)
    ∧ (∀ (q : BitVec 2) (x : RegNo), Unmarked b.core true [x] →
        (a x % 8 ≠ 0 → Traps (.feed q x) s id b ⟨.misalign, true, false, 0, BitVec.ofNat 64 (a x)⟩)
        ∧ (a x % 8 = 0 → b.sbuf = [] → ∀ bs : List Byte, bs.length = 64 → SpanInHbm s id b (a x) bs →
          let slot := vget ⟨none, none, true⟩ b.core.feeds q.toNat
          let put (y : FeedSlot) : Prop :=
            Delivers (.feed q x) s id { b with core := { b.core with feeds := vset b.core.feeds q.toNat y } }
          (∀ f, parseFeed bs = some (false, f) → ∃ t, exec (.feed q x) s = .next t
            ∧ (let c : Machine.Core := { b.core with feeds := vset b.core.feeds q.toNat ⟨none, none, true⟩ }
               let b' : Block := { b with core := c, feedDone := b.feedDone.filter fun e => e.1 != q.toNat }
               getBlock t id = some (b'.done (b.pc + 4)))
            ∧ t.hbm = s.hbm ∧ t.bus = s.bus ∧ t.poison = s.poison ∧ SameOthers s t id
            ∧ t.dev = { s.dev with outstanding := s.dev.outstanding.map fun o =>
                if o.who = Requester.feed id.p id.ctx q.toNat then { o with who := .gone o.p } else o })
          ∧ ∀ f, parseFeed bs = some (true, f) →
            (slot.cur = none → f.total ≠ 0 → put ⟨some f, none, true⟩)
            ∧ (slot.cur.isSome = true → slot.next = none → put { slot with next := some f })
            ∧ (slot.cur.isSome = true → slot.next.isSome = true → ∃ t, exec (.feed q x) s = .next t
                ∧ getBlock t id = some { b with waiting := true } ∧ SameOutside s t)))
    ∧ ∀ x k : RegNo, Unmarked b.core true [x, k] →
      (a k = 0 → Completes (.clean x k) s id b ∧ Completes (.inval x k) s id b)
      ∧ (a k ≠ 0 → 2 ^ 55 < a x + a k → Traps (.clean x k) s id b ⟨.xlate, true, false, 0, BitVec.ofNat 64 (a x)⟩
          ∧ Traps (.inval x k) s id b ⟨.xlate, true, false, 0, BitVec.ofNat 64 (a x)⟩)
      ∧ (a k ≠ 0 → a x + a k ≤ 2 ^ 55 → (shBase ≤ a x ∨ (a x + a k ≤ shBase
            ∧ ∀ v, a x ≤ v → v < a x + a k → (v = a x ∨ v % 65536 = 0) → ∃ w, probeAt s acc needRd v = .ok w)) →
          Completes (.inval x k) s id b
          ∧ (b.sbuf = [] → b.runsAhead = false →
              exec (.clean x k) s = .next (setBlock (zeroReads s (regionTargets s id b (a x) (a k))) id (b.done (b.pc + 4))))
          ∧ ∀ pre post s1 b1, b.runsAhead = false → b.sbuf = pre ++ post → (∀ e ∈ post, overlaps e.va e.size (a x) (a k) = false) →
            (∀ e, pre.getLast? = some e → overlaps e.va e.size (a x) (a k) = true) →
            drainSome pre post s id b = .done s1 b1 →
            exec (.clean x k) s
              = .next (setBlock (zeroReads s1 (regionTargets s1 id (early b b1) (a x) (a k))) id ((early b b1).done (b1.pc + 4))))
      ∧ (a k ≠ 0 → a x < shBase → shBase < a x + a k → a x + a k ≤ 2 ^ 55 →
          (∀ v, a x ≤ v → v < shBase → (v = a x ∨ v % 65536 = 0) → ∃ w, probeAt s acc needRd v = .ok w) →
          Traps (.clean x k) s id b ⟨.xlate, true, false, 0, BitVec.ofNat 64 shBase⟩
          ∧ Traps (.inval x k) s id b ⟨.xlate, true, false, 0, BitVec.ofNat 64 shBase⟩)

/-! ### Atomics and fences -/

/-- The fetch-and-operate family and AMOCAS (R346 to R350), on a location in HBM of no poisoned line, with nothing buffered:
the old value goes to the register (sign-extended for the 32-bit MIN and MAX), the new one to memory, in one step; a
compare-and-swap that does not match writes nothing. On PCIe space only FetchAdd, Swap and CAS are taken, and those raise
PERM where the completer answers Unsupported Request (R179). A release at system scope sends its zero-length reads first
(R175); that these are answered at once is the model's choice (log 67). -/
def Obligations.ScalarAtomics : Prop :=
  ∀ (s : State) (id : BlkId) (b : Block) (f : FmtAmo), Acts s id b → Unmarked b.core true [f.b, f.v, f.d] → b.sbuf = [] →
    let size := if f.dbl then 8 else 4
    let w := 8 * size
    let va := (regGet b.core true f.b).toNat
    let v := (regGet b.core true f.v).toNat % 2 ^ w
    let cmp := (regGet b.core true f.d).toNat % 2 ^ w
    let sgn (x : Nat) : Int := (BitVec.ofNat w x).toInt
    let sys : Bool := (f.ord == .rel || f.ord == .ar) && f.sc == .sys
    let s0 := if sys then zeroReads s b.pcie else s
    let b0 := if sys then { b with pcie := [] } else b
    va < 2 ^ 55 → va % size = 0 →
    (∀ pa, InHbm s id b needRw va size pa → poisonIn s pa size = none →
      let old := memNat s.hbm pa size
      let leaves (i : Instr) (m : Memory) (signed : Bool) : Prop := ∃ t, exec i s = .next t
        ∧ (let reg := if signed ∧ f.dbl = false then (BitVec.ofNat 32 old).signExtend 64 else BitVec.ofNat 64 old
           let b' : Block := { b0 with rewindable := false, core := regSet b.core true f.d reg }
           getBlock t id = some (b'.done (b.pc + 4)))
        ∧ t.hbm = m ∧ t.bus = s.bus ∧ t.dev = s0.dev ∧ SameOthers s t id
      let takes (i : Instr) (new : Nat) (signed : Bool) : Prop := leaves i (memSetBytes s.hbm pa (leBytes size new)) signed
      takes (.amoadd f) ((old + v) % 2 ^ w) false ∧ takes (.amoand f) (old &&& v) false ∧ takes (.amoor f) (old ||| v) false
      ∧ takes (.amoxor f) (old ^^^ v) false ∧ takes (.amoswp f) v false
      ∧ takes (.amomin f) (if sgn old ≤ sgn v then old else v) true ∧ takes (.amomax f) (if sgn old ≤ sgn v then v else old) true
      ∧ takes (.amominn f) (if old ≤ v then old else v) false ∧ takes (.amomaxn f) (if old ≤ v then v else old) false
      ∧ takes (.amofadd f) (fAddAtomic f.dbl old v) false
      ∧ (old = cmp → takes (.amocas f) v false)
      ∧ (old ≠ cmp → leaves (.amocas f) s.hbm false))
    ∧ ∀ pa mt a, probeAt s (blockAcc s id b) needRw va = .ok (.phys pa mt) → physTarget s pa = .bus a →
      (∀ i ∈ ([.amoand f, .amoor f, .amoxor f, .amomin f, .amomax f, .amominn f, .amomaxn f, .amofadd f] : List Instr),
        Traps i s id b ⟨.perm, true, false, 0, BitVec.ofNat 64 va⟩)
      ∧ (refusesAtomics s pa = true → ∀ i ∈ ([.amoadd f, .amoswp f, .amocas f] : List Instr),
        exec i s = .next (takeTrap s0 id b0 ⟨.perm, true, false, 0, BitVec.ofNat 64 va⟩))

/-- TAMO (R426 to R428): with its active elements on locations of HBM that do not overlap, each location takes the new value
of the operation on its own old value and its element, the element takes the old value, and no other byte changes. A release
at system scope sends its zero-length reads first (R175); that these are answered at once is the model's choice (log 67). No
element has been performed before (`taken`). -/
def Obligations.TileAtomics : Prop :=
  ∀ (s : State) (id : BlkId) (b : Block) (f : FmtTamo) (home : Nat → Nat), Acts s id b → b.sbuf = [] → b.taken = [] →
    gatherCheck b f.t f.x f.pg (tamoType f.op) = none → Unmarked b.core true [f.b] → Memory.wf s.hbm = true →
    let h := srcRec b.core f.t
    let x := tileSrc b.core f.t.toNat
    let y := tileSrc b.core f.x.toNat
    let dbl := decide (typeWidth h.ty = 64)
    let size := typeWidth h.ty / 8
    let act := activeIx b.core ⟨f.pg, false⟩ (recElems h)
    let va (i : Nat) : Nat := ofInt 64 (((regGet b.core true f.b).toNat : Int) + intVal y.rc.ty (y.get i) * (size : Int))
    let sys : Bool := (f.ord == .rel || f.ord == .ar) && f.ts == 3
    FitsRow h → TidyTiles b.core → NoDead b.core [x, y] act → NoMarks [x, y] act →
    (∀ i ∈ act, va i % size = 0 ∧ InHbm s id b needRw (va i) size (home i) ∧ poisonIn s (home i) size = none) →
    (∀ i ∈ act, ∀ j ∈ act, i ≠ j → home i + size ≤ home j ∨ home j + size ≤ home i) →
    ∃ t c', exec (.tamo f) s = .next t
      ∧ (let b' : Block := { b with core := c', pcie := if sys then [] else b.pcie,
                                    rewindable := if act = [] then b.rewindable else false }
         getBlock t id = some (b'.done (b.pc + 4)))
      ∧ TileWritten b.core c' f.t (isActive b.core ⟨f.pg, false⟩) (fun i => memNat s.hbm (home i) size)
      ∧ (∀ i ∈ act, memNat t.hbm (home i) size =
          amoNew (amoCode f.op) dbl (memNat s.hbm (home i) size) (x.get i) % 2 ^ (8 * size))
      ∧ (∀ a, (∀ i ∈ act, a < home i ∨ home i + size ≤ a) → memByte t.hbm a = memByte s.hbm a)
      ∧ t.bus = s.bus ∧ t.dev = (if sys then zeroReads s b.pcie else s).dev ∧ SameOthers s t id

/-- FENCE, FENCE.st, WMPUB and WMWAIT (R183 to R185, R193, R377 to R379, R468 to R470): a FENCE without any order raises
ILLEGAL_INSTR, and a release drains the buffer, at system scope with a zero-length read to each PCIe target written (R175; that
it is answered at once is the model's choice, log 67).
FENCE.st waits for the storage cards it covers, and .durable for a Flush
of each pair of namespace and queue; the lowest failing sequence number raises STORAGE_ERROR. WMPUB never lowers the
pending mark; WMWAIT waits until the task's mark has reached the bound, and a handle that names no task raises PERM. A task that
has ended counts as 2^64 − 1 (the model's reading, log 37). -/
def Obligations.FencesAndWatermarks : Prop :=
  (∀ (s : State) (id : BlkId) (b : Block), Acts s id b →
    (∀ sc, Traps (.fence sc .relaxed) s id b ⟨.illegalInstr, true, false, 0, 0⟩)
    ∧ (∀ sc, Completes (.fence sc .acq) s id b)
    ∧ (∀ sc, ∀ o ∈ [MemOrder.rel, .ar],
        (b.sbuf = [] → sc ≠ .sys → Completes (.fence sc o) s id b)
        ∧ (b.sbuf = [] → sc = .sys → exec (.fence sc o) s
            = .next (setBlock (zeroReads s b.pcie) id (({ b with pcie := [] } : Block).done (b.pc + 4))))
        ∧ (∀ s1 b1, release s id b = .done s1 b1 → sc ≠ .sys →
            exec (.fence sc o) s = .next (setBlock s1 id (b1.done (b1.pc + 4))))
        ∧ ∀ s1 b1 va c, release s id b = .down s1 b1 va c →
            exec (.fence sc o) s = .next (takeTrap s1 id b1 ⟨c, true, false, 0, BitVec.ofNat 64 va⟩))
    ∧ (∀ durable,
      let cov := b.cardRecs.filter fun r => decide (b.covered < r.seq) && (r.opc == some 1 || r.opc == some 9)
      let bad (r : CardRec) : Prop := ∃ n, r.status = some n ∧ n ≠ 0
      let closed : Block := { b with covered := b.cardSeq, flushes := [] }
      ((∃ r ∈ cov, r.status = none) → Waits (.fenceSt durable) s id b)
      ∧ ((∀ r ∈ cov, r.status ≠ none) → (∀ f ∈ b.flushes, f.status ≠ none) →
          (durable = true → ∀ r ∈ cov, ∃ f ∈ b.flushes, f.nsid = r.nsid ∧ f.qp = r.qp) →
          ((∀ r ∈ cov, ¬ bad r) → (∀ f ∈ b.flushes, f.status = some 0) → Completes (.fenceSt durable) s id closed)
          ∧ ∀ r ∈ cov, bad r → (∀ r' ∈ cov, bad r' → r.seq ≤ r'.seq) →
              Traps (.fenceSt durable) s id { closed with fenceSeq := r.seq } ⟨.storageError, true, false, 0, 0⟩)
      ∧ (durable = true → (∀ r ∈ cov, r.status ≠ none) → ∀ r ∈ cov, (∀ f ∈ b.flushes, f.nsid = r.nsid → f.qp ≠ r.qp) →
          ∃ t b', exec (.fenceSt durable) s = .next t ∧ getBlock t id = some b' ∧ b'.waiting = true ∧ b'.pc = b.pc
            ∧ (∃ f ∈ b'.flushes, f.nsid = r.nsid ∧ f.qp = r.qp ∧ f.status = none)
            ∧ ∃ k ∈ (getPolder t id.p).cards, k.ctx = id.ctx ∧ k.seq = 0 ∧ k.data = flushData r.nsid r.qp))
    ∧ (∀ r, Unmarked b.core true [r] →
        let v := regGet b.core true r
        Completes (.wmpub r) s id { b with core := { b.core with wmPend := if b.core.wmPend.toNat < v.toNat then v else b.core.wmPend } })
    ∧ ∀ x k c t, Unmarked b.core true [x, k] → taskOf s id b = some (c, t) →
      let n := (regGet b.core true x).toNat
      (namesTask s c n = false → Traps (.wmwait x k) s id b ⟨.perm, true, false, 0, 0⟩)
      ∧ (namesTask s c n = true → (regGet b.core true k).toNat ≤ taskMark s c n → Completes (.wmwait x k) s id b)
      ∧ (namesTask s c n = true → taskMark s c n < (regGet b.core true k).toNat → Waits (.wmwait x k) s id b))
  ∧ ∀ (s : State) (c n : Nat) (t : Task), getTask s c n = some t →
    (t.ended.isSome = true → taskMark s c n = 2 ^ 64 - 1)
    ∧ (t.ended = none → t.placed < t.nblocks → taskMark s c n = 0)
    ∧ (t.ended = none → t.nblocks ≤ t.placed → taskMark s c n ≤ 2 ^ 64 - 1
        ∧ (∀ x ∈ taskBlocks s c n, taskMark s c n ≤ blockMark x)
        ∧ (taskMark s c n = 2 ^ 64 - 1 ∨ ∃ x ∈ taskBlocks s c n, taskMark s c n = blockMark x))

/-! ### Engines and translations -/

/-- ENGB (R209, R213, R366), with nothing buffered: when the first active row does not fault, the rows are taken in
ascending order; an accepted one takes the next sequence number and joins the polder's cards; the predicate names the
accepted rows, the register takes the last sequence number if any was accepted, and every row has its reason: that of its own
card (`rowReason`), but FULL where the cards accepted before it leave no room, and the reason of an earlier row that faults or
finds no room for every row behind it. -/
def Obligations.EngineBatch : Prop :=
  ∀ (s : State) (id : BlkId) (b : Block) (t : TileCode) (pd pg : PredNo) (r : RegNo), Acts s id b → b.sbuf = [] →
    t.toNat < 28 → tileOk b.grantc b.core t.toNat = true →
    let h := srcRec b.core t
    let x := tileSrc b.core t.toNat
    let act := (upTo h.gr).filter (predBit b.core pg)
    ((h.g ≠ 0 ∨ h.gc * typeWidth h.ty < 512) → Traps (.engb t pd r pg) s id b ⟨.shapeMismatch, true, false, 0, 0⟩)
    ∧ (h.g = 0 → 512 ≤ h.gc * typeWidth h.ty → (∀ i ∈ act, ∀ k, k < h.gc → x.mark (i * h.gc + k) = none) → NoDead b.core [x] (act.map (· * h.gc)) →
      (∀ k, engbFirst s id b x act = some k → Traps (.engb t pd r pg) s id b k)
      ∧ (engbFirst s id b x act = none → ∃ (u : State) (b' : Block) (acc : List Nat) (cs : List Card),
        exec (.engb t pd r pg) s = .next u ∧ getBlock u id = some (b'.done (b.pc + 4))
        ∧ (∀ i ∈ acc, i ∈ act) ∧ acc.Pairwise (· < ·)
        ∧ b'.cardSeq = b.cardSeq + acc.length ∧ b'.engRows.length = h.gr
        ∧ (∀ i, i < h.gr → (b'.engRows[i]? = some 0 ↔ i ∈ acc))
        ∧ (∀ i, i < h.gr → predBit b.core pg i = false → b'.engRows[i]? = some 1)
        ∧ (∀ i ∈ act,
          let ends (j : Nat) : Prop := j ∈ act ∧ j < i
            ∧ (b'.engRows[j]? = some (reasonCode .faultBehind) ∨ b'.engRows[j]? = some (reasonCode .full))
          let n := (acc.filter fun j => decide (j < i)).length
          let noRoom : Prop := 4096 ≤ (getPolder s id.p).cards.length + n ∨ 2 ^ 40 - 1 ≤ b.cardSeq + n
          (∀ j, ends j → b'.engRows[i]? = b'.engRows[j]?)
          ∧ ((∀ j, ¬ ends j) → match rowReason s id b (cardRow x i) with
            | .error _ => b'.engRows[i]? = some (reasonCode .faultBehind)
            | .ok .accepted => (noRoom → b'.engRows[i]? = some (reasonCode .full))
                ∧ (¬ noRoom → b'.engRows[i]? = some (reasonCode .accepted))
            | .ok r => b'.engRows[i]? = some (reasonCode r)))
        ∧ (pd ≠ 0 → ∀ i, predBit b'.core pd i = acc.contains i)
        ∧ (r ≠ 0 → regGet b'.core true r = if acc = [] then regGet b.core true r else BitVec.ofNat 64 (b.cardSeq + acc.length))
        ∧ (getPolder u id.p).cards = (getPolder s id.p).cards ++ cs ∧ cs.map Card.data = acc.map (cardRow x)
        ∧ cs.map Card.seq = (upTo acc.length).map (b.cardSeq + 1 + ·)
        ∧ b'.core.tiles = b.core.tiles ∧ SameOutside s u ∧ SameOthers s u id))

/-- ENGW, ENGW.chk and ENGQ (R212, R213, R367, R368): ENGW waits until the cards up to the bound have completed and writes
the lowest of their sequence numbers that failed, or 0; .chk then raises ENGINE_FAULT where one failed, the register
written. ENGQ reports a row's reason, a card's status and bytes, and the number of FENCE.st. -/
def Obligations.EngineQueries : Prop :=
  ∀ (s : State) (id : BlkId) (b : Block) (d a : RegNo), Acts s id b → Unmarked b.core true [a] →
    let v := (regGet b.core true a).toNat
    let writes (n : Nat) : Block := { b with core := regSet b.core true d (BitVec.ofNat 64 n) }
    Completes (.engqRow d a) s id (writes (b.engRows.getD (v % 256) 1))
    ∧ (∀ r, b.cardRecs.find? (fun r => r.seq == v % 2 ^ 40) = some r → ∀ st, r.status = some st →
        Completes (.engqCard d a) s id (writes (r.bytes % 2 ^ 40 * 2 ^ 24 + r.nvst % 65536 * 256 + st % 16)))
    ∧ ((∀ r ∈ b.cardRecs, r.seq = v % 2 ^ 40 → r.status = none) → Completes (.engqCard d a) s id (writes 15))
    ∧ Completes (.engqFence d) s id (writes b.fenceSeq)
    ∧ (let bound := v % 2 ^ 40
       let bad (r : CardRec) : Prop := r ∈ b.cardRecs ∧ r.seq ≤ bound ∧ ∃ n, r.status = some n ∧ n ≠ 0
       (cardsDone b < bound → Waits (.engw d a) s id b ∧ Waits (.engwChk d a) s id b)
       ∧ (bound ≤ cardsDone b → (∀ r ∈ b.cardRecs, 0 < r.seq) →
          ((∀ r, ¬ bad r) → Completes (.engw d a) s id (writes 0) ∧ Completes (.engwChk d a) s id (writes 0))
          ∧ ∀ r, bad r → (∀ r', bad r' → r.seq ≤ r'.seq) → Completes (.engw d a) s id (writes r.seq)
            ∧ Traps (.engwChk d a) s id (writes r.seq) ⟨.engineFault, true, false, 0, 0⟩))

/-- TLBINV (R447, R448, R152), where no block of the polder has a buffered store: once no access that was translated through
the named pages is to be performed, the cached translations of the block's root that map a byte of them go, every other one
stays, and so do memory and the blocks. A card with such an access makes it wait, begun. TLBINV.s2 and TLBINV of a firmware core
drop every translation of its polder, and beside them the step leaves no other trace than the core's next address (R148, R153,
R369; that a firmware's TLBINV drops them all is the model's choice, log 80). -/
def Obligations.TranslationInvalidate : Prop :=
  (∀ (s : State) (id : BlkId) (b : Block) (x k : RegNo), Acts s id b → Unmarked b.core true [x, k] → b.status = .resident →
    (∀ e ∈ (getPolder s id.p).blocks, e.2.sbuf = []) →
    let va := (regGet b.core true x).toNat
    let n := (regGet b.core true k).toNat
    let page := va / 65536 % 2 ^ 39
    let root := (blockAcc s id b).root
    let uses (c : Card) : Prop := c.root = root ∧ ∃ r ∈ c.rdPa ++ c.wrPa, inPages va n r.va = true
    ((∀ c ∈ (getPolder s id.p).cards, ¬ uses c) → (∀ o ∈ s.dev.outstanding, match o.who with
          | .block p y => p = id.p → y ≠ id.ctx → ∀ d, getBlock s ⟨p, y⟩ = some d → (blockAcc s ⟨p, y⟩ d).root ≠ root
          | .ahead p y _ | .feed p y _ => p = id.p → ∀ d, getBlock s ⟨p, y⟩ = some d → (blockAcc s ⟨p, y⟩ d).root ≠ root
          | .packet p _ | .gone p => p ≠ id.p
          | .card _ _ => True) →
      ∃ t, exec (.tlbinv x k) s = .next t ∧ getBlock t id = some (b.done (b.pc + 4)) ∧ SameOutside s t ∧ SameOthers s t id
        ∧ ∀ e, e ∈ (getPolder t id.p).tlb ↔ e ∈ (getPolder s id.p).tlb ∧ ¬ (e.root = root
            ∧ (n = 0 ∨ (e.va < (page + n) * 65536 ∧ page * 65536 < e.va + 2 ^ e.log))))
    ∧ ((∃ c ∈ (getPolder s id.p).cards, uses c) → ∃ t, exec (.tlbinv x k) s = .next t
        ∧ getBlock t id = some { b with waiting := true, begun := true } ∧ SameOutside s t ∧ SameOthers s t id
        ∧ (getPolder t id.p).tlb = (getPolder s id.p).tlb))
  ∧ ∀ (s : State) (p : PolderNo) (sched : Bool) (w : Word32) (i : Instr), decode w = .ok i →
      (i = .tlbinvS2 ∨ ∃ x k, i = .tlbinv x k) →
      let x := getFw s p.toNat sched
      fwStep p sched w s = .next (updPolder s p.toNat fun y =>
        { y with fw := vset y.fw (if sched then 1 else 0) { x with pc := x.pc + 4 }, tlb := [] })

/-! ### Tile operands and elementwise instructions -/

/-- Operand forms (R46, R64, R45): a tile operand reads in place, the rows of a group running through its tiles; a queue in a
source field gives its oldest row-blocks, which leave it; the same queue named twice is popped once; one that holds too
little stops the instruction, which waits. -/
def Obligations.OperandForms : Prop :=
  ∀ (c : Machine.Core) (t : TileCode),
    (t.toNat < 28 → takeSrcs c [t] [] = some (c, [tileSrc c t.toNat])
      ∧ ∀ i, let h := recN c (vget 0 c.bindT t.toNat)
        let r := i / h.gc
        (tileSrc c t.toNat).get i = (getTile c (t.toNat + r / h.gr)).elem (r % h.gr) (i % h.gc))
    ∧ (28 ≤ t.toNat →
      let q := vget ⟨[], 0⟩ c.lq (t.toNat - 28)
      let n := recElems (recN c (vget 0 c.bindL (t.toNat - 28)))
      let popped : Machine.Core := { c with lq := vset c.lq (t.toNat - 28) { q with elems := q.elems.drop n } }
      (q.elems.length < n → takeSrcs c [t] [] = none ∧ takeSrcs c [t, t] [] = none)
      ∧ (n ≤ q.elems.length → ∃ x, takeSrcs c [t] [] = some (popped, [x]) ∧ takeSrcs c [t, t] [] = some (popped, [x, x])
          ∧ ∀ i, i < n → (q.elems[i]?.map QElem.bits) = some (x.get i)))
    ∧ ∀ (s : State) (id : BlkId) (b : Block) (f : FmtTT), ActsFree s id b → ttCheck b isNum f false = none →
      takeSrcs b.core [f.ta, f.tb] [] = none → (∀ k : Fin 4, (b.core.feeds[k]).cur = none) →
      exec (.tadd f) s = .next (setBlock s id { b with waiting := true, need := srcNeed b.core [f.ta, f.tb] })

/-- Majors 0x20 to 0x22 (R422 to R424, R429, R440 to R444): each elementwise instruction writes its operation of the
operands' elements to every active element of the destination and nothing else, raising only its flags; TCLAMP and the
fused forms also read the destination. An operand or type that R64, R69 and R97 refuse raises SHAPE_INVALID or
SHAPE_MISMATCH; in a strip whose grant is 0 × 0 no operand changes (R74). The elements of the integer types (R86, R87), at width w and with operands below 2^w: results wrap, the
signed types compare as two's complement, a shift takes its amount modulo w, the absolute value of the most negative
number is itself, and no flag is raised; the logical operations work on bits at every type. -/
def Obligations.ElementwiseResults : Prop :=
  (∀ (s : State) (id : BlkId) (b : Block), ActsFree s id b →
     (∀ (f : FmtTT) (c : Machine.Core) (x y : Src), takeSrcs b.core [f.ta, f.tb] [] = some (c, [x, y]) →
       let ty := (dstRec c f.td).ty
       (∀ e ∈ ([(.tadd f, .add, isNum), (.tsub f, .sub, isNum), (.tmul f, .mul, isNum), (.tdiv f, .div, isFp),
           (.tmin f, .min, isNum), (.tmax f, .max, isNum), (.tand f, .and, anyType), (.tor f, .or, anyType),
           (.txor f, .xor, anyType), (.tshl f, .shl, isInt), (.tshr f, .shr, isInt), (.tsra f, .sra, isInt)] :
             List (Instr × TOp × (ElemType → Bool))),
         (∀ cause, ttCheck b e.2.2 f false = some cause → Traps e.1 s id b ⟨cause, false, false, 0, 0⟩)
         ∧ (ttCheck b e.2.2 f false = none → Elementwise e.1 s id b c f.td f.g [x, y] fun _ v =>
             elemOp e.2.1 ty c.fmode (v.getD 0 0) (v.getD 1 0) 0))
       ∧ ∀ e ∈ ([(.tclamp f, .clamp, isNum), (.tfma f, .fma, isFp), (.tfms f, .fms, isFp), (.tfnma f, .fnma, isFp)] :
             List (Instr × TOp × (ElemType → Bool))),
         (∀ cause, ttCheck b e.2.2 f true = some cause → Traps e.1 s id b ⟨cause, false, false, 0, 0⟩)
         ∧ (ttCheck b e.2.2 f true = none → Elementwise e.1 s id b c f.td f.g [x, y, tileSrc c f.td.toNat] fun _ v =>
             elemOp e.2.1 ty c.fmode (v.getD 0 0) (v.getD 1 0) (v.getD 2 0)))
     ∧ ∀ (f : FmtTTu) (c : Machine.Core) (x : Src), takeSrcs b.core [f.ta] [] = some (c, [x]) →
       ∀ e ∈ ([(.tsqrt f, .sqrt, isFp), (.trsq f, .rsq, isFp), (.trcp f, .rcp, isFp), (.texp2 f, .exp2, isFp),
           (.tlog2 f, .log2, isFp), (.tabs f, .abs, isNum), (.tneg f, .neg, isNum), (.tnot f, .not, anyType)] :
             List (Instr × TOp × (ElemType → Bool))),
         (∀ cause, ttuCheck b e.2.2 f = some cause → Traps e.1 s id b ⟨cause, false, false, 0, 0⟩)
         ∧ (ttuCheck b e.2.2 f = none → Elementwise e.1 s id b c f.td f.g [x] fun _ v =>
             elemOp e.2.1 (dstRec c f.td).ty c.fmode (v.getD 0 0) 0 0))
  ∧ (∀ (t : ElemType) (fm : Word64) (x y z : Nat), x < 2 ^ typeWidth t → y < 2 ^ typeWidth t → z < 2 ^ typeWidth t →
      let w := typeWidth t
      let X := BitVec.ofNat w x
      let Y := BitVec.ofNat w y
      let gives (op : TOp) (r : BitVec w) : Prop := elemOp op t fm x y z = (r.toNat, 0)
      gives .and (X &&& Y) ∧ gives .or (X ||| Y) ∧ gives .xor (X ^^^ Y) ∧ gives .not (~~~X)
      ∧ (isInt t = true →
        gives .add (X + Y) ∧ gives .sub (X - Y) ∧ gives .mul (X * Y) ∧ gives .neg (-X)
        ∧ gives .abs (if isSigned t = true ∧ X.toInt < 0 then -X else X)
        ∧ gives .min (if (if isSigned t then decide (Y.toInt < X.toInt) else decide (y < x)) then Y else X)
        ∧ gives .max (if (if isSigned t then decide (X.toInt < Y.toInt) else decide (x < y)) then Y else X)
        ∧ gives .shl (X <<< (y % w)) ∧ gives .shr (X >>> (y % w)) ∧ gives .sra (X.sshiftRight (y % w))
        ∧ (isSigned t = true → X.toInt ≤ Y.toInt →
            gives .clamp (if (BitVec.ofNat w z).toInt < X.toInt then X
              else if Y.toInt < (BitVec.ofNat w z).toInt then Y else BitVec.ofNat w z))))

/-- TCMP, TSEL, TCVT, TQNT and TDQ (R74, R81, R434 to R436, R439, R449 to R451, R460): TCMP writes one predicate bit for each
element, zero where inactive, so that a strip without elements clears them all, also where it names a queue; TSEL takes each element from one of its operands; TCVT and TDQ convert each element; TQNT scales a
block of 32 by the code that its largest magnitude gives, and writes elements and codes. -/
def Obligations.ConversionResults : Prop :=
  ∀ (s : State) (id : BlkId) (b : Block) (c : Machine.Core), ActsFree s id b →
    (∀ (f : FmtTcmp) (x y : Src), takeSrcs b.core [f.ta, f.tb] [] = some (c, [x, y]) →
      let h := srcRec c f.ta
      let act := activeIx c f.g (recElems h)
      let r (i : Nat) : Bool × Nat := cmpElem f.cc h.ty c.fmode (x.get i) (y.get i)
      let fl := flagsOf act fun i => (r i).2
      (∀ cause, tcmpCheck b f = some cause → Traps (.tcmp f) s id b ⟨cause, false, false, 0, 0⟩)
      ∧ (tcmpCheck b f = none → b.core.gr = 0 → (28 ≤ f.ta.toNat ∨ 28 ≤ f.tb.toNat) →
          Completes (.tcmp f) s id { b with core := setPred b.core f.pd 0 })
      ∧ (tcmpCheck b f = none → (c.gr ≠ 0 ∨ (f.ta.toNat < 28 ∧ f.tb.toNat < 28)) →
          NoDead c [x, y] act → NoMarks [x, y] act → NoTrapFlags c fl → ∃ p,
          Completes (.tcmp f) s id { b with core := { setPred c f.pd p with fstat := c.fstat ||| BitVec.ofNat 64 fl } }
          ∧ ∀ i, bit p i = (act.contains i && (r i).1)))
    ∧ (∀ (f : FmtTT) (x y : Src), takeSrcs b.core [f.ta, f.tb] [] = some (c, [x, y]) → ttCheck b isNum f false = none →
      let n := recElems (dstRec c f.td)
      let pick (i : Nat) : Src := if isActive c f.g i then x else y
      (∀ i, i < n → NoDead c [pick i] [i]) → DstReady b c f.td →
        WritesDst (.tsel f) s id b c f.td (fun _ => true) (fun i => (pick i).get i) 0)
    ∧ (∀ (f : FmtTTu) (x : Src), takeSrcs b.core [f.ta] [] = some (c, [x]) →
      let d := (dstRec c f.td).ty
      let k := (srcRec c f.ta).ty
      (∀ ins ok td ts, (ins, ok, td, ts) ∈ ([(.tcvt f, tcvtTypes, false, false), (.tqnt f, tqntTypes, true, false),
          (.tdq f, tdqTypes, false, true)] : List (Instr × (ElemType → ElemType → Bool) × Bool × Bool)) →
        ∀ cause, cvtCheck b ok f td ts = some cause → Traps ins s id b ⟨cause, false, false, 0, 0⟩)
      ∧ (cvtCheck b tcvtTypes f false false = none → Elementwise (.tcvt f) s id b c f.td f.g [x] fun i v =>
          cvtElem (cvtEnv b (isStoch d) i) k d (v.getD 0 0))
      ∧ (cvtCheck b tdqTypes f false true = none → Elementwise (.tdq f) s id b c f.td f.g [x] fun i v =>
          fToF ((fmtOf d).getD fmtF32) (fenv c.fmode)
            (mxVal k (v.getD 0 0) (x.scale (i / (srcRec c f.ta).gc) (i % (srcRec c f.ta).gc / 32))))
      ∧ (cvtCheck b tqntTypes f true false = none →
        let h := dstRec c f.td
        let act := activeIx c f.g (recElems h)
        let val (i : Nat) : FVal := ((fmtOf k).getD fmtF32).val (flag c.fmode 3) (x.get i)
        let cols (r q : Nat) : List Nat := act.filter fun i => i / h.gc == r && i % h.gc / 32 == q
        let scale (r q : Nat) : Nat × Int := blockScale d ((cols r q).map val)
        let env (i : Nat) : FEnv := cvtEnv b (decide (d = .mx8e4) || decide (d = .mx8e5)) i
        let res (i : Nat) : FRes := quantElem d (env i) (scale (i / h.gc) (i % h.gc / 32)).2 (val i)
        let fl := flagsOf act fun i => (res i).2
        NoDead c [x] act → NoMarks [x] act → NoTrapFlags c fl → DstReady b c f.td → ∃ c',
          Completes (.tqnt f) s id { b with core := { c' with fstat := c'.fstat ||| BitVec.ofNat 64 fl } }
          ∧ TileWritten c c' f.td (isActive c f.g) (fun i => (res i).1)
          ∧ ∀ i ∈ act, (tileSrc c' f.td.toNat).scale (i / h.gc) (i % h.gc / 32) = (scale (i / h.gc) (i % h.gc / 32)).1))

/-- Moves (R430, R445, R446, R457 to R459, R360 to R362, R370, R371): each active element of the destination takes the
element of the source that the instruction names, or zero beyond a row's end for TSLD. CMPRS packs the active elements and
counts them, none in a strip whose grant is 0 × 0 (R74); EXPND is its inverse. -/
def Obligations.MoveResults : Prop :=
  ∀ (s : State) (id : BlkId) (b : Block) (c : Machine.Core), ActsFree s id b →
    (∀ f : FmtTTs, Unmarked b.core false [f.sm] → DstReady b b.core f.td →
      let v := (regGet b.core false f.sm).toNat
      let w := typeWidth (dstRec b.core f.td).ty
      (ttsCheck b (fun t => !isMx t) f = none →
        WritesDst (.tspl f) s id b b.core f.td (isActive b.core f.g) (fun _ => v % 2 ^ w) 0)
      ∧ (ttsCheck b isInt f = none →
        WritesDst (.tiota f) s id b b.core f.td (isActive b.core f.g) (fun i => (v + i) % 2 ^ w) 0))
    ∧ (∀ (f : FmtTTu) (x : Src), takeSrcs b.core [f.ta] [] = some (c, [x]) → ttuCheck b anyType f = none →
      NoDead c [x] (activeIx c f.g (recElems (dstRec c f.td))) → DstReady b c f.td →
        WritesDst (.tmov f) s id b c f.td (isActive c f.g) x.get 0)
    ∧ (∀ f : FmtPerm, packCheck b f.td f.ta f.g = none → b.core.gr = 0 → (28 ≤ f.ta.toNat ∨ 28 ≤ f.td.toNat) →
      Completes (.cmprs f) s id { b with core := regSet b.core false f.tb 0 })
    ∧ (∀ (f : FmtPerm) (x : Src), takeSrcs b.core [f.ta] [] = some (c, [x]) → DstReady b c f.td →
      let h := dstRec c f.td
      let ha := srcRec c f.ta
      let act := activeIx c f.g (recElems h)
      let m := (regGet b.core false f.tb).toInt
      let moves (i : Instr) (from_ : Nat → Option Nat) : Prop := (∀ k ∈ act, ∀ j, from_ k = some j → NoDead c [x] [j]) →
        WritesDst i s id b c f.td (isActive c f.g) (fun k => ((from_ k).map x.get).getD 0) 0
      (Unmarked b.core false [f.tb] →
        (permCheck b f.td [f.ta] f.g true false (h.ty ≠ ha.ty || h.gc ≠ ha.gc) = none → recRows ha ≠ 0 →
          moves (.tbcr f) fun k => some ((regGet b.core false f.tb).toNat % recRows ha * ha.gc + k % h.gc))
        ∧ (slideCheck b f = none →
          moves (.tsld f) (fun k => let j : Int := ((k % h.gc : Nat) : Int) + m
            if 0 ≤ j ∧ j < h.gc then some (k - k % h.gc + j.toNat) else none)
          ∧ moves (.trot f) fun k => some (k - k % h.gc + ((((k % h.gc : Nat) : Int) + m) % (h.gc : Int)).toNat)))
      ∧ (packCheck b f.td f.ta f.g = none → NoDead c [x] act → ∃ c', Completes (.cmprs f) s id
          { b with core := { regSet c' false f.tb (BitVec.ofNat 64 act.length) with fstat := c'.fstat } }
          ∧ TileWritten c c' f.td (fun k => decide (k < act.length)) fun k => ((act[k]?).map x.get).getD 0))
    ∧ (∀ (f : FmtPermU) (x : Src), takeSrcs b.core [f.ta] [] = some (c, [x]) → DstReady b c f.td →
      let h := dstRec c f.td
      let ha := srcRec c f.ta
      let act := activeIx c f.g (recElems h)
      (permCheck b f.td [f.ta] f.g false (h.g ≠ 0 || ha.g ≠ 0) (h.ty ≠ ha.ty || isMx h.ty || h.gr ≠ ha.gc || h.gc ≠ ha.gr) = none →
        NoDead c [x] (act.map fun i => i % h.gc * ha.gc + i / h.gc) →
        WritesDst (.ttrn f) s id b c f.td (isActive c f.g) (fun i => x.get (i % h.gc * ha.gc + i / h.gc)) 0)
      ∧ (packCheck b f.td f.ta f.g = none → NoDead c [x] (upTo act.length) →
        WritesDst (.expnd f) s id b c f.td (isActive c f.g)
          (fun i => x.get ((upTo i).countP fun j => isActive c f.g j)) 0))
    ∧ ∀ (f : FmtPerm) (x y : Src), takeSrcs b.core [f.ta, f.tb] [] = some (c, [x, y]) → DstReady b c f.td →
      let h := dstRec c f.td
      let hx := srcRec c f.tb
      let act := activeIx c f.g (recElems h)
      let j (i : Nat) : Nat := i - i % h.gc + (intVal hx.ty (y.get i) % (h.gc : Int)).toNat
      permCheck b f.td [f.ta, f.tb] f.g false false (h.ty ≠ (srcRec c f.ta).ty || isMx h.ty || !sameExtent h (srcRec c f.ta)
          || !sameExtent h hx || !isInt hx.ty) = none →
        NoDead c [y] act → NoMarks [y] act → NoDead c [x] (act.map j) →
        WritesDst (.tshf f) s id b c f.td (isActive c f.g) (fun i => x.get (j i)) 0

/-- TSORT and TSRCH (R461, R462): the active elements of a row are put in ascending order of R461, which is a permutation of
them; TSRCH gives the first column of tb's row whose element is not below ta's, or GC. -/
def Obligations.SortAndSearch : Prop :=
  ∀ (s : State) (id : BlkId) (b : Block) (c : Machine.Core), ActsFree s id b →
    (∀ (f : FmtPermU) (x : Src), takeSrcs b.core [f.ta] [] = some (c, [x]) → DstReady b c f.td →
      let h := dstRec c f.td
      let act := activeIx c f.g (recElems h)
      permCheck b f.td [f.ta] f.g false false (!isNum h.ty || !agree h (srcRec b.core f.ta)) = none →
      NoDead c [x] act → NoMarks [x] act → ∃ v : Nat → Nat, WritesDst (.tsort f) s id b c f.td (isActive c f.g) v 0
        ∧ ∀ r, let row := act.filter fun i => i / h.gc == r
          (row.map v).Perm (row.map x.get) ∧ (row.map v).Pairwise fun p q => orderKey h.ty false p ≤ orderKey h.ty false q)
    ∧ ∀ (f : FmtPerm) (x y : Src), takeSrcs b.core [f.ta, f.tb] [] = some (c, [x, y]) → DstReady b c f.td →
      let h := dstRec c f.td
      let ha := srcRec c f.ta
      let act := activeIx c f.g (recElems h)
      permCheck b f.td [f.ta, f.tb] f.g false false (h.ty ≠ .n32 || !isNum ha.ty || !agree ha (srcRec b.core f.tb)
          || !sameExtent h ha) = none →
      NoDead c [x] act → NoMarks [x] act → NoDead c [y] (upTo (recElems h)) → NoMarks [y] (upTo (recElems h)) →
      ∃ v : Nat → Nat, WritesDst (.tsrch f) s id b c f.td (isActive c f.g) v 0 ∧ ∀ i ∈ act,
        let key (j : Nat) : Int := orderKey ha.ty (flag c.fmode 3) (y.get (i - i % h.gc + j))
        let k := orderKey ha.ty (flag c.fmode 3) (x.get i)
        v i ≤ h.gc ∧ (∀ j, j < v i → key j < k) ∧ (v i < h.gc → k ≤ key (v i))

/-! ### Reductions and predicates -/

/-- TRED, TREDO, TREDB and TSCAN (R103 to R105, R454 to R456): each row with an active element gets the reduction of its active
elements in column 0, and TSCAN the running values; on integer types a sum is the sum modulo 2^w whatever the order, so
the three kinds agree, and minimum and maximum are elements of the row that no active one passes. -/
def Obligations.ReductionResults : Prop :=
  ∀ (s : State) (id : BlkId) (b : Block) (c : Machine.Core) (f : FmtPermU) (op : RedOp) (x : Src), ActsFree s id b →
    takeSrcs b.core [f.ta] [] = some (c, [x]) → DstReady b c f.td →
    let h := dstRec c f.td
    let ha := srcRec c f.ta
    let act := activeIx c f.g (recElems ha)
    let row (r : Nat) : List Nat := act.filter fun i => i / ha.gc == r
    NoDead c [x] act → NoMarks [x] act →
    (redCheck b f false = none →
      ∀ e ∈ ([(.tred f op, .tree), (.tredo f op, .ordered), (.tredb f op, .block)] : List (Instr × RedKind)),
      let res (r : Nat) : Nat × Nat := reduceRow e.2 op h.ty c.fmode (rowLeaves c f.g x ha.gc r)
      let fl := flagsOf ((upTo (recRows h)).filter fun r => !(row r).isEmpty) fun r => (res r).2
      NoTrapFlags c fl →
        WritesDst e.1 s id b c f.td (fun r => !(row r).isEmpty) (fun r => (res r).1) fl
        ∧ (isInt h.ty = true → (∀ i, x.get i < 2 ^ typeWidth h.ty) → ∀ r, r < recRows h → row r ≠ [] → (res r).2 = 0
            ∧ (op = .add → (res r).1 = ((row r).map x.get).foldl (· + ·) 0 % 2 ^ typeWidth h.ty)
            ∧ (op = .min → (∃ i ∈ row r, (res r).1 = x.get i)
                ∧ ∀ i ∈ row r, intVal h.ty (res r).1 ≤ intVal h.ty (x.get i))
            ∧ (op = .max → (∃ i ∈ row r, (res r).1 = x.get i)
                ∧ ∀ i ∈ row r, intVal h.ty (x.get i) ≤ intVal h.ty (res r).1)))
    ∧ (redCheck b f true = none →
      let before (i : Nat) : List Nat := (row (i / ha.gc)).filter fun j => decide (j ≤ i)
      let run (i : Nat) : Nat × Nat := (before i).foldl (fun a j => combine op h.ty c.fmode (a.1, 0) (x.get j, 0)) (redIdent op h.ty, 0)
      let fl := flagsOf act fun i => (run i).2
      NoTrapFlags c fl → WritesDst (.tscan f op) s id b c f.td (isActive c f.g) (fun i => (run i).1) fl)

/-- The predicate family (R402, R403, R62, R81): below the length of the strip grant, at most 65,536, an active bit of the
result is that of the operation and every other bit is zero; p0 discards it. PCNT counts the active ones and PFF gives the
lowest, or gr × gc. LRET, LSKIP, MAP and MAPR (R55, R56, R391 to R394): in a function LRET ends with v1 and v2, a skip
moves on by one or by one more than its count, and any other instruction of R56 writes a register below 16; outside one
the three raise ILLEGAL_INSTR. MAP runs the function for each active element on those of ta, tb and its own destination,
and truncates the results; MAPR folds each row. -/
def Obligations.PredicatesAndLanes : Prop :=
  (∀ (s : State) (id : BlkId) (b : Block), ActsFree s id b →
     let n := Nat.min (b.core.gr * b.core.gc) 65536
     let p (k : PredNo) (i : Nat) : Bool := predBit b.core k i
     let writes (i : Instr) (pd : PredNo) (g : Guard) (v : Nat → Bool) : Prop := ∃ x,
       Completes i s id { b with core := setPred b.core pd x }
       ∧ ∀ k, bit x k = (decide (k < n) && (p g.pg k != g.pn) && v k)
     (∀ f : FmtPred, writes (.pand f) f.pd f.g (fun k => p f.pa k && p f.pb k)
       ∧ writes (.por f) f.pd f.g (fun k => p f.pa k || p f.pb k) ∧ writes (.pxor f) f.pd f.g (fun k => p f.pa k != p f.pb k))
     ∧ (∀ f : FmtPredU, writes (.pnot f) f.pd f.g fun k => !p f.pa k)
     ∧ (∀ pd sa g, Unmarked b.core false [sa] → writes (.pset pd sa g) pd g fun k => decide (k < (regGet b.core false sa).toNat))
     ∧ ∀ (sd : RegNo) (pa : PredNo) (g : Guard),
       let ones := (upTo n).filter fun k => (p g.pg k != g.pn) && p pa k
       Completes (.pcnt sd pa g) s id { b with core := regSet b.core false sd (BitVec.ofNat 64 ones.length) }
       ∧ ∃ v, Completes (.pff sd pa g) s id { b with core := regSet b.core false sd (BitVec.ofNat 64 v) }
         ∧ (ones = [] → v = b.core.gr * b.core.gc) ∧ (ones ≠ [] → v ∈ ones ∧ ∀ k ∈ ones, v ≤ k))
  ∧ ((∀ (fm : Word64) (code : List Instr) (marks : RegNo → Option Mark) (n ix fl : Nat) (v : RegFile),
      (code[ix]? = some .lret → laneRun fm code marks (n + 1) ix v fl = .done (rget v 1) (rget v 2) fl)
      ∧ (∀ a k, code[ix]? = some (.lskipNz a k) → marks a = none → laneRun fm code marks (n + 1) ix v fl
          = laneRun fm code marks n (if rget v a ≠ 0 then ix + 1 + k.toNat else ix + 1) v fl)
      ∧ (∀ a k, code[ix]? = some (.lskipZ a k) → marks a = none → laneRun fm code marks (n + 1) ix v fl
          = laneRun fm code marks n (if rget v a = 0 then ix + 1 + k.toNat else ix + 1) v fl)
      ∧ (∀ f : FmtSR, code[ix]? = some (.add f) → f.side = false → f.rd.toNat < 16 → marks f.rs1 = none → marks f.rs2 = none →
          laneRun fm code marks (n + 1) ix v fl = laneRun fm code marks n (ix + 1) (rset v f.rd (rget v f.rs1 + rget v f.rs2)) fl)
      ∧ (code[ix]? = none → laneRun fm code marks (n + 1) ix v fl = .illegal))
    ∧ (∀ (s : State) (id : BlkId) (b : Block), Acts s id b → ∀ a n, ∀ i ∈ ([.lret, .lskipNz a n, .lskipZ a n] : List Instr),
        Traps i s id b ⟨.illegalInstr, false, false, 0, 0⟩)
    ∧ ∀ (s : State) (id : BlkId) (b : Block) (p : Nat) (k : Task) (f : FmtPerm) (fn : BitVec 5) (e : LaneFn) (ws : List Word32)
        (c : Machine.Core) (x y : Src), ActsFree s id b → taskOf s id b = some (p, k) → k.fns[fn.toNat]? = some e →
      fetchRun s id b (k.textVa + e.off) e.len = .ok ws → takeSrcs b.core [f.ta, f.tb] [] = some (c, [x, y]) →
      DstReady b c f.td →
      let h := dstRec c f.td
      let w := typeWidth h.ty
      let d := tileSrc c f.td.toNat
      let code := laneCode ws
      (mapCheck b f k.fns fn false = none →
        let act := activeIx c f.g (recElems h)
        let third (i : Nat) : Word64 := if f.td.toNat < 28 ∧ d.dead i = false then extElem h.ty (d.get i) else 0
        let run (i : Nat) : LaneEnd := runLane c code (extElem x.rc.ty (x.get i)) (extElem y.rc.ty (y.get i)) (third i)
        ∀ (v1 v2 : Nat → Word64) (fl : Nat → Nat), (∀ i ∈ act, run i = .done (v1 i) (v2 i) (fl i)) →
          NoDead c [x, y] act → NoMarks (if f.td.toNat < 28 then [x, y, d] else [x, y]) act → NoTrapFlags c (flagsOf act fl) →
          ∃ c1 c2, Completes (.map f fn) s id { b with core := { c2 with fstat := c2.fstat ||| BitVec.ofNat 64 (flagsOf act fl) } }
            ∧ Written c c1 f.td (isActive c f.g) (fun i => (v1 i).toNat % 2 ^ w)
            ∧ (e.results = 1 → c2 = c1)
            ∧ (e.results = 2 → TileWritten c1 c2 (f.td + 1) (isActive c f.g) fun i => (v2 i).toNat % 2 ^ w))
      ∧ (mapCheck b f k.fns fn true = none →
        let n := x.rc.gc
        let act := activeIx c f.g (recElems x.rc)
        let row (r : Nat) : List Nat := act.filter fun i => i / n == r
        let start (r : Nat) : Word64 := if d.dead r then 0 else extElem h.ty (d.get r)
        ∀ (z : Nat → Word64) (rs : Nat → List Res), (∀ r, row r ≠ [] → maprRow c code h x y f.ta.toNat (row r) (start r) = ([], rs r, z r)) →
          let fl := flagsOf ((upTo (recRows h)).filter fun r => !(row r).isEmpty) fun r => unionFlags (rs r)
          NoDead c [x, y] act → NoMarks [x, y] act → NoMarks [d] (upTo (recRows h)) → NoTrapFlags c fl →
          WritesDst (.mapr f fn) s id b c f.td (fun r => !(row r).isEmpty) (fun r => (z r).toNat % 2 ^ w) fl))

/-! ### Matrix arrays -/

/-- MOPA and MOPS (R113 to R115, R398): step k of a repeat of up to 16 adds the outer product of its row vectors to accumulator
k with one rounding for each element; inactive elements and every other tile stay. -/
def Obligations.OuterProducts : Prop :=
  ∀ (s : State) (id : BlkId) (b : Block) (f : FmtMx) (rep : BitVec 5), ActsFree s id b →
    let n := rep.toNat + 1
    let c := b.core
    let hd := srcRec c f.tacc
    let ha := srcRec c f.ta
    let fo := (fmtOf ha.ty).getD fmtF32
    let fa := (fmtOf hd.ty).getD fmtF32
    let env := fenv c.fmode
    let act := activeIx c ⟨f.pg, false⟩ (recElems hd)
    let a (k : Nat) : Src := tileSrcAs c ha (if f.latchB then f.ta.toNat + k else f.ta.toNat)
    let o (k : Nat) : Src := tileSrcAs c ha (if f.latchB then f.tb.toNat else f.tb.toNat + k)
    let d (k : Nat) : Src := tileSrcAs c hd (f.tacc.toNat + k)
    ∀ e ∈ ([(.mopa f rep, false), (.mops f rep, true)] : List (Instr × Bool)),
      let res (k i : Nat) : FRes :=
        let x := fo.val env.fz ((a k).get (i / hd.gc))
        fFma fa env (if e.2 then negVal x else x) (fo.val env.fz ((o k).get (i % hd.gc))) (fa.val env.fz ((d k).get i))
      let fl := flagsOf (upTo n) fun k => flagsOf act fun i => (res k i).2
      (16 < n → Traps e.1 s id b ⟨.illegalInstr, false, false, 0, 0⟩)
      ∧ (n ≤ 16 → (∀ cause, mopCheck b f n = some cause → Traps e.1 s id b ⟨cause, false, false, 0, 0⟩)
        ∧ (mopCheck b f n = none → FitsRow hd → TidyTiles c → NoTrapFlags c fl →
          (∀ k, k < n → NoDead c [a k] (act.map (· / hd.gc)) ∧ NoDead c [o k] (act.map (· % hd.gc)) ∧ NoDead c [d k] act
            ∧ NoMarks [a k] (act.map (· / hd.gc)) ∧ NoMarks [o k] (act.map (· % hd.gc)) ∧ NoMarks [d k] act) →
          (c.gr = 0 → Completes e.1 s id { b with core := { c with fstat := c.fstat ||| BitVec.ofNat 64 fl } })
          ∧ (c.gr ≠ 0 → ∃ ts q,
            Completes e.1 s id { b with core := { c with tiles := ts, copies := q, fstat := c.fstat ||| BitVec.ofNat 64 fl } }
            ∧ q.store = c.copies.store ∧ (c.copies.held = [] → q = c.copies)
            ∧ (∀ k, k < n → ∀ i, i < recElems hd → (tileSrcAs { c with tiles := ts } hd (f.tacc.toNat + k)).get i
                = if isActive c ⟨f.pg, false⟩ i then (res k i).1 else (d k).get i)
            ∧ ∀ j : Fin 28, (j.val < f.tacc.toNat ∨ f.tacc.toNat + n ≤ j.val) → ts[j] = c.tiles[j])))

/-- MMA and MMAD (R101, R122 to R130, R397): every active element of the accumulator takes the product of its row of ta and its
column of the slab, summed in blocks of 32 into the old value; a row of MMAD whose id is not 0 and whose adapter is cached
adds the adapter's term, and the lines of those adapters stay held for its recheck (R129, `adHeld`). Without a staged slab both
raise SHAPE_INVALID. -/
def Obligations.MatrixProducts : Prop :=
  ∀ (s : State) (id : BlkId) (b : Block) (f : FmtMma) (tids : TileCode), ActsFree s id b →
    let c := b.core
    let a := tileSrc c f.ta.toNat
    let d := tileSrc c f.tacc.toNat
    let act := activeIx c ⟨f.pg, false⟩ (recElems d.rc)
    let env := mmaEnv c.fmode
    (mapGet c.slabs f.slab.toNat = none → Traps (.mma f) s id b ⟨.shapeInvalid, false, false, 0, 0⟩
      ∧ Traps (.mmad f tids) s id b ⟨.shapeInvalid, false, false, 0, 0⟩)
    ∧ ∀ x, mapGet c.slabs f.slab.toNat = some x → FitsRow d.rc → TidyTiles c → b.mmad = none → b.mmadRows = 0 → x.marks = [] →
      let av (r : Nat) : List FVal := (upTo x.k).map fun i => operandVal x.ty env.fz (a.get (r * x.k + i)) (a.scale r (i / 32))
      let bv (j : Nat) : List FVal := (upTo x.k).map fun i =>
        operandVal x.ty env.fz (mapNat x.elems (i * 128 + j)) (mapNat x.scales (i / 32 * 128 + j))
      let bound (r j q : Nat) : Option Int := (susBound x.ty).map fun z =>
        z + (a.scale r q : Int) - 127 + (mapNat x.scales (q * 128 + j) : Int) - 127
      let base (i : Nat) : Nat × Nat :=
        dotFrom env (bound (i / d.rc.gc) (i % d.rc.gc)) (av (i / d.rc.gc)) (bv (i % d.rc.gc)) (d.get i)
      let ends (done : Block → Prop) (holds : List Nat → Prop) (res : Nat → Nat × Nat) : Prop :=
        let fl := flagsOf act fun i => (res i).2
        NoTrapFlags c fl → ∃ c' ids, TileWritten c c' f.tacc (isActive c ⟨f.pg, false⟩) (fun i => (res i).1) ∧ holds ids
          ∧ done { b with core := { c' with fstat := c'.fstat ||| BitVec.ofNat 64 fl }, adHeld := ids }
      let clean : Prop := NoDead c [d] act ∧ NoMarks [d] act ∧ NoDead c [a] (act.map fun i => i / d.rc.gc * x.k)
        ∧ NoMarks [a] (act.flatMap fun i => (upTo x.k).map fun k => i / d.rc.gc * x.k + k)
      clean → (mmaCheck b f none = none → ends (Completes (.mma f) s id) (· = []) base)
        ∧ ∀ ad : Nat → Option (AdEntry × AdFields), mmaCheck b f (some tids) = none →
          let t := tileSrc c tids.toNat
          NoMarks [t] (act.map (· / d.rc.gc)) → NoDead c [t] (act.map (· / d.rc.gc)) →
          (∀ i ∈ act, match ad (i / d.rc.gc) with
            | none => t.get (i / d.rc.gc) = 0
            | some (e, g) => t.get (i / d.rc.gc) ≠ 0 ∧ adFields e.entry = some g
                ∧ rowAdapter s id b (t.get (i / d.rc.gc)) x.k x.n = .ready e) →
          ends (Delivers (.mmad f tids) s id)
            (fun ids => ∀ v, v ∈ ids ↔ v ≠ 0 ∧ ∃ i ∈ act, t.get (i / d.rc.gc) = v) fun i => match ad (i / d.rc.gc) with
            | none => base i
            | some (e, g) =>
              let u := adapterU env e g (av (i / d.rc.gc))
              let r := adapterAdd env e g u.1 (i % d.rc.gc) (base i)
              (r.1, r.2 ||| u.2)

/-- OLOAD, OFREE, APRE, AINV, AINV.all and ADTB (R116 to R121, R125, R131 to R135, R344, R345, R351, R400): a descriptor that
R117 refuses raises SHAPE_INVALID; a misaligned base or stride raises MISALIGN, with the base as TADDR, which is the model's
reading where the stride alone is misaligned (log 91); OLOAD stages the slab read from memory in place of what overlapped
it, and OFREE frees the span that holds its slab. APRE does nothing for id 0; a prefetch that ends, fetched or not, replaces the extents of a
recorded id, .pin records the id once its lines are pinned, and .unpin drops record and pins; AINV drops the cached adapters
and lines of the block's table that it names, or waits while an MMAD of another block holds such a line, which it does until its
recheck has retired (R129, R134); ADTB sets the table, or raises MISALIGN. -/
def Obligations.SlabsAndAdapters : Prop :=
  ∀ (s : State) (id : BlkId) (b : Block), Acts s id b →
    let c := b.core
    let a (r : RegNo) : Word64 := regGet c true r
    (∀ slab x d : RegNo, Unmarked c true [x, d] →
      (slabDesc slab.toNat (a d) = none → Traps (.oload slab x d) s id b ⟨.shapeInvalid, true, false, 0, 0⟩)
      ∧ ∀ q, slabDesc slab.toNat (a d) = some q →
        let base := (a x).toNat
        let eb := typeWidth q.ty / 8
        (eb ≠ 0 → (base % eb ≠ 0 ∨ q.stride % eb ≠ 0) →
            Traps (.oload slab x d) s id b ⟨.misalign, true, false, 0, BitVec.ofNat 64 base⟩)
        ∧ ((eb = 0 ∨ (base % eb = 0 ∧ q.stride % eb = 0)) → b.sbuf = [] → ∀ rows : List (List Byte),
            rows.length = (slabRows q base).length →
            (∀ (k va n : Nat) (bs : List Byte), (slabRows q base)[k]? = some (va, n) → rows[k]? = some bs →
              bs.length = n ∧ SpanInHbm s id b va bs) →
            let kept := c.slabs.filter fun e => !(decide (e.1 < slab.toNat + q.span) && decide (slab.toNat < e.1 + e.2.span))
            Delivers (.oload slab x d) s id (putSlabs b (mapPut kept slab.toNat (buildSlab q base rows.flatten [])))))
    ∧ (∀ slab : RegNo, ∃ m, Completes (.ofree slab) s id { b with core := { c with slabs := m } }
        ∧ ∀ e, e ∈ m ↔ e ∈ c.slabs ∧ ¬ (e.1 ≤ slab.toNat ∧ slab.toNat < e.1 + e.2.span))
    ∧ (∀ x e k, Unmarked c true [x, e] →
      let i := (a x).toNat % 65536
      let kk := (a e).toNat % 65536
      let n := (a e).toNat / 65536 % 65536
      let cached := findAdapter s id.p (cuOf b) (adtBaseVa b.adtBase) i kk n
      let fetch := fetchAdapter s (blockAcc s id b) b.adtBase i kk n none
      let kept : Block := { b with pins := mapIf (fun y => y.1 == i) (fun _ => (i, kk, n)) b.pins }
      (i = 0 → Completes (.apre x e k) s id b)
      ∧ (i ≠ 0 → k = .fetch → b.adTry = none → (2 ^ adtLog b.adtBase ≤ i ∨ cached.isSome = true ∨ (∃ y, fetch = .ok y)
          ∨ (∃ y va, fetch = .fault y va)) → Delivers (.apre x e k) s id kept)
      ∧ (i ≠ 0 → k = .pin → i < 2 ^ adtLog b.adtBase → ∀ y, cached = some y →
          let s1 := touchLines s id.p y.cu y.base y.id (linesNeeded y kk n)
          (∀ s2, pinAdapter s1 id.p (cuOf b) (adtBaseVa b.adtBase) id.ctx i kk n = some s2 → exec (.apre x e k) s
              = .next (setBlock s2 id (({ kept with pins := addPin kept.pins i kk n } : Block).done (b.pc + 4))))
          ∧ (pinAdapter s1 id.p (cuOf b) (adtBaseVa b.adtBase) id.ctx i kk n = none →
              exec (.apre x e k) s = .next (setBlock s1 id (kept.done (b.pc + 4)))))
      ∧ (i ≠ 0 → k = .pin → 2 ^ adtLog b.adtBase ≤ i → cached = none → Completes (.apre x e k) s id kept)
      ∧ (i ≠ 0 → k = .unpin → ∃ t, exec (.apre x e k) s = .next t ∧ SameOutside s t ∧ SameOthers s t id
          ∧ getBlock t id = some (({ b with pins := b.pins.filter fun y => y.1 != i } : Block).done (b.pc + 4))
          ∧ ∀ l ∈ (getPolder t id.p).adLines, l.cu = cuOf b → l.base = adtBaseVa b.adtBase → l.id = i → id.ctx ∉ l.pins))
    ∧ (let base := adtBaseVa b.adtBase
      let drops (ins : Instr) (named : Nat → Bool) : Prop :=
        (linesHeld s id base named = true → Waits ins s id b)
        ∧ (linesHeld s id base named = false → ∃ t, exec ins s = .next t
          ∧ getBlock t id = some (({ b with pins := b.pins.filter fun y => !named y.1 } : Block).done (b.pc + 4))
          ∧ (getPolder t id.p).adapters = (getPolder s id.p).adapters.filter (fun e => !(e.base == base && named e.id))
          ∧ (getPolder t id.p).adLines = (getPolder s id.p).adLines.filter (fun l => !(l.base == base && named l.id))
          ∧ SameOutside s t)
      drops .ainvAll (fun _ => true) ∧ ∀ r, Unmarked c true [r] → drops (.ainv r) fun i => i == (a r).toNat % 65536)
    ∧ ∀ x l : RegNo, Unmarked c true [x, l] →
      (((a x).toNat % 32 ≠ 0 ∨ 2 ^ 55 ≤ (a x).toNat) → Traps (.adtb x l) s id b ⟨.misalign, true, false, 0, a x⟩)
      ∧ ((a x).toNat % 32 = 0 → (a x).toNat < 2 ^ 55 → Completes (.adtb x l) s id
          { b with rewindable := false, adtBase := a x ||| ((a l &&& 31) <<< 59) })

/-! ### Events of a block -/

/-- The events that end or restart a block's work at its pc. QUEUE_DEADLOCK traps where both halves wait for each other
(R50), TRAP_TAKEN and SLUICE_DOWN with their causes (R247, R269; HALF at an instruction of both halves is a free value,
log 20). STRIP_REWIND restores the checkpoint, or traps where R263 says so; no answer of the causeways finds the block any
more. CONVOY_ISSUE assembles a convoy whole and starts it, or traps at the first member with a cause of its own, or at the first
member of one that breaks R57 or R58; it waits while a word of it has still to come over the causeways. Where the word after a
convoy cannot be fetched, one that turns out to join it counts with those that were issued before (log 43). USER_INTERRUPT_ENTRY
exchanges the shadow registers, clears PEND, sets ACTIVE and enters the handler (R221). -/
def Obligations.BlockEvents : Prop :=
  ∀ (s : State) (id : BlkId) (b : Block), Acts s id b →
    (b.stuck = true → ∃ half, Traps .queueDeadlock s id b ⟨.queueDeadlock, half, false, 0, 0⟩)
    ∧ (b.stuck = false → exec .queueDeadlock s = .next s)
    ∧ (∀ t, Traps (.trapTaken t) s id b t)
    ∧ (∀ va, ∃ half, Traps (.sluiceDown va) s id b ⟨.sluiceDown, half, false, 0, va⟩)
    ∧ (∀ m, (b.canRewind = true → b.consumed.any (sameSource m) = false → b.rewinds < 4 →
          ∃ t b', exec (.stripRewind m) s = .next t ∧ getBlock t id = some b' ∧ b'.core = b.ckpt ∧ b'.pc = b.ckptPc
            ∧ b'.sbuf = [] ∧ b'.rewinds = b.rewinds + 1 ∧ b'.consumed = b.consumed ++ [m] ∧ b'.stripId = b.stripId
            ∧ b'.uistat = b.uistat ∧ b'.tcause = b.tcause ∧ t.hbm = s.hbm ∧ t.bus = s.bus ∧ t.dev = (disown s id).dev
            ∧ SameOthers s t id)
        ∧ ((b.canRewind = false ∨ b.consumed.any (sameSource m) = true ∨ 4 ≤ b.rewinds) →
            ∃ half, Traps (.stripRewind m) s id b (match m with
              | .line _ va => ⟨.poison, half, false, 0, BitVec.ofNat 64 va⟩
              | .chip _ _ => ⟨.uncorrectable, half, false, 0, 0⟩)))
    ∧ (∀ w, fetchAt s id b b.pc = .word w →
        let x := followers s id b (b.pc + 4) 4
        let old := if joins w = true then b.openW else []
        let new := (w :: x.words).map (convoyWord b)
        let all := old.map (convoyWord b) ++ new
        let open' := if x.fails = true then old ++ w :: x.words else []
        (∀ r, x.wait = some r → exec .convoyIssue s = holdFetch s id b r)
        ∧ (x.wait = none →
          (∀ k c, firstCause new 0 = some (k, c) →
            Traps .convoyIssue s id { b with pc := b.pc + 4 * k } ⟨c, false, false, 0, 0⟩)
          ∧ (firstCause new 0 = none → ((joins w = true ∧ b.skipC = false ∧ old = []) ∨ convoyOk all = false) →
              Traps .convoyIssue s id b ⟨.convoyConflict, false, false, 0, 0⟩)
          ∧ (firstCause new 0 = none → (joins w = false ∨ b.skipC = true ∨ old ≠ []) → convoyOk all = true →
              exec .convoyIssue s = .next (setBlock s id { b with convoy := new.length, openW := open' }))))
    ∧ (∀ r, fetchAt s id b b.pc = .wait r → exec .convoyIssue s = holdFetch s id b r)
    ∧ (∀ c, fetchAt s id b b.pc = .fails c → ∃ half, Traps .convoyIssue s id b ⟨c, half, false, 0, BitVec.ofNat 64 b.pc⟩)
    ∧ (interruptReady b = false → exec .userInterruptEntry s = .next s)
    ∧ (interruptReady b = true → ∃ b', exec .userInterruptEntry s = .next (setBlock s id b')
        ∧ (∀ r : RegNo, 1 ≤ r.toNat → r.toNat ≤ 7 →
            regGet b'.core true r = vget 0 b.shadowA (r.toNat - 1) ∧ regGet b'.core false r = vget 0 b.shadowS (r.toNat - 1)
            ∧ vget 0 b'.shadowA (r.toNat - 1) = regGet b.core true r
            ∧ vget 0 b'.shadowS (r.toNat - 1) = regGet b.core false r)
        ∧ (∀ (fl : Bool) (r : RegNo), 7 < r.toNat → regGet b'.core fl r = regGet b.core fl r)
        ∧ b'.uistat.getLsbD 0 = false ∧ b'.uistat.getLsbD 2 = true
        ∧ (∀ k, k ≠ 0 → k ≠ 2 → b'.uistat.getLsbD k = b.uistat.getLsbD k)
        ∧ b'.pc = (b.uivec.extractLsb' 2 53).toNat * 4 ∧ b'.uiret = b.pc ∧ b'.rewindable = false ∧ b'.sbuf = b.sbuf
        ∧ b'.core.tiles = b.core.tiles ∧ b'.core.preds = b.core.preds ∧ b'.core.fstat = b.core.fstat)

/-- What arrives for a block beside its instructions. FEED_ELEMENT_LOAD (R51, R52) puts the element at the feed's address
into its queue and moves the feed on; a fault stays with the feed until the element is popped. ADAPTER_ROW_FETCH (R129,
R130) replays a deferred row of an MMAD alone with what its fetch brought: the row finishes and the block holds the
adapter's lines, or it faults; a fetch whose GEN has changed is repeated, and the fourth such attempt is ADAPTER_FAULT at the
entry; a block that has left its slot fetches nothing. RECHECK_RERUN (R257 to R259) runs an entry of the recheck queue again: runs that agree retire it; of three runs of an
element the majority stands, and so for the flags; a replaced result counts, and what came after it is executed again; runs
that agree on a trap take it, SUS and the flags that are voted standing where it is one on flags; three different ones raise RECHECK_MISMATCH after a rewind of a rewindable strip. That a feed's fault waits for the pop is log 40; what an entry of the queue holds, how it is counted and where
it retires, and how a rewind comes before the trap, is log 28. -/
def Obligations.BlockArrivals : Prop :=
  ∀ (s : State) (id : BlkId) (b : Block), Acts s id b →
    (∀ (k : BitVec 2) (f : Feed),
      let slot := vget ⟨none, none, true⟩ b.core.feeds k.toNat
      let ty := (recN b.core (vget 0 b.core.bindL k.toNat)).ty
      let size := typeWidth ty / 8
      let q := vget ⟨[], 0⟩ b.core.lq k.toNat
      (feedReady b k.toNat = false → exec (.feedElementLoad k) s = .next s)
      ∧ (feedReady b k.toNat = true → slot.cur = some f → isMx ty = false → typeWidth ty ≠ 4 →
        (∀ c, f.addr % size = 0 → probeAt s (blockAcc s id b) needRd f.addr = .error c →
          exec (.feedElementLoad k) s = .next (setBlock s id (setFeed b k.toNat { f with fault := some (c, f.addr) })))
        ∧ (f.addr % size ≠ 0 →
          exec (.feedElementLoad k) s = .next (setBlock s id (setFeed b k.toNat { f with fault := some (.misalign, f.addr) })))
        ∧ ∀ pa, b.sbuf = [] → f.addr % size = 0 → InHbm s id b needRd f.addr size pa → poisonIn s pa size = none →
          ∃ t b', exec (.feedElementLoad k) s = .next t ∧ getBlock t id = some b'
            ∧ (vget ⟨[], 0⟩ b'.core.lq k.toNat) = q.push [⟨memNat s.hbm pa size, none⟩]
            ∧ vget ⟨none, none, true⟩ b'.core.feeds k.toNat
                = FeedSlot.settle { slot with cur := some { f with pos := f.pos + 1 } }
            ∧ b'.pc = b.pc ∧ b'.core.tiles = b.core.tiles ∧ (∀ fl r, regGet b'.core fl r = regGet b.core fl r)
            ∧ SameOutside s t ∧ SameOthers s t id))
    ∧ (∀ (row : BitVec 8) (f : FmtMma) (tids : TileCode) (i : Nat) (x : Slab),
        missingRow s id b row.toNat = some (f, tids, i, x) → b.status = .resident →
      let got := fetchAdapter s (blockAcc s id b) b.adtBase i x.k x.n b.adTry
      let old := mmadOf b (mmaRows b.core f)
      let after (m : MmadProg) : Block :=
        { b with mmad := some m, mmadRows := m.ended, waiting := false, adTry := none, remDone := [] }
      let faulted (m : MmadProg) (c : Cause) (va : Nat) : Prop := m.faults = old.faults ++ [(row.toNat, c, va)]
        ∧ m.rows = old.rows ∧ m.done = old.done ∧ exec (.adapterRowFetch row) s = .next (setBlock s id (after m))
      (∀ e, got = .ok e → ∃ t m, exec (.adapterRowFetch row) s = .next t ∧ getBlock t id = some (after m)
          ∧ m.rows = setBit old.rows row.toNat true ∧ e.id ∈ m.held ∧ m.faults = old.faults ∧ m.done = old.done
          ∧ SameOutside s t ∧ SameOthers s t id)
      ∧ (∀ c va, got = .fault c va → ∃ m, faulted m c va)
      ∧ (got = .changed → 3 ≤ triesOf b.adTry i → ∃ m, faulted m .adapterFault (adtEntry b.adtBase i))
      ∧ (got = .changed → triesOf b.adTry i < 3 → exec (.adapterRowFetch row) s
          = .next (setBlock s id { b with adTry := some ⟨i, none, triesOf b.adTry i + 1⟩, remDone := [] })))
    ∧ (∀ row : BitVec 8, (missingRow s id b row.toNat = none ∨ b.status ≠ .resident) → exec (.adapterRowFetch row) s = .next s)
    ∧ ∀ (k : Nat) (e : Recheck), b.recheck[k]? = some e → e.after.fstat = e.before.fstat ||| BitVec.ofNat 64 e.flags →
      let same := RecheckRuns.agree k
      let counted (t : State) : State := updPolder t id.p fun x => { x with rchkcnt := Nat.min (x.rchkcnt + 1) (2 ^ 32 - 1) }
      let back (c : Machine.Core) (pc : Nat) : Block :=
        { b.quiet with core := c, pc := pc, convoy := e.convoy, openW := e.openW, skipC := false,
                        recheck := b.recheck.take k }
      let retires (r : RecheckRuns) : Prop :=
        exec (.recheckRerun r) s = .next (setBlock s id { b with recheck := b.recheck.eraseIdx k })
      retires same
      ∧ (∀ y z, let fl := (e.flags &&& y) ||| (e.flags &&& z) ||| (y &&& z)
          let c : Machine.Core := { e.after with fstat := e.before.fstat ||| BitVec.ofNat 64 fl }
          c ≠ e.after → exec (.recheckRerun { same with flags := some (y, z) }) s
            = .next (counted (setBlock s id (back c (e.pc + 4)))))
      ∧ (∀ t, exec (.recheckRerun { same with trap := some (some t, some t) }) s
            = .next (takeTrap (counted s) id (back (if t.cause = .suspect then orFlags e.before (e.flags ||| fSUS)
                else if t.cause = .fpEnabled then orFlags e.before e.flags else e.before) e.pc) t))
      ∧ ∀ d x, recheckDst (Fields.ofWord e.word) = some d →
        let first := firstRun e.after d x.elem
        (x.second = first ∨ x.third = first → retires { same with elems := [x] })
        ∧ (x.second ≠ first → x.third = x.second → putElem e.after d x.elem x.second ≠ e.after →
            exec (.recheckRerun { same with elems := [x] }) s
              = .next (counted (setBlock s id (back (putElem e.after d x.elem x.second) (e.pc + 4)))))
        ∧ (x.second ≠ first → x.third ≠ first → x.third ≠ x.second → ∃ b1 coord,
            exec (.recheckRerun { same with elems := [x] }) s
              = .next (takeTrap s id b1 ⟨.recheckMismatch, false, false, coord, 0⟩)
            ∧ (∀ t, d = .tile t → coord = coordAt (dstRec e.after t) t.toNat x.elem)
            ∧ b1.pc = e.pc ∧ (b.canRewind = true → b1.core = b.ckpt ∧ b1.sbuf = [] ∧ b1.rewinds = b.rewinds + 1)
            ∧ (b.canRewind = false → b1 = { b with pc := e.pc }))

/-! ### The scheduler and tasks -/

/-- PREEMPTION saves the cluster of a block, TIME_SLICE_EXPIRY where another of equal priority waits (R234, R252);
BARRIER_PHASE_COMPLETE completes a phase that every member has arrived in, with an event for each (R353).
CLUSTER_PLACEMENT gives the first waiting cluster its slots (R37, R39, R234, R256) once they are free: a new one starts at its
entry with its arguments, a saved one goes on where it stood, with its pinned adapters to be pinned again first (R131, R351).
That the order of free slots and contexts is ascending is the model's choice (log 11), and so is what of a context's image is
memory (log 17). -/
def Obligations.SchedulerEvents : Prop :=
  (∀ (s : State) (id : BlkId) (b : Block) (c : Cluster), Acts s id b → clusterOf s id.p b.cid = some c →
    let yields (i : Instr) : Prop := ∃ t, exec i s = .next t
      ∧ (∃ c', clusterOf t id.p b.cid = some c' ∧ c'.resident = false ∧ c'.ctxs = c.ctxs ∧ c'.suspended = c.suspended)
      ∧ (∀ x ∈ c.ctxs, ∀ d, getBlock s ⟨id.p, x⟩ = some d → d.status = .resident →
          ∃ d', getBlock t ⟨id.p, x⟩ = some d' ∧ Saved d d')
      ∧ t.bus = s.bus
      ∧ ∃ f : OutReq → Requester, t.dev = { s.dev with outstanding := s.dev.outstanding.map fun o => { o with who := f o } }
    let rival : Prop := ∃ d ∈ (getPolder s id.p).clusters, clusterWaits s id.p d = true ∧ clusterPrio s d = clusterPrio s c
    (c.resident = true → yields .preemption) ∧ (c.resident = false → exec .preemption s = .next s)
    ∧ (c.resident = true → rival → yields .timeSliceExpiry)
    ∧ ((c.resident = false ∨ ¬ rival) → exec .timeSliceExpiry s = .next s)
    ∧ ∀ k : BitVec 3, (phaseReady s id.p c k = false → exec (.barrierPhaseComplete k) s = .next s)
      ∧ (phaseReady s id.p c k = true → ∃ t c', exec (.barrierPhaseComplete k) s = .next t
          ∧ clusterOf t id.p b.cid = some c' ∧ vget 0 c'.phases k.toNat = vget 0 c.phases k.toNat + 1
          ∧ (∀ x ∈ c.ctxs, ∀ d, getBlock s ⟨id.p, x⟩ = some d →
              getBlock t ⟨id.p, x⟩ = some { d with eventFlag := true, waiting := false })
          ∧ SameOutside s t))
  ∧ ∀ (s : State) (p : PolderNo) (c : Cluster) (k : Task),
    (nextPlacement s p.toNat = none → exec (.clusterPlacement p) s = .next s)
    ∧ (nextPlacement s p.toNat = some (k, [(p.toNat, c)], [(p.toNat, [])]) → clusterOf s p.toNat c.cid = some c →
      ((freeSlots (getPolder s p.toNat)).length < liveMembers s p.toNat c → exec (.clusterPlacement p) s = .next s)
      ∧ (liveMembers s p.toNat c ≤ (freeSlots (getPolder s p.toNat)).length →
      (c.ctxs = [] → ∃ t c', exec (.clusterPlacement p) s = .next t ∧ clusterOf t p.toNat c.cid = some c'
        ∧ c'.resident = true ∧ c'.ctxs.length = c.blkids.length
        ∧ ∀ (n blk : Nat), c.blkids[n]? = some blk → ∃ x d, c'.ctxs[n]? = some x ∧ getBlock s ⟨p.toNat, x⟩ = none
          ∧ getBlock t ⟨p.toNat, x⟩ = some d ∧ d.status = .resident ∧ d.place.isSome = true ∧ d.blkid = blk ∧ d.clrank = n
          ∧ d.pc = k.entry ∧ d.ckptPc = k.entry ∧ d.cid = c.cid ∧ d.rewindable = true ∧ d.sbuf = []
          ∧ ∀ (fl : Bool) (j : Nat), j < 16 → regGet d.core fl (BitVec.ofNat 5 (16 + j)) = k.args.getD j 0)
      ∧ (c.ctxs ≠ [] → (∀ x ∈ c.ctxs, ∀ d, getBlock s ⟨p.toNat, x⟩ = some d → ctxPoisoned s ⟨p.toNat, x⟩ d = false) →
          ∃ t, exec (.clusterPlacement p) s = .next t
            ∧ ∀ x ∈ c.ctxs, ∀ d, getBlock s ⟨p.toNat, x⟩ = some d → d.status ≠ .halted → d.status ≠ .ended →
              ∃ sl, sl ∈ freeSlots (getPolder s p.toNat)
                ∧ let grant := grantWord (getPolder s p.toNat) sl.1 k.tilesCode
                  getBlock t ⟨p.toNat, x⟩ = some { d with status := .resident, place := some sl, grantc := grant, repins := d.pins })))

/-- TASK_END stops every block of a task that has not halted, discards its uncommitted stores and keeps the TCAUSE of its
first trap (R251); one that has begun accesses keeps its slot and its stores until its instruction has completed (R252, R412).
TASK_COMPLETE returns the contexts of a task whose blocks have halted, or that has ended, once its
cards are complete, and its packet completes with status 0 and the block count, or with TASK_FAULT and the TCAUSE (R195,
R232); a completion target takes its value first. -/
def Obligations.TaskEndings : Prop :=
  ∀ (s : State) (p : PolderNo) (h : Nat) (k : Task), getTask s p.toNat h = some k →
    (k.ended = none → ∀ tc, ∃ t, exec (.taskEnd p h tc) s = .next t
      ∧ getTask t p.toNat h = some { k with ended := some (k.faulted.getD tc) }
      ∧ ∀ q c x d, q < 16 → c ∈ (getPolder s q).clusters → c.creator = p.toNat → c.handle = h → x ∈ c.ctxs →
        getBlock s ⟨q, x⟩ = some d → d.status ≠ .halted → ∃ d', getBlock t ⟨q, x⟩ = some d'
          ∧ (d.begun = false → d'.status = .ended ∧ d'.place = none ∧ d'.sbuf = [] ∧ d'.core = d.core)
          ∧ (d.begun = true → d'.status = .preempted ∧ d'.place = d.place ∧ d'.begun = true ∧ d'.sbuf = d.sbuf
              ∧ d'.core = cleanTiles d.core))
    ∧ (taskDone s p.toNat k = false → exec (.taskComplete p h) s = .next s)
    ∧ (taskDone s p.toNat k = true → ∀ q sn e, k.origin = .packet q sn →
      (getQueue s p.toNat q).started.find? (fun y => y.sn == sn) = some e →
      let reports (status detail : Nat) (more : State → Prop) : Prop := ∃ t, exec (.taskComplete p h) s = .next t
        ∧ getTask t p.toNat h = none ∧ Reported s t p.toNat q e k.handle detail status ∧ more t
      (∀ tc, k.ended = some tc → reports 8 tc.toNat fun t => t.hbm = s.hbm)
      ∧ (k.ended = none → k.ctAddr = 0 → reports 0 k.nblocks fun t => t.hbm = s.hbm)
      ∧ (k.ended = none → k.ctAddr ≠ 0 → k.ctAddr % 8 = 0 →
          let acc := cpAcc p.toNat k.root (getQueue s p.toNat k.queue).remDone
          (∀ c, probe s acc needWr k.ctAddr = .error c → reports (packetStatus c) k.ctAddr fun t => t.hbm = s.hbm)
          ∧ ∀ x a, probe s acc needWr k.ctAddr = .ok x → physTarget s x.pa = .hbm a → polderDown s (a / polderBytes) = false →
            reports 0 k.nblocks fun t => t.hbm = memSetBytes s.hbm a (leBytes 8 k.ctVal.toNat)))

/-! ### The engines -/

/-- CARD_START, CARD_COMPLETE, NVME_COMPLETION and QPTAB_WRITE (R187, R189, R191, R202, R211, R213, R217, R219). A card
that nothing holds back starts, an NVMe card with its command in the pair's tail slot and the tail doorbell rung. A card
that completes leaves the engines, and its block records the status and sees an event; FILL writes its pattern; a lost
sluice gives status 5, to an NVMe card too. A completion entry moves the head and rings its doorbell, and fails its card
where it says so; whether it is taken does not depend on VF Memory Space Enable (R219). A changed entry of the table starts the pair
afresh (log 7) and ends its cards with NVME_STATUS. The layout of a command is PRESUMED from the NVMe standard (log 29); that a
card's accesses happen at its completion is log 31. Reserved bits of R217 read as zero and change no card (R5); that the entry
nevertheless keeps what was written to them, since R217 has one that is not zero stand for EN = 0, is the choice of log 72. -/
def Obligations.EngineEvents : Prop :=
  ∀ (s : State) (p : PolderNo), Memory.wf s.hbm = true → Memory.wf s.bus = true →
    let pn := p.toNat
    let gone (t : State) (n : Nat) : Prop := ∀ e ∈ (getPolder t pn).cards, e.num ≠ n
    let records (t : State) (c : Card) (status : Nat) : Prop := c.seq ≠ 0 → ∀ d, getBlock s ⟨pn, c.ctx⟩ = some d →
      ∃ d', getBlock t ⟨pn, c.ctx⟩ = some d' ∧ d'.eventFlag = true ∧ d'.waiting = false
        ∧ (∀ r ∈ d'.cardRecs, r.seq = c.seq → r.status = some status) ∧ d'.cardRecs.length = d.cardRecs.length
        ∧ (status ≠ 0 → d'.lastErr = status) ∧ d'.pc = d.pc ∧ (∀ fl r, regGet d'.core fl r = regGet d.core fl r)
        ∧ (cUint c.data = true → status < 16 → d'.uistat.getLsbD 0 = true ∧ fld d'.uistat 63 48 = cTag c.data % 65536)
    (∀ n c, (getPolder s pn).cards.find? (fun c => c.num == n) = some c →
      (canStart s pn c = false → exec (.cardStart p n) s = .next s)
      ∧ (canStart s pn c = true → cKind c.data ≠ 5 → ∃ t, exec (.cardStart p n) s = .next t ∧ SameOutside s t
          ∧ (getPolder t pn).cards = (getPolder s pn).cards.map fun e => if e.num = n then { e with started := true } else e)
      ∧ (canStart s pn c = true → cKind c.data = 5 →
          let q := getQp s pn (cQp c.data)
          ∃ t, exec (.cardStart p n) s = .next t
            ∧ (getQp t pn (cQp c.data)).tail = (q.tail + 1) % qpDepth q
            ∧ (s.dev.pcieUp = true → memNat t.bus q.sqdb.toNat 4 = (q.tail + 1) % qpDepth q % 2 ^ 32)
            ∧ memNat t.hbm (qpSq q + 64 * q.tail) 4 = (cOpc c.data + 2 ^ 14 + q.tail * 2 ^ 16) % 2 ^ 32
            ∧ memNat t.hbm (qpSq q + 64 * q.tail + 4) 4 = cNsid c.data % 2 ^ 32
            ∧ ∀ e ∈ (getPolder t pn).cards, e.num = n → e.started = true ∧ e.slot = some q.tail)
      ∧ ((c.started = false ∨ cKind c.data = 5) → exec (.cardComplete p n) s = .next s)
      ∧ (c.started = true → cKind c.data ≠ 5 →
          ((∃ r ∈ c.rdPa ++ c.wrPa, lostSluice s pn r.pa = true) →
            ∃ t, exec (.cardComplete p n) s = .next t ∧ gone t n ∧ records t c 5 ∧ t.hbm = s.hbm)
          ∧ ((∀ r ∈ c.rdPa ++ c.wrPa, lostSluice s pn r.pa = false) →
            (∀ s1 st bytes valid, performCard s c = .done s1 st bytes valid →
              ∃ t, exec (.cardComplete p n) s = .next t ∧ gone t n ∧ records t c st ∧ t.hbm = s1.hbm ∧ t.bus = s1.bus)
            ∧ ∀ pa, cKind c.data = 2 → c.wrPa = [⟨cDst c.data, pa, cLen c.data 3⟩] → pa % 128 = cDst c.data % 128 →
              pa + cLen c.data 3 ≤ 0x8000000000 → pa / polderBytes = (pa + cLen c.data 3 - 1) / polderBytes →
              polderDown s (pa / polderBytes) = false →
              ∃ t, exec (.cardComplete p n) s = .next t ∧ gone t n ∧ records t c 0
                ∧ (∀ k, k < cLen c.data 3 → memByte t.hbm (pa + k) = fillByte c.data (cDst c.data + k))
                ∧ ∀ a, (a < pa ∨ pa + cLen c.data 3 ≤ a) → memByte t.hbm a = memByte s.hbm a)))
    ∧ (∀ k : BitVec 6,
      let q := getQp s pn k.toNat
      let w := cqeDw3 s q
      let h := (q.head + 1) % qpDepth q
      let moved (t : State) : Prop := (getQp t pn k.toNat).head = h
        ∧ (s.dev.pcieUp = true → memNat t.bus q.cqdb.toNat 4 = h % 2 ^ 32)
        ∧ (getQp t pn k.toNat).phase = (if h = 0 then !q.phase else q.phase)
      (cqeNew s pn k.toNat = false → exec (.nvmeCompletion p k) s = .next s)
      ∧ (cqeNew s pn k.toNat = true →
        ((∀ c ∈ (getPolder s pn).cards, onPair c k.toNat = true → c.slot ≠ some (w % 65536)) →
          ∃ t, exec (.nvmeCompletion p k) s = .next t ∧ moved t ∧ (getPolder t pn).cards = (getPolder s pn).cards)
        ∧ ∀ c, (getPolder s pn).cards.find? (fun c => onPair c k.toNat && c.slot == some (w % 65536)) = some c →
          (w / 131072 ≠ 0 → ∃ t, exec (.nvmeCompletion p k) s = .next t ∧ moved t ∧ gone t c.num ∧ records t c 4)
          ∧ (w / 131072 = 0 → behindSluice s pn c = true →
              ∃ t, exec (.nvmeCompletion p k) s = .next t ∧ moved t ∧ gone t c.num ∧ records t c 5)
          ∧ (w / 131072 = 0 → behindSluice s pn c = false → isNvRead c.data = false →
              ∃ t, exec (.nvmeCompletion p k) s = .next t ∧ moved t ∧ gone t c.num ∧ records t c 0)))
    ∧ ∀ (k : BitVec 6) (n : BitVec 2) (v : Word64),
      let old := getQp s pn k.toNat
      let same := qpWord old n.toNat &&& qpMask n.toNat = v &&& qpMask n.toNat
      let stored (t : State) : Prop := ∀ m : BitVec 2, qpWord (getQp t pn k.toNat) m.toNat = (if m = n then v else qpWord old m.toNat)
        ∧ readOwner t pn (0x5000 + 32 * k.toNat + 8 * m.toNat) = qpWord (getQp t pn k.toNat) m.toNat &&& qpMask m.toNat
      (same → ∃ t, exec (.qptabWrite p k n v) s = .next t ∧ stored t ∧ (getPolder t pn).cards = (getPolder s pn).cards
          ∧ (getQp t pn k.toNat).tail = old.tail ∧ (getQp t pn k.toNat).head = old.head
          ∧ (getQp t pn k.toNat).phase = old.phase)
      ∧ (¬ same → ∃ t, exec (.qptabWrite p k n v) s = .next t ∧ stored t
          ∧ (getQp t pn k.toNat).tail = 0 ∧ (getQp t pn k.toNat).head = 0 ∧ (getQp t pn k.toNat).phase = true
          ∧ (∀ c ∈ (getPolder t pn).cards, onPair c k.toNat = false)
          ∧ ((getPolder s pn).cards.Pairwise (fun a c => a.num ≠ c.num ∧ (a.ctx ≠ c.ctx ∨ a.seq ≠ c.seq)) →
              ∀ c ∈ (getPolder s pn).cards, onPair c k.toNat = true →
              c.seq ≠ 0 → ∀ d, getBlock s ⟨pn, c.ctx⟩ = some d → ∃ d', getBlock t ⟨pn, c.ctx⟩ = some d'
                ∧ ∀ r ∈ d'.cardRecs, r.seq = c.seq → r.status = some 4))

/-! ### Host queues -/

/-- The packet at QHEAD of the queue that is served next (R228 to R236, R473). An invalid packet halts its queue with an
entry that names the lowest offending byte. A valid one moves QHEAD on and completes with its entry: NOP at once; a LAUNCH
that R473 refuses with its status, while an accepted one stays in flight with a new task; WRITE, SIGNAL (SET or ADD) and
WRITE_SIGNAL once performed, or with the status of a failing access, a SIGNAL of poisoned data with PERM (R29; that it is
not performed is the model's choice, log 75); WAIT when its conditions are met, or it holds the queue, and
WAIT_CONDITION_MET looks again; FENCE when nothing before it is in flight. A packet in hand is not split (R236): the
others' packets wait until it is done; a WAIT that is not met gives up the processor to the next queue, and one of a value in memory
waits for stores to registers (R474). A SIGNAL to a PCIe completer that refuses AtomicOps ends with PERM (R179). That the event
of NOP meets an unlisted TYPE, and which byte DETAIL names, is log 24; DETAIL 0 of GRAPH_INVALID and the run number of GRAPH_BUSY
are log 26. -/
def Obligations.PacketEvents : Prop :=
  (∀ (s : State) (c : Acc) (w : List Word64) (bs : List Byte) (ps : List Nat), fld (dw w 1) 1 0 = 1 →
    readMem s c (dw w 2).toNat 8 = .ok bs ps →
    let u := readNeeds s c (dw w 2).toNat 8
    let x := leNat bs &&& (dw w 4).toNat
    let v := (dw w 3).toNat
    ∀ kind, fld (dw w 1) 4 2 = kind → kind < 4 → (regStoresDue s = true → waitFrom s c w 0 = .need 0 [] []) ∧ (regStoresDue s = false →
      let met : Bool := match kind with
        | 0 => decide (x = v) | 1 => decide (x ≠ v) | 2 => decide (v ≤ x) | _ => decide (x < v)
      waitFrom s c w 0 = match ps with
        | [] => if met then .met (leNat bs) u else .wait 0 u
        | a :: _ => .fail 7 a u))
  ∧ ∀ (s : State) (p : PolderNo) (q : QueueNo),
    let pn := p.toNat
    let qn := q.toNat
    let h := getQueue s pn qn
    let ps := getPolder s pn
    (∀ j, ps.cpBusy = some j → j.q ≠ qn →
      ∀ i ∈ [Instr.packetNop p q, .packetLaunch p q, .packetGraphRun p q, .packetWrite p q, .packetSignal p q,
        .packetWriteSignal p q, .packetWait p q, .packetFence p q, .queueSliceExpiry p], exec i s = .next s)
    ∧ (∀ k w, pickQueue s pn ((ps.served + 1) % 64) = some (k, w) →
      exec (.queueSliceExpiry p) s = .next (updPolder s pn fun y => { y with served := k }))
    ∧ (pickQueue s pn ((ps.served + 1) % 64) = none → exec (.queueSliceExpiry p) s = .next s)
    ∧ (∀ w i e, h.waitIx = some (w, i) → h.started.find? (fun e => e.ty == 7) = some e →
      (∀ j, ps.cpBusy = some j → j.q = qn) →
      (∀ v u, waitFrom s (queueAcc s pn qn) w i = .met v u → ∃ t, exec (.waitConditionMet p q) s = .next t
        ∧ (getQueue t pn qn).waitIx = none ∧ (getPolder t pn).cpBusy = none ∧ Reported s t pn qn e 0 v 0)
      ∧ (∀ st d u, waitFrom s (queueAcc s pn qn) w i = .fail st d u → ∃ t, exec (.waitConditionMet p q) s = .next t
        ∧ (getQueue t pn qn).waitIx = none ∧ (getPolder t pn).cpBusy = none ∧ Reported s t pn qn e 0 d st)
      ∧ (∀ j u, waitFrom s (queueAcc s pn qn) w i = .wait j u → ∃ t, exec (.waitConditionMet p q) s = .next t
        ∧ (getQueue t pn qn).waitIx = some (w, j) ∧ (getQueue t pn qn).started = h.started
        ∧ (getQueue t pn qn).cqWaiting = h.cqWaiting ∧ (getPolder t pn).cpBusy = none
        ∧ (getPolder t pn).served = (qn + 1) % 64))
    ∧ ∀ w : List Word64, pickQueue s pn ps.served = some (qn, w) →
      let e : Started := ⟨ps.nextStart, h.headOff, pktType w, fld (dw w 0) 63 32, flag (dw w 0) 12, pktScope w,
        pktType w == 8 && flag (dw w 1) 0⟩
      let ev : Instr := match pktType w with
        | 2 => .packetLaunch p q | 3 => .packetGraphRun p q | 4 => .packetWrite p q | 5 => .packetSignal p q
        | 6 => .packetWriteSignal p q | 7 => .packetWait p q | 8 => .packetFence p q | _ => .packetNop p q
      let moved (t : State) : Prop :=
        (getQueue t pn qn).qhead = BitVec.ofNat 64 ((h.headOff + 8 * w.length) % Nat.max 1 h.ringSize)
      let ends (detail status : Nat) (more : State → Prop) : Prop :=
        ∃ t, exec ev s = .next t ∧ moved t ∧ Reported s t pn qn e 0 detail status ∧ more t
      let stays (more : State → Prop) : Prop := ∃ t, exec ev s = .next t ∧ moved t ∧ e ∈ (getQueue t pn qn).started
        ∧ (getQueue t pn qn).cqWaiting = h.cqWaiting ∧ more t
      let same (t : State) : Prop := t.hbm = s.hbm ∧ t.bus = s.bus
      (∀ o, invalidByte w (packetRest w) = some o → ∃ t, exec ev s = .next t ∧ same t
        ∧ (getQueue t pn qn).qctl.getLsbD 3 = true ∧ (getQueue t pn qn).qhead = h.qhead
        ∧ (getQueue t pn qn).started = h.started
        ∧ (getQueue t pn qn).cqWaiting = h.cqWaiting ++ [completionWords e 0 o 1])
      ∧ (invalidByte w (packetRest w) = none →
        let a := fld (dw w 2) 54 0
        let b := fld (dw w 4) 54 0
        let c := queueAcc s pn qn
        let bytes := leBytes (if flag (dw w 1) 0 then 8 else 4) (dw w 3).toNat
        let inHbm (n : Need) (va pa : Nat) : Prop :=
          ∃ x, probe s c n va = .ok x ∧ physTarget s x.pa = .hbm pa ∧ polderDown s (pa / polderBytes) = false
        let after (op old v : Nat) : List Byte := leBytes 8 (if op = 0 then v else (old + v) % 2 ^ 64)
        (pktType w = 1 → ends 0 0 same)
        ∧ (pktType w = 2 →
          let l : Launch := ⟨w, pktScope w, qn, h.root, .packet qn ps.nextStart, h.lastTask⟩
          let s0 := (enterPacket s pn qn w).1
          (∀ st d, createTask s0 pn l h.remDone = .refused st d → ends d st same)
          ∧ ∀ s1 n k, createTask s0 pn l h.remDone = .created s1 n k → stays fun t =>
            same t ∧ (getQueue t pn qn).lastTask = n ∧ n = ps.nextTask ∧ (getPolder t pn).nextTask = n + 1
            ∧ ∃ x, getTask t pn n = some x ∧ x.entry = a ∧ x.nblocks = k ∧ x.placed = 0 ∧ x.halted = 0 ∧ x.ended = none
              ∧ x.prio = fld (dw w 4) 47 44 ∧ x.pers = flag (dw w 4) 35 ∧ x.origin = .packet qn ps.nextStart)
        ∧ (pktType w = 3 → (∀ y ∈ h.started, y.sn < ps.nextStart) →
          let g := fld (dw w 1) 5 0
          let x := getSlot s pn g
          (flag x.gdesc 63 = false → ends 0 9 same)
          ∧ (flag x.gdesc 63 = true → x.running.isSome = true → x.pending.isSome = true → ends g 10 same)
          ∧ (flag x.gdesc 63 = true → x.running = none → fld (dw w 3) 10 0 = 0 → stays fun t => same t
            ∧ ∃ r, (getSlot t pn g).running = some r ∧ r.begun = true ∧ r.number = x.runs + 1 ∧ r.started = 0 ∧ r.done = 0
              ∧ r.ctAddr = b ∧ r.ctVal = dw w 5 ∧ r.origin = some (qn, ps.nextStart)))
        ∧ (pktType w = 4 → (∀ x, probe s c needWr a = .error x → ends a (packetStatus x) same)
          ∧ ∀ pa, inHbm needWr a pa → ends 0 0 fun t => t.hbm = memSetBytes s.hbm pa bytes ∧ t.bus = s.bus)
        ∧ (pktType w = 5 → (∀ x, probe s c needRw a = .error x → ends a (packetStatus x) same)
          ∧ (∀ x, probe s c needRw a = .ok x → refusesAtomics s x.pa = true → ends a (packetStatus .perm) same)
          ∧ (∀ pa l, inHbm needRw a pa → poisonIn s pa 8 = some l → ends a 7 same)
          ∧ ∀ pa, inHbm needRw a pa → poisonIn s pa 8 = none → ends 0 0 fun t => t.bus = s.bus
            ∧ t.hbm = memSetBytes s.hbm pa (after (fld (dw w 1) 1 0) (memNat s.hbm pa 8) (dw w 3).toNat))
        ∧ (pktType w = 6 → (∀ x, probe s c needWr a = .error x → ends a (packetStatus x) same)
          ∧ (∀ x y, probe s c needWr a = .ok x → probe s c needRw b = .error y → ends b (packetStatus y) same)
          ∧ (∀ x y, probe s c needWr a = .ok x → probe s c needRw b = .ok y → refusesAtomics s y.pa = true →
              ends b (packetStatus .perm) same)
          ∧ ∀ pa pb, inHbm needWr a pa → inHbm needRw b pb → poisonIn (hbmWrite s pa bytes false) pb 8 = none → ends 0 0 fun t => t.bus = s.bus
            ∧ (let m := memSetBytes s.hbm pa bytes
               t.hbm = memSetBytes m pb (after (fld (dw w 1) 2 1) (memNat m pb 8) (dw w 5).toNat)))
        ∧ (pktType w = 7 →
          let s2 := updQueue (enterPacket s pn qn w).1 pn qn fun h => { h with waitIx := some (w, 0) }
          (∀ v u, waitFrom s2 (queueAcc s2 pn qn) w 0 = .met v u →
            ends v 0 fun t => same t ∧ (getQueue t pn qn).waitIx = none)
          ∧ (∀ st d u, waitFrom s2 (queueAcc s2 pn qn) w 0 = .fail st d u →
            ends d st fun t => same t ∧ (getQueue t pn qn).waitIx = none)
          ∧ (∀ j u, waitFrom s2 (queueAcc s2 pn qn) w 0 = .wait j u →
            stays fun t => same t ∧ (getQueue t pn qn).waitIx = some (w, j) ∧ (getPolder t pn).cpBusy = none
              ∧ (getPolder t pn).served = (qn + 1) % 64)
          ∧ ∀ j r u, waitFrom s2 (queueAcc s2 pn qn) w 0 = .need j r u →
            stays fun t => same t ∧ (getQueue t pn qn).waitIx = some (w, j) ∧ (getPolder t pn).cpBusy.isSome = true)
        ∧ (pktType w = 8 →
          (∀ k, k < 64 → (if e.allq then k / 8 = qn / 8 else k = qn) → (getQueue s pn k).started = []) → ends 0 0 same))

/-- The registers and rings of host queues (R226, R227, R229, R237, R238). A completion entry goes to the ring with the
phase bit, unless the ring is full; the quiet interval sends the message that entries wait for; QTAIL, QRING, QCQ and QCTL
take their RW bits, QRING and QCQ only while EN = 0; without the PCIe interface no entry is written (R273, read so by log 71); ERR cleared lets a halted queue go on after its packet; an unmasked
vector sends its pending message. A register write that has an event of its own is that event, and any other register
takes its RW bits (R4, R5). -/
def Obligations.QueueRegisters : Prop :=
  (∀ (s : State) (p : PolderNo) (q : QueueNo),
    let pn := p.toNat
    let qn := q.toNat
    let h := getQueue s pn qn
    let put (i : Instr) (h' : HostQueue → Prop) : Prop := ∃ t, exec i s = .next t ∧ h' (getQueue t pn qn)
      ∧ (∀ k, k < 64 → k ≠ qn → getQueue t pn k = getQueue s pn k) ∧ t.hbm = s.hbm
    (∀ a b c d rest, h.cqWaiting = [a, b, c, d] :: rest →
      ((h.cqFull = true ∨ s.dev.pcieUp = false) → exec (.completionEntryWrite p q) s = .next s)
      ∧ (h.cqFull = false → s.dev.pcieUp = true → ∃ t, exec (.completionEntryWrite p q) s = .next t
        ∧ (getQueue t pn qn).cqWaiting = rest ∧ (getQueue t pn qn).cqIndex = (h.cqIndex + 1) % h.cqSize
        ∧ (getQueue t pn qn).cqPhase = (if (h.cqIndex + 1) % h.cqSize = 0 then !h.cqPhase else h.cqPhase)
        ∧ t.bus = memSetBytes s.bus (fld h.qcq 63 12 * 4096 + 32 * h.cqIndex)
            (leBytes 8 a.toNat ++ leBytes 8 b.toNat ++ leBytes 8 c.toNat
              ++ leBytes 8 (d ||| (if h.cqPhase then 0x8000000000000000 else 0)).toNat)
        ∧ (h.ien = false → t.dev = s.dev)))
    ∧ ((h.ien = false ∨ fld h.qctl 63 48 = 0 ∨ h.unannounced = 0) → exec (.quietIntervalExpiry p q) s = .next s)
    ∧ (h.ien = true → fld h.qctl 63 48 ≠ 0 → h.unannounced ≠ 0 → put (.quietIntervalExpiry p q) fun h' =>
        h' = { h with unannounced := 0 })
    ∧ (∀ v, put (.qtailDoorbell p q v) fun h' => h' = { h with qtail := v &&& 0xFFFFC0 })
    ∧ (∀ v, (h.en = true → exec (.qringWrite p q v) s = .next s ∧ exec (.qcqWrite p q v) s = .next s)
        ∧ (h.en = false → put (.qringWrite p q v) (fun h' => ∃ r, h' = { h with qring := r, qhead := 0, qtail := 0 }
              ∧ ∀ k, k < 64 → r.getLsbD k = (v.getLsbD k && (decide (k < 5) || decide (12 ≤ k))))
            ∧ put (.qcqWrite p q v) fun h' => ∃ r, h' = { h with qcq := r, cqIndex := 0, cqPhase := true }
              ∧ ∀ k, k < 64 → r.getLsbD k = (v.getLsbD k && (decide (k < 5) || decide (12 ≤ k)))))
    ∧ (h.err = false → put (.qctlErrClear p q) fun h' => h' = h)
    ∧ (h.err = true → put (.qctlErrClear p q) fun h' => h'.err = false ∧ h'.skip = 0
        ∧ h'.qhead = BitVec.ofNat 64 ((h.headOff + h.skip) % Nat.max 1 h.ringSize)
        ∧ ∀ k, k ≠ 3 → h'.qctl.getLsbD k = h.qctl.getLsbD k)
    ∧ (∀ v, put (.qctlWrite p q v) fun h' => h'.started = h.started ∧ h'.cqWaiting = h.cqWaiting
        ∧ (∀ k, k < 64 → h'.qctl.getLsbD k = if k = 3 then (h.qctl.getLsbD 3 && !v.getLsbD 3)
            else if k = 0 ∨ k = 2 ∨ 36 ≤ k then v.getLsbD k else h.qctl.getLsbD k)
        ∧ (v.getLsbD 3 = false → h'.qhead = h.qhead)
        ∧ (v.getLsbD 3 = true → h.err = true →
            h'.qhead = BitVec.ofNat 64 ((h.headOff + h.skip) % Nat.max 1 h.ringSize)))
    ∧ ∀ (f : BitVec 7) (v : Word64), vfPolder f.toNat = pn → f.toNat % 8 = qn / 8 →
      let o := 0x1000 + 0x40 * (qn % 8)
      let write (k : Nat) : Instr := .registerWrite (.vf f) .bar0 (o + k) v
      exec (write 0x00) s = exec (.qringWrite p q v) s ∧ exec (write 0x08) s = exec (.qtailDoorbell p q v) s
      ∧ exec (write 0x18) s = exec (.qcqWrite p q v) s ∧ exec (write 0x28) s = exec (.qctlWrite p q v) s
      ∧ put (write 0x20) (fun h' => h' = { h with qcqHead := v &&& 0xFFFF })
      ∧ put (write 0x30) (fun h' => h' = { h with qroot := v &&& 0x000FFFFFFFFF0000 })
      ∧ put (write 0x38) (fun h' => h' = { h with qslice := v &&& 0xFFFFFFFF })
      ∧ exec (write 0x10) s = .next s)
  ∧ (∀ (s : State) (v : Word64),
      exec (.registerWrite .pf0 .bar0 0x210000 v) s = .next (updDev s fun d => { d with domnum := v &&& 0x80000000000007FF }))
  ∧ ∀ (s : State) (fn : FnId) (vec : BitVec 4), ∃ t, exec (.msixUnmask fn vec) s = .next t
      ∧ (∀ k : Nat, bit (msixOf t fn).masked k = (bit (msixOf s fn).masked k && decide (k ≠ vec.toNat)))
      ∧ (∀ k : Nat, bit (msixOf t fn).pending k = (bit (msixOf s fn).pending k && decide (k ≠ vec.toNat)))
      ∧ t.dev.out = s.dev.out ++ (if bit (msixOf s fn).pending vec.toNat then [.msix fn vec.toNat] else [])
      ∧ t.hbm = s.hbm ∧ t.bus = s.bus ∧ t.polders = s.polders

/-! ### Graphs, code and the fault queue -/

/-- Graph slots and code slots (R239 to R241, R314, R317). A write of GDESC with VALID puts a graph in service that R240
accepts, or takes VALID away with an entry that names the node. GTRIG starts a run, keeps one pending, or meets
GRAPH_BUSY; a ready NOP node starts and completes; once all nodes have, the run ends with its entry. LOAD takes the first
free slot for a valid object, or gives the status; UNLOAD marks the slot, which becomes free once every CU has passed its
generation and no task runs from it. TAG, number and DETAIL of the entries that a slot writes for itself are log 26; the order of
LOAD's checks, the GEN that UNLOAD leaves, and when a CU passes a generation, are log 27. -/
def Obligations.GraphsAndCode : Prop :=
  ∀ (s : State) (p : PolderNo),
    let pn := p.toNat
    let ps := getPolder s pn
    let said (t : State) (q number detail status : Nat) : Prop := (getQueue t pn q).cqWaiting = (getQueue s pn q).cqWaiting
      ++ [[BitVec.ofNat 64 (number % 2 ^ 48), 3, BitVec.ofNat 64 detail, BitVec.ofNat 64 status]]
    (∀ (g : BitVec 6) (v : Word64),
      let x := { getSlot s pn g.toNat with gdesc := v &&& 0x8000003F01FFFFFF }
      ((v.getLsbD 63 = false ∨ graphFault s pn x = none) → ∃ t, exec (.graphValidate p g v) s = .next t
        ∧ getSlot t pn g.toNat = x ∧ SameOutside s t)
      ∧ (v.getLsbD 63 = true → ∀ n, graphFault s pn x = some n → ∃ t, exec (.graphValidate p g v) s = .next t
        ∧ getSlot t pn g.toNat = { x with gdesc := x.gdesc &&& 0x7FFFFFFFFFFFFFFF } ∧ said t x.q 0 n 9 ∧ SameOutside s t))
    ∧ (∀ v : Word64,
      let g := fld v 63 58
      let x := getSlot s pn g
      let n := fld v 57 47
      (placing s pn = false → exec (.gtrig p v) s = .next s)
      ∧ (placing s pn = true → (1024 < n ∨ flag x.gdesc 63 = false) → ∃ t, exec (.gtrig p v) s = .next t
        ∧ said t x.q 0 0 9 ∧ getSlot t pn g = x)
      ∧ (placing s pn = true → n ≤ 1024 → flag x.gdesc 63 = true →
        (x.running = none → n = 0 → ∃ t r, exec (.gtrig p v) s = .next t ∧ (getSlot t pn g).running = some r
          ∧ r.begun = true ∧ r.number = x.runs + 1 ∧ r.started = 0 ∧ r.done = 0 ∧ r.ctAddr = fld x.ctaddr 54 0
          ∧ r.ctVal = x.ctval ∧ r.origin = none ∧ SameOutside s t)
        ∧ (x.running.isSome = true → x.pending = none → ∃ t r, exec (.gtrig p v) s = .next t
          ∧ getSlot t pn g = { x with runs := x.runs + 1, pending := some r } ∧ r.begun = false ∧ r.number = x.runs + 1
          ∧ r.npatch = n ∧ r.patch = fld v 46 0 * 256 ∧ SameOutside s t)
        ∧ (x.running.isSome = true → x.pending.isSome = true → ∃ t, exec (.gtrig p v) s = .next t
          ∧ said t x.q 0 g 10 ∧ getSlot t pn g = x)))
    ∧ (∀ (g : BitVec 6) (n : BitVec 12) (r : GraphRun),
      let x := getSlot s pn g.toNat
      let imgs := slotImgs s pn x
      let w := imgs.getD n.toNat []
      let done := setBit r.done n.toNat true
      placing s pn = true → x.running = some r → r.begun = true → n.toNat ∈ readyNodes imgs r → pktType w = 1 →
      listBytes w = 0 → r.fault = none → (∀ y ∈ x.steps, y.1 ≠ n.toNat) → (∀ y ∈ x.waits, y.1 ≠ n.toNat) →
      (done ≠ 2 ^ x.cnt - 1 → ∃ t, exec (.graphNodeStart p g n) s = .next t ∧ SameOutside s t
        ∧ (getSlot t pn g.toNat).running = some { r with started := setBit r.started n.toNat true, done := done })
      ∧ (done = 2 ^ x.cnt - 1 → setBit r.started n.toNat true = done ||| r.failed → r.ctAddr = 0 → r.origin = none →
        x.pending = none → ∃ t, exec (.graphNodeStart p g n) s = .next t ∧ SameOutside s t
          ∧ (getSlot t pn g.toNat).running = none ∧ said t x.q r.number 0 0))
    ∧ (∀ v : Word64,
      let q := getQueue s pn (fld v 61 56)
      let va := fld v 54 0
      let gen := (advanceGen ps).pgen
      let res (n : Nat) : Prop := ∃ t, exec (.codeLoad p v) s = .next t
        ∧ (getPolder t pn).coderes = BitVec.ofNat 64 n ∧ (getPolder t pn).pgen = gen ∧ (getPolder t pn).code = ps.code
        ∧ SameOutside s t
      (∀ n, readObject s (cpAcc pn q.root q.remDone) va = .error (.status n) → res n)
      ∧ ∀ o ks, readObject s (cpAcc pn q.root q.remDone) va = .ok (o, ks) →
        ((∀ k : Fin 64, (ps.code[k]).st ≠ .free) → res 1)
        ∧ ∀ k : Fin 64, (ps.code[k]).st = .free → (∀ j : Fin 64, j < k → (ps.code[j]).st ≠ .free) →
          ∃ t, exec (.codeLoad p v) s = .next t ∧ (getPolder t pn).pgen = gen
            ∧ (getPolder t pn).coderes = BitVec.ofNat 64 (gen * 2 ^ 48)
            ∧ (getPolder t pn).code = vset ps.code k.val ⟨va, gen, 0, .loaded, o.textOff, o.textLen, ks, 0⟩ ∧ SameOutside s t)
    ∧ (∀ v : Word64,
      let gen := (advanceGen ps).pgen
      ((∀ k : Fin 64, ¬ ((ps.code[k]).st = .loaded ∧ (ps.code[k]).gen = fld v 15 0)) → ∃ t,
        exec (.codeUnload p v) s = .next t ∧ (getPolder t pn).code = ps.code ∧ (getPolder t pn).pgen = gen
        ∧ (getPolder t pn).coderes = BitVec.ofNat 64 (fld ps.coderes 63 48 * 2 ^ 48 + 5))
      ∧ ∀ k : Fin 64, (ps.code[k]).st = .loaded → (ps.code[k]).gen = fld v 15 0 →
        (∀ j : Fin 64, j < k → ¬ ((ps.code[j]).st = .loaded ∧ (ps.code[j]).gen = fld v 15 0)) → ∃ t,
          exec (.codeUnload p v) s = .next t ∧ (getPolder t pn).pgen = gen
          ∧ (getPolder t pn).code = vset ps.code k.val { ps.code[k] with st := .unloading, ugen := gen, passed := 0 }
          ∧ (getPolder t pn).coderes = BitVec.ofNat 64 (fld ps.coderes 63 48 * 2 ^ 48))
    ∧ ∀ e : BitVec 6,
      let c := vget CodeSlot.init ps.code e.toNat
      let passes (k : Nat) : Bool := bit c.passed k || cuPasses ps pn c.ugen k
      (c.st ≠ .unloading → exec (.codeSlotFree p e) s = .next s)
      ∧ (c.st = .unloading → c.passed < 4096 →
        (((∀ k, k < 12 → passes k = true) ∧ slotBusy ps e.toNat c = false) → ∃ t, exec (.codeSlotFree p e) s = .next t
          ∧ (getPolder t pn).code = vset ps.code e.toNat CodeSlot.init ∧ SameOutside s t)
        ∧ (((∃ k, k < 12 ∧ passes k = false) ∨ slotBusy ps e.toNat c = true) → ∃ t m, exec (.codeSlotFree p e) s = .next t
          ∧ (getPolder t pn).code = vset ps.code e.toNat { c with passed := m } ∧ (∀ k, bit m k = (decide (k < 12) && passes k))
          ∧ SameOutside s t))

/-- The fault queue and the returns from exceptions (R244, R248 to R251). The oldest record goes to the ring with the phase
bit while EN = 1 and a place is free; FQRING takes a write while EN = 0. RESUME lets a suspended block go on at its resume
point: at its instruction, after it, or at its checkpoint; SKIP goes on after the instruction of a resume point `at`; the
cluster waits for slots once no member is suspended; KILL ends the task with the trap's TCAUSE. Any other resolution sets
ERR alone. That records wait while there is no PCIe interface is log 71; that SKIP keeps what the instruction had finished, with
the flags of an MMAD's rows in tacc, and lets the words after a convoy's skipped member stand alone, is logs 43 and 73. -/
def Obligations.FaultResolutions : Prop :=
  ∀ (s : State) (p : PolderNo),
    let pn := p.toNat
    let f := (getPolder s pn).fq
    (∀ a0 a1 a2 a3 a4 a5 a6 a7 rest, f.waiting = [a0, a1, a2, a3, a4, a5, a6, a7] :: rest →
      ((f.ready = false ∨ s.dev.pcieUp = false) → exec (.faultRecordWrite p) s = .next s)
      ∧ (f.ready = true → s.dev.pcieUp = true → ∃ t, exec (.faultRecordWrite p) s = .next t ∧ t.hbm = s.hbm
        ∧ (getPolder t pn).fq.waiting = rest ∧ (getPolder t pn).fq.index = (f.index + 1) % f.size
        ∧ (getPolder t pn).fq.phase = (if (f.index + 1) % f.size = 0 then !f.phase else f.phase)
        ∧ t.bus = memSetBytes s.bus (fld f.fqring 63 12 * 4096 + 64 * f.index)
            (([a0, a1, a2, a3, a4, a5, a6, a7 ||| (if f.phase then 0x8000000000000000 else 0)] : List Word64).flatMap
              fun w => leBytes 8 w.toNat)))
    ∧ (∀ v, (flag f.fqctl 0 = true → ∃ t, exec (.fqringWrite p v) s = .next t ∧ (getPolder t pn).fq = f ∧ SameOutside s t)
      ∧ (flag f.fqctl 0 = false → ∃ t r, exec (.fqringWrite p v) s = .next t ∧ SameOutside s t
        ∧ (getPolder t pn).fq = { f with fqring := r, index := 0, phase := true }
        ∧ ∀ k, k < 64 → r.getLsbD k = (v.getLsbD k && (decide (k < 5) || decide (12 ≤ k)))))
    ∧ ∀ ctx : BitVec 32,
      let id : BlkId := ⟨pn, ctx.toNat⟩
      let rejects (i : Instr) : Prop := ∃ t, exec i s = .next t ∧ SameOutside s t
        ∧ (getPolder t pn).fq = { f with fqctl := f.fqctl ||| 8 } ∧ (∀ k, getBlock t k = getBlock s k)
      (getBlock s id = none → rejects (.fqresResume p ctx) ∧ rejects (.fqresSkip p ctx) ∧ rejects (.fqresKill p ctx))
      ∧ ∀ b, getBlock s id = some b →
        ((b.status ≠ .suspended ∨ b.resume = .none) → rejects (.fqresResume p ctx) ∧ rejects (.fqresKill p ctx))
        ∧ ((b.status ≠ .suspended ∨ b.resume ≠ .at) → rejects (.fqresSkip p ctx))
        ∧ (b.status = .suspended →
          let goesOn (i : Instr) (b' : Block) : Prop := ∃ t, exec i s = .next t
            ∧ getBlock t id = some { b' with status := .preempted } ∧ SameOthers s t id ∧ t.bus = s.bus ∧ t.dev = s.dev
            ∧ (∀ l, l ≠ ctxAddr s id / 128 → mapGet t.poison l = mapGet s.poison l)
            ∧ ∀ c, clusterOf s pn b.cid = some c → (∀ x ∈ c.ctxs, x ≠ id.ctx → ∀ d, getBlock s ⟨pn, x⟩ = some d →
                d.status ≠ .suspended) → ∃ c', clusterOf t pn b.cid = some c' ∧ c'.suspended = false
          (b.resume = .at → goesOn (.fqresResume p ctx) b
            ∧ goesOn (.fqresSkip p ctx) { b with
                core := (let c := (match b.prog with
                    | x :: _ => x.apply b.core
                    | [] => b.core)
                  let fl := b.mmad.elim 0 fun m => m.flags.foldl (fun f e => f ||| e.2) 0
                  { c with fstat := c.fstat ||| BitVec.ofNat 64 fl }),
                pc := b.pc + 4, prog := [], stored := false, skipC := decide (1 < b.convoy ∨ b.openW ≠ []), convoy := 0, openW := [],
                mmad := none })
          ∧ (b.resume = .after → goesOn (.fqresResume p ctx) { b with pc := b.pc + 4, prog := [], stored := false })
          ∧ (b.resume = .strip → ∃ b', goesOn (.fqresResume p ctx) b' ∧ b'.core = b.ckpt ∧ b'.pc = b.ckptPc ∧ b'.sbuf = []
            ∧ b'.rewindable = b.rewindable ∧ b'.consumed = b.consumed)
          ∧ (b.resume ≠ .none → ∀ c k, clusterOf s pn b.cid = some c → getTask s c.creator c.handle = some k →
            k.ended = none → ∃ t, exec (.fqresKill p ctx) s = .next t
              ∧ getTask t c.creator c.handle = some { k with ended := some (k.faulted.getD b.tcause) }))

/-! ### Polders -/

/-- Reset, partition and registers of a polder (R264 to R266, R271, R272, R280). PRESET stops a released polder, its blocks
and tasks gone without being saved: where no other polder runs anything, no byte of memory changes; the second turn restores STATE, scrubs its HBM where asked, and records 0x06 (that a reset takes two turns
is the model's choice, log 25). A value of PCTL that breaks R264 is ignored; a change while EN = 1 begins a reset with scrub
that applies it. S2ROOT, CTXPOOL and LMI take effect once every block has been pre-empted and is at rest; until then the write waits. That a value
with EN = 0 is not held to R264, and that every write of LMI is recorded, is log 60. -/
def Obligations.PolderResets : Prop :=
  ∀ (s : State) (p : PolderNo), Memory.wf s.hbm = true →
    let pn := p.toNat
    let x := getPolder s pn
    let begins (i : Instr) (scrub : Bool) (pctl : Option Word64) : Prop := ∃ t, exec i s = .next t
      ∧ (let y := getPolder t pn
         y.st = .resetting ∧ y.resetJob = some ⟨scrub, x.st, pctl⟩ ∧ y.blocks = [] ∧ y.tasks = [] ∧ y.clusters = []
         ∧ y.cards = [] ∧ y.tlb = [] ∧ y.slOpen = 0 ∧ y.s2root = 0 ∧ y.pcieWin = x.pcieWin ∧ y.regWin = x.regWin
         ∧ y.records = x.records ∧ y.chain = x.chain)
      ∧ ((∀ k, k ≠ pn → (getPolder s k).clusters = []) → t.hbm = s.hbm)
      ∧ t.bus = s.bus ∧ ∀ k, k ≠ pn → (getPolder t k).st = (getPolder s k).st ∧ (getPolder t k).pctl = (getPolder s k).pctl
    let ends (i : Instr) (j : ResetJob) (scrub : Bool) : Prop := ∃ t, exec i s = .next t
      ∧ (let y := getPolder t pn
         y.st = j.rate ∧ y.resetJob = none ∧ y.blocks = [] ∧ y.tasks = [] ∧ y.pctl = j.pctl.getD x.pctl
         ∧ ∃ r : List Byte, y.records = x.records ++ [r] ∧ r[0]? = some 6 ∧ r[8]? = some (if scrub then 2 else 1))
      ∧ t.bus = s.bus
      ∧ ∀ a, memByte t.hbm a = if scrub ∧ a / polderBytes = pn then 0 else memByte s.hbm a
    (x.resetJob = none → polderDown s pn = true →
      exec (.presetKeep p) s = .next s ∧ exec (.presetScrub p) s = .next s)
    ∧ (x.resetJob = none → polderDown s pn = false →
        begins (.presetKeep p) false none ∧ begins (.presetScrub p) true none)
    ∧ (∀ j, x.resetJob = some j → ends (.presetKeep p) j j.scrub ∧ ends (.presetScrub p) j true)
    ∧ (∀ v : Word64,
      let w := v &&& 0x80000000000F1F10
      ((pctlLegal pn w = false ∨ w = x.pctl) → exec (.pctlWrite p v) s = .next s)
      ∧ (pctlLegal pn w = true → w ≠ x.pctl → x.resetJob = none →
        (flag x.pctl 63 = false → ∃ t, exec (.pctlWrite p v) s = .next t ∧ getPolder t pn = { x with pctl := w }
          ∧ SameOutside s t ∧ ∀ k, k ≠ pn → getPolder t k = getPolder s k)
        ∧ (flag x.pctl 63 = true → polderDown s pn = false → begins (.pctlWrite p v) true (some w))))
    ∧ (∀ v : Word64, pctlLegal pn v = true ↔ (v.getLsbD 63 = true →
        fld v 12 8 ∈ ([1, 2, 4, 8, 16] : List Nat) ∧ fld v 19 16 % fld v 12 8 = 0 ∧ fld v 19 16 ≤ pn
        ∧ pn < fld v 19 16 + fld v 12 8))
    ∧ ∀ v : Word64,
      let stopped (i : Instr) (y : Polder → Prop) : Prop := ∃ t, exec i s = .next t ∧ y (getPolder t pn)
        ∧ (∀ c ∈ (getPolder t pn).clusters, c.resident = false) ∧ t.bus = s.bus
        ∧ ∃ f : OutReq → Requester, t.dev = { s.dev with outstanding := s.dev.outstanding.map fun o => { o with who := f o } }
      ((∃ e ∈ x.blocks, e.2.begun = true) → ∀ r, stopped (.ownerMapWrite p r v) fun y => y.ownerWrites = x.ownerWrites ++ [(r, v)]
        ∧ y.s2root = x.s2root ∧ y.ctxpool = x.ctxpool ∧ y.lmi = x.lmi ∧ y.records = x.records)
      ∧ ((∀ e ∈ x.blocks, e.2.begun = false) → x.ownerWrites = [] →
      stopped (.ownerMapWrite p .s2root v) (fun y => y.s2root = v &&& 0x000FFFFFFFFF0000 ∧ y.ctxpool = x.ctxpool)
      ∧ stopped (.ownerMapWrite p .ctxpool v) (fun y => y.ctxpool = v &&& 0x000FFFFFFFFFFFFF ∧ y.s2root = x.s2root)
      ∧ stopped (.ownerMapWrite p .lmi v) fun y => y.lmi = v &&& 1
        ∧ ∃ r : List Byte, y.records = x.records ++ [r] ∧ r[0]? = some 7)

/-- Sluices (R267, R268): the two dwords of a request and of a grant take their RW bits; a request that comes to match a
grant opens, and one that stops matching closes and stays pending until no access admitted through it is left, whichever of
the two sides has been written. -/
def Obligations.SluiceEntries : Prop :=
  ∀ (s : State) (p : PolderNo) (k : BitVec 3),
    let pn := p.toNat
    let x := getPolder s pn
    (∀ (hi : Bool) (v : Word64),
      let w := v &&& (if hi then 0x00000000FFFFFFFF else 0xC00FFFFFFFFF000F)
      let old := vget (0, 0) x.slreq k.toNat
      let new : Word64 × Word64 := if hi then (old.1, w) else (w, old.2)
      let s1 := updPolder s pn fun y => { y with slreq := vset y.slreq k.toNat new }
      (∃ t, exec (.sluiceEntryWrite p false k hi v) s = .next t ∧ (getPolder t pn).slreq = vset x.slreq k.toNat new
        ∧ SameOutside s t
        ∧ (sluiceMatches s1 pn new = true → bit (getPolder t pn).slOpen k.toNat = true)
        ∧ (bit x.slOpen k.toNat = true → sluiceMatches s1 pn new = false → bit (getPolder t pn).slOpen k.toNat = false
          ∧ (getPolder t pn).closing = x.closing ++ [⟨k.toNat, (slWindow old).1, (slWindow old).2⟩])
        ∧ ∀ j, j ≠ k.toNat → bit (getPolder t pn).slOpen j = bit x.slOpen j)
      ∧ (∃ t, exec (.sluiceEntryWrite p true k hi v) s = .next t ∧ SameOutside s t
        ∧ (getPolder t pn).slgrant = vset x.slgrant k.toNat
            (if hi then ((vget (0, 0) x.slgrant k.toNat).1, w) else (w, (vget (0, 0) x.slgrant k.toNat).2))
        ∧ ∀ r j, r < 16 → j < 8 →
          let e := vget (0, 0) (getPolder s r).slreq j
          let was := bit (getPolder s r).slOpen j
          vget (0, 0) (getPolder t r).slreq j = e
          ∧ (fld e.1 3 0 ≠ pn → bit (getPolder t r).slOpen j = was)
          ∧ (fld e.1 3 0 = pn → bit (getPolder t r).slOpen j = sluiceMatches t r e
            ∧ (was = true → sluiceMatches t r e = false → ⟨j, (slWindow e).1, (slWindow e).2⟩ ∈ (getPolder t r).closing)
            ∧ (was = false → sluiceMatches t r e = true → bit (getPolder t r).slDown j = false))))
    ∧ ∃ t, exec (.sluiceCloseComplete p k) s = .next t ∧ SameOutside s t
      ∧ getPolder t pn = { x with closing := x.closing.filter fun c => c.k != k.toNat || closeBusy x c }

/-- Voted control and hand-over (R274 to R276, R278, R282, R283). A dissent counts and starts a resync, which ends with a
count of its own; a dissent or a disagreement while a machine resyncs is a machine check, which counts, returns every
machine to full vote, fails a hand-over that is not committed, and halts each queue with a packet in flight other than a
LAUNCH or a GRAPH_RUN, whose entry has DETAIL[0] = 1 where a step of it had been performed, and 0 where its requests have been
answered PERM, DOWN or POISON (of a request without such an answer nobody says so: log 77). HOCTL loads the staged image where it verifies; a switch commits it and records it, at a time when
no packet is in hand or awaits a causeway (that HOCTL goes through verification and loading in one event, and changes nothing else
without a staged image, is log 62; the image's bytes and what verifies them are free, log 12). A firmware core that meets a word of a major outside its list takes an exception,
and ERET returns from it (R243, R369); where the handler is and at what level it runs is open (log 80). -/
def Obligations.VotedControl : Prop :=
  ∀ (s : State) (p : PolderNo),
    let pn := p.toNat
    let x := getPolder s pn
    let sat (n : Nat) : Nat := Nat.min (n + 1) 65535
    let ix (m : VotedMachine) : Nat := match m with
      | .commandProcessor => 0 | .scheduler => 1 | .walkers => 2
    let dissents (m : VotedMachine) (y : Polder) : Nat := match m with
      | .commandProcessor => y.dcp | .scheduler => y.dsched | .walkers => y.dwalk
    let resyncs (m : VotedMachine) (y : Polder) : Nat := match m with
      | .commandProcessor => y.rcp | .scheduler => y.rsched | .walkers => y.rwalk
    let checked (i : Instr) : Prop := ∃ t, exec i s = .next t ∧ t.hbm = s.hbm ∧ t.bus = s.bus
      ∧ (let y := getPolder t pn
         y.mchk = sat x.mchk ∧ (∀ m, vget none y.votes (ix m) = none) ∧ (2 < x.hostate → y.hostate = x.hostate)
         ∧ ((x.hostate = 1 ∨ x.hostate = 2) → y.hostate = 4) ∧ y.tasks = x.tasks ∧ y.blocks = x.blocks)
      ∧ ∀ q, q < 64 → ∀ e ∈ (getQueue s pn q).started, e.ty ≠ 2 → e.ty ≠ 3 →
          (getQueue t pn q).err = true ∧ (∀ y ∈ (getQueue t pn q).started, y.sn ≠ e.sn)
          ∧ (∃ d, completionWords e 0 d 0x0B ∈ (getQueue t pn q).cqWaiting
            ∧ (d = 0 ∨ d = 1 ∧ ∃ j, x.cpBusy = some j ∧ j.q = q ∧ j.pkt.sn = e.sn)
            ∧ ∀ j, x.cpBusy = some j → j.q = q → j.pkt = e → j.wrote = true → (e.ty = 4 ∨ e.ty = 5 ∨ e.ty = 6) → d = 1)
          ∧ ((∀ y ∈ (getQueue s pn q).started, y.sn = e.sn → y = e) → ∀ j, x.cpBusy = some j → j.q = q → j.pkt = e → j.wrote = false →
            (∀ n ∈ j.needs, ∃ r, remFind (getQueue s pn q).remDone n.1 n.2.1 n.2.2 = some r ∧ 1 ≤ r.status ∧ r.status ≤ 3) →
            completionWords e 0 0 0x0B ∈ (getQueue t pn q).cqWaiting)
    (∀ (m : VotedMachine) (c : BitVec 2), c ≠ 3 →
      (vget none x.votes (ix m) = none → ∃ t, exec (.voteDissent p m c) s = .next t ∧ SameOutside s t
        ∧ vget none (getPolder t pn).votes (ix m) = some c ∧ dissents m (getPolder t pn) = sat (dissents m x)
        ∧ (getPolder t pn).mchk = x.mchk)
      ∧ ((vget none x.votes (ix m)).isSome = true → checked (.voteDissent p m c)))
    ∧ (∀ m, (vget none x.votes (ix m) = none → exec (.resyncComplete p m) s = .next s)
      ∧ ((vget none x.votes (ix m)).isSome = true → ∃ t, exec (.resyncComplete p m) s = .next t ∧ SameOutside s t
        ∧ vget none (getPolder t pn).votes (ix m) = none ∧ resyncs m (getPolder t pn) = sat (resyncs m x)
        ∧ dissents m (getPolder t pn) = dissents m x))
    ∧ ((∀ m, vget none x.votes (ix m) = none) → exec (.controlMachineCheck p) s = .next s)
    ∧ ((∃ m, (vget none x.votes (ix m)).isSome = true) → checked (.controlMachineCheck p))
    ∧ (∀ v : Word64, ∃ t, exec (.hoctlWrite v) s = .next t ∧ t.dev = { s.dev with hoctl := v } ∧ t.hbm = s.hbm
      ∧ ((v ≠ 1 ∨ s.dev.staged = none) → t.polders = s.polders)
      ∧ ∀ f, v = 1 → s.dev.staged = some f → ∀ k : Fin 16, t.polders[k] =
          if (s.polders[k]).st = .off ∨ (s.polders[k]).st = .dead then s.polders[k]
          else if shake256 f.key = Config.fuseFwkh ∧ Config.xmssVerify f.key f.bytes f.sig = true ∧ Config.fuseMinSvn ≤ f.svn
          then { s.polders[k] with hostate := 2, pendingImage := some (f.svn, shake256 f.bytes) }
          else { s.polders[k] with hostate := 4, pendingImage := none })
    ∧ ((x.pendingImage = none ∨ x.hostate ≠ 2 ∨ (∃ m, (vget none x.votes (ix m)).isSome = true) ∨ x.cpBusy.isSome = true
        ∨ ∃ o ∈ s.dev.outstanding, ∃ q, o.who = .packet pn q) → exec (.handoverSwitch p) s = .next s)
    ∧ (∀ (k : Bool) (w : Word32) (rest : List Turn), s.sched = .firmware p k w :: rest → polderDown s pn = false →
      let f := getFw s pn k
      let m := (w >>> 26).toNat
      let fw (y : FwCore) : Prop := ∃ t, step s = .next t ∧ getFw t pn k = y ∧ getFw t pn (!k) = getFw s pn (!k)
        ∧ SameOutside s t
      ((m = 0 ∨ m = 0x11 ∨ m = 0x12 ∨ m = 0x13 ∨ (0x17 ≤ m ∧ m ≤ 0x19) ∨ (0x1C ≤ m ∧ m ≤ 0x21) ∨ (0x24 ≤ m ∧ m ≤ 0x28)
          ∨ 0x2A ≤ m) →
        fw { f with savedPc := f.pc, savedPriv := f.priv, pc := Config.fwVector f.pc, priv := Config.fwPriv f.priv,
                    exceptions := false })
      ∧ (encode .eret = some w → fw { f with pc := f.savedPc, priv := f.savedPriv, exceptions := true }))
    ∧ ∀ n d, x.pendingImage = some (n, d) → x.hostate = 2 → (∀ m, vget none x.votes (ix m) = none) → x.cpBusy = none →
      (∀ o ∈ s.dev.outstanding, ∀ q, o.who ≠ .packet pn q) →
      ∃ t, exec (.handoverSwitch p) s = .next t ∧ SameOutside s t
        ∧ (let y := getPolder t pn
           y.hostate = 3 ∧ y.svn = n ∧ y.digest = d ∧ y.pendingImage = none ∧ y.blocks = x.blocks ∧ y.tasks = x.tasks
           ∧ ∃ r : List Byte, y.records = x.records ++ [r] ∧ y.chain = shake256 (x.chain ++ r)
             ∧ r[0]? = some 2 ∧ r[1]? = some (BitVec.ofNat 8 pn))

/-! ### The device -/

/-- Bring-up and the hardware's own events (R18, R20, R21, R32, R143, R147, R273, R277, R278, R281, R284, R285). After a
bring-up without a failure, on an empty journal, with a die-manager image that is accepted, every port is up, and with
accepted control firmware every polder is at reduced rate with its two records; a polder that fails is dead, and the others
go on. The host reaches a function once bring-up has begun, while the PCIe interface works and the die link joins the
function's half to half 0. Then rates rise, rails limit clocks, failures lose polders, an error marks its
line, a function reaches HBM through its BAR4 window, modules of the die link repair, and quotes and logs are answered,
a quote under a key index that is used once. Nothing answers a function before bring-up has begun. An entry of aq or eq that an error
hits carries a mark (R260). The images and the fuses are free (log 12); which records bring-up writes and who reads them (log 62), the
levels of bring-up and the clocks (log 63), what becomes of an inbound access that is refused (log 64) and when a function answers
(log 93) are the model's choices. -/
def Obligations.DeviceEvents : Prop :=
  ∀ (s : State),
    (s.dev.journal = [] → ∃ t, exec (.bringup []) s = .next t ∧ t.hbm = s.hbm ∧ t.bus = s.bus ∧ t.dev.step = 5
      ∧ t.dev.boot = 1 ∧ t.dev.linkUp = imageGood (dieFw 1) ∧ t.dev.pcieUp = true
      ∧ (∀ n : Fin 12, (t.dev.ports[n]).up = imageGood (dieFw 1))
      ∧ t.dev.records.length = (if imageGood (dieFw 1) then 2 else 0) ∧ t.dev.domnum = 0
      ∧ ∀ k : Fin 16, (t.polders[k]).clock = 1800 ∧ (t.polders[k]).pctl = 0 ∧ (t.polders[k]).blocks = []
        ∧ (t.polders[k]).st = (if imageGood (dieFw 1) then (if imageGood (bootFw 1) then .reduced else .dead) else .off)
        ∧ (t.polders[k]).records.length = if imageGood (dieFw 1) && imageGood (bootFw 1) then 2 else 0)
    ∧ (s.dev.journal = [] → ∀ p : PolderNo, ∃ t, exec (.bringup [.polder p]) s = .next t
      ∧ ∀ k : Fin 16, (t.polders[k]).st = if imageGood (dieFw 1) = false then .off
        else if k.val = p.toNat ∨ imageGood (bootFw 1) = false then .dead else .reduced)
    ∧ (∀ rest i fn, s.sched = .event i :: rest →
      let s0 : State := { s with sched := rest }
      (hostFn s0 i = none → step s = exec i s0)
      ∧ (hostFn s0 i = some fn →
        ((s.dev.pcieUp = false ∨ s.dev.step = 0 ∨ ∃ v, fn = .vf v ∧ 8 ≤ vfPolder v.toNat ∧ s.dev.linkUp = false) →
          step s = .next s0)
        ∧ (s.dev.pcieUp = true → s.dev.step ≠ 0 → (∀ v, fn = .vf v → vfPolder v.toNat < 8 ∨ s.dev.linkUp = true) →
          step s = exec i s0)))
    ∧ (∀ p : PolderNo, (getPolder s p.toNat).st = .reduced → 5 ≤ s.dev.step →
      ∃ t, exec (.fullRateTransition p) s = .next t ∧ (getPolder t p.toNat).st = .full
        ∧ (getPolder t p.toNat).clock = 3600 ∧ t.hbm = s.hbm
        ∧ vget 0 t.dev.stackRate (p.toNat / 2) = vget 0 s.dev.stackFinal (p.toNat / 2)
        ∧ (getPolder t p.toNat).blocks = (getPolder s p.toNat).blocks)
    ∧ (∀ p : PolderNo, (getPolder s p.toNat).st ≠ .reduced → exec (.fullRateTransition p) s = .next s)
    ∧ (∀ p : PolderNo, let x := getPolder s p.toNat
      let sets (a : RailAction) (y : Polder) : Prop := ∃ t, exec (.railLimit p a) s = .next t ∧ SameOutside s t
        ∧ getPolder t p.toNat = y ∧ ∀ k, k ≠ p.toNat → getPolder t k = getPolder s k
      sets .lower { x with clock := Nat.max 1800 (x.clock - 100) } ∧ sets .release { x with stalled := false }
      ∧ (x.st = .full → sets .raise { x with clock := Nat.min 3600 (x.clock + 100) })
      ∧ (x.clock = 1800 → sets .stall { x with stalled := true }) ∧ (x.clock ≠ 1800 → sets .stall x))
    ∧ (∀ u : FailedUnit,
      let lost (p : Nat) : Prop := match u with
        | .polder q => p = q.toNat | .stack k => p / 2 = k.toNat | .fabric h => p / 8 = if h then 1 else 0
        | .dieLink => 8 ≤ p | .pcie | .port _ => False
      ∃ t, exec (.failure u) s = .next t ∧ t.bus = s.bus
        ∧ (∀ p, p < 16 → lost p → (getPolder s p).st ≠ .off →
            (getPolder t p).st = .dead ∧ (getPolder t p).blocks = [] ∧ (getPolder t p).tasks = [])
        ∧ (∀ p, p < 16 → ¬ lost p → (getPolder t p).st = (getPolder s p).st ∧ (getPolder t p).pctl = (getPolder s p).pctl)
        ∧ (u = .pcie → t.dev.pcieUp = false) ∧ (u = .dieLink → t.dev.linkUp = false)
        ∧ ∀ n, u = .port n → (getPort t n.toNat).up = false)
    ∧ (∀ (pa : Nat) (cached : Bool), pa < 0x8000000000 → ∃ t, exec (.uncorrectableError (.line pa cached)) s = .next t
      ∧ linePoisoned t (pa / 128) = true ∧ (∀ l, l ≠ pa / 128 → linePoisoned t l = linePoisoned s l)
      ∧ t.hbm = s.hbm ∧ t.polders = s.polders ∧ t.dev = s.dev)
    ∧ (∀ id b, Acts s id b → (∃ half, Traps (.uncorrectableError .context) s id b ⟨.uncorrectable, half, false, 0, 0⟩)
      ∧ ∀ side r, r ≠ 0 → ∃ b', exec (.uncorrectableError (.reg side r)) s = .next (setBlock s id b')
        ∧ regMark b'.core side r = some (.chip (if side then .aReg else .sReg) r.toNat)
        ∧ regGet b'.core side r = regGet b.core side r ∧ b'.pc = b.pc)
    ∧ (∀ id b, Acts s id b → ∀ (aq : Bool) (i : Nat) (e : SEntry),
      (if aq = true then b.core.aq else b.core.eq).entries[i]? = some e → ∃ b' u, exec (.uncorrectableError (.entry aq i)) s = .next (setBlock s id b')
        ∧ (if aq = true then b'.core.aq else b'.core.eq).entries[i]? = some { e with mark := some (.chip .queueStore u) } ∧ b'.pc = b.pc)
    ∧ (∀ fn off op, (s.dev.pcieUp = false ∨ s.dev.step = 0 ∨ (s.dev.linkUp = false ∧ ∃ v : BitVec 7, fn = .vf v ∧ 8 ≤ vfPolder v.toNat)) →
      exec (.inboundPcieAccess fn off op) s = .next s)
    ∧ (s.dev.pcieUp = true → s.dev.step ≠ 0 → ∀ off n : Nat, 0 < n → off + n ≤ 0x8000000000 → gatesOpen s off n = true →
      exec (.inboundPcieAccess .pf0 off (.read n)) s = .next (updDev s fun d =>
        { d with out := d.out ++ [.pcieRead .pf0 (memBytes s.hbm off n) (poisonIn s off n).isSome] }))
    ∧ (s.dev.pcieUp = true → s.dev.step ≠ 0 → ∀ (v : BitVec 7) (off : Nat), (vfPolder v.toNat < 8 ∨ s.dev.linkUp = true) →
      let pa := vfPolder v.toNat * polderBytes + off
      let tells (op : PcieOp) (o : HostOut) : Prop := exec (.inboundPcieAccess (.vf v) off op) s
        = .next (updDev s fun d => { d with out := d.out ++ [o] })
      (∀ n, 0 < n → s.dev.vfMse = true → off + n ≤ polderBytes →
        (polderDown s (vfPolder v.toNat) = false → tells (.read n) (.pcieRead (.vf v) (memBytes s.hbm pa n)
          (poisonIn s pa n).isSome))
        ∧ (polderDown s (vfPolder v.toNat) = true → tells (.read n) (.pcieUr (.vf v))))
      ∧ (∀ n, 0 < n → (s.dev.vfMse = false ∨ polderBytes < off + n) → tells (.read n) (.pcieUr (.vf v)))
      ∧ ∀ bs : List Byte, bs ≠ [] →
        (s.dev.vfMse = true → off + bs.length ≤ polderBytes → polderDown s (vfPolder v.toNat) = false →
          exec (.inboundPcieAccess (.vf v) off (.write bs)) s = .next (hbmWrite s pa bs false))
        ∧ ((s.dev.vfMse = false ∨ polderBytes < off + bs.length) →
          exec (.inboundPcieAccess (.vf v) off (.write bs)) s = .next s))
    ∧ (∀ (m : BitVec 6) (bad bad2 : Nat), m.toNat < 40 →
      let x := getModule s m.toNat
      (x.out = false → x.paused = false → ∃ t y, exec (.dieLinkRepair m bad bad2) s = .next t ∧ getModule t m.toNat = y
        ∧ y.paused = true ∧ (x.spares0 + bad ≤ 4 → x.spares1 + bad2 ≤ 4 → y.spares0 = x.spares0 + bad
            ∧ y.spares1 = x.spares1 + bad2 ∧ y.half = x.half ∧ y.out = false)
        ∧ ((4 < x.spares0 + bad ∨ 4 < x.spares1 + bad2) → y.half = true ∧ y.out = x.half))
      ∧ ∃ t, exec (.dieLinkResume m) s = .next t ∧ getModule t m.toNat = { x with paused := false })
    ∧ (∀ (fn : FnId) (nonce : List Byte) (mask : BitVec 16),
      (s.dev.keyIndex < 2 ^ 40 → ∃ t body, exec (.attestQuote fn nonce mask) s = .next t
        ∧ t.dev = { s.dev with keyIndex := s.dev.keyIndex + 1, out := s.dev.out
            ++ [.doe fn (body ++ fixBytes 9893 (Config.xmssSign Config.fuseSeed s.dev.keyIndex body))] }
        ∧ body.length = 80 + ((upTo 16).filter fun p => bit (servedMask fn mask.toNat) p).length * 80
        ∧ t.polders = s.polders)
      ∧ (2 ^ 40 ≤ s.dev.keyIndex → ∃ t, exec (.attestQuote fn nonce mask) s = .next t
        ∧ t.dev = { s.dev with out := s.dev.out ++ [.keyExhausted fn] } ∧ t.polders = s.polders))
    ∧ ∀ (fn : FnId), exec (.attestLog fn none) s
        = .next (updDev s fun d => { d with out := d.out ++ [.doe fn s.dev.records.flatten] })
      ∧ (∀ p, exec (.attestLog .pf0 (some p)) s = .next (updDev s fun d =>
          { d with out := d.out ++ [.doe .pf0 (getPolder s p.toNat).records.flatten] }))
      ∧ ∀ p (v : BitVec 7), exec (.attestLog (.vf v) (some p)) s = .next (updDev s fun d =>
          { d with out := d.out ++ [.doe (.vf v) (getPolder s (vfPolder v.toNat)).records.flatten] })

/-! ### The causeways -/

/-- Flits, requests and responses (R9, R23 to R29). A flit that fails its CRC, or a message flit out of sequence, is
discarded with a replay request and counts for nothing else; one whose FTYPE is reserved is dropped whole (log 55); a paused port
takes none; a credit flit
returns credits and acknowledges; a replay resends what is not acknowledged; 64 replays pause a port, which retrains or
goes down. A request is checked at its target and answered; a response ends the request that waits for it, as does a
timeout with status 5, and reaches nobody where the block has given it up. Across a die link that is out no request reaches its target and no response its requester; that such
a request is answered as UNREACHABLE is the model's choice (log 79), and so are the packing of messages into flits and the return of
credits (log 55), the order of a target's checks and what answers a request to a polder that is off (log 56), the fields of a
response that nobody reads (log 78) and the first numbers of flits (log 84). -/
def Obligations.CausewayEvents : Prop :=
  ∀ (s : State),
    (∀ (port : BitVec 4), port.toNat < 12 →
      let x := getPort s port.toNat
      let puts (i : Instr) (y : Port) : Prop := exec i s = .next (setPort s port.toNat y)
      let left (ack : Nat) : List (Nat × List Byte) := x.replay.filter fun e => !seqLe e.1 ack
      (∀ flit, (x.up = false ∨ x.paused = true ∨ flit.length ≠ 256) → exec (.causewayFlitReceive port flit) s = .next s)
      ∧ (∀ flit, x.up = true → x.paused = false → flit.length = 256 →
          leNat (flit.drop 248) ≠ crc64nvme (flit.take 248) → puts (.causewayFlitReceive port flit) { x with replays := x.replays + 1, sent := x.sent
            ++ [flitBytes (lastSeq x.nextSeq) (lastSeq x.expSeq) 2 0 0 []] })
      ∧ (∀ flit, x.up = true → x.paused = false → flit.length = 256 →
          leNat (flit.drop 248) = crc64nvme (flit.take 248) →
          let d := leNat (flit.take 8)
          x.outReq = [] → x.outRsp = [] →
          ((field d 39 36 = 0 ∨ field d 39 36 = 3) → puts (.causewayFlitReceive port flit)
            { x with creditQ := x.creditQ + field d 35 28, creditS := x.creditS + field d 27 20, ackIn := field d 51 40,
                     replay := left (field d 51 40) })
          ∧ (field d 39 36 = 1 → field d 63 52 = x.expSeq → ∃ t, exec (.causewayFlitReceive port flit) s = .next t
            ∧ (getPort t port.toNat).expSeq = (x.expSeq + 1) % 4096 ∧ t.hbm = s.hbm ∧ t.bus = s.bus
            ∧ t.polders = s.polders)
          ∧ (field d 39 36 = 2 → puts (.causewayFlitReceive port flit)
            { x with creditQ := x.creditQ + field d 35 28, creditS := x.creditS + field d 27 20, ackIn := field d 51 40,
                     replay := left (field d 51 40), sent := x.sent ++ (left (field d 51 40)).map Prod.snd })
          ∧ (field d 39 36 = 1 → field d 63 52 ≠ x.expSeq → puts (.causewayFlitReceive port flit)
            { x with replays := x.replays + 1, sent := x.sent
              ++ [flitBytes (lastSeq x.nextSeq) (lastSeq x.expSeq) 2 0 0 []] }))
      ∧ (∀ flit, x.up = true → x.paused = false → flit.length = 256 → leNat (flit.drop 248) = crc64nvme (flit.take 248) →
          3 < field (leNat (flit.take 8)) 39 36 → exec (.causewayFlitReceive port flit) s = .next s)
      ∧ (∀ ack : BitVec 12, x.up = true → x.paused = false → puts (.causewayReplay port ack)
          { x with ackIn := ack.toNat, replay := left ack.toNat, sent := x.sent ++ (left ack.toNat).map Prod.snd })
      ∧ (x.up = true → x.paused = false → 64 ≤ x.replays → puts (.causewayRetrain port) { x with paused := true })
      ∧ (x.up = true → x.paused = true → x.outReq = [] → x.outRsp = [] → puts (.causewayRetrain port)
          { x with paused := false, replays := 0, sent := x.sent ++ x.replay.map Prod.snd })
      ∧ (x.paused = false → exec (.causewayPortDown port) s = .next s)
      ∧ (x.paused = true → x.up = true → ∃ t, exec (.causewayPortDown port) s = .next t
          ∧ (getPort t port.toNat).up = false ∧ (getPort t port.toNat).replay = [] ∧ t.hbm = s.hbm ∧ t.bus = s.bus))
    ∧ (∀ (p : PolderNo) (tag : BitVec 16),
      (findOut s p.toNat tag.toNat = none → exec (.causewayTimeout p tag) s = .next s)
      ∧ ∀ o, findOut s p.toNat tag.toNat = some o → ∃ t, exec (.causewayTimeout p tag) s = .next t
        ∧ findOut t p.toNat tag.toNat = none ∧ (∀ q, o.who = .gone q → t.polders = s.polders)
        ∧ ∀ q ctx b, o.who = .block q ctx → getBlock s ⟨q, ctx⟩ = some b → getBlock t ⟨q, ctx⟩ = some { b with
            remDone := b.remDone ++ [⟨o.dom, o.addr, o.op, 5, []⟩], waiting := false })
    ∧ (s.dev.arrivedReq = [] → exec .causewayRequest s = .next s)
    ∧ (∀ c rest, s.dev.arrivedReq = c :: rest →
      let s1 := updDev s fun d => { d with arrivedReq := rest }
      let h := c.head
      let n := if h.opc = 3 then (if h.asz then 8 else 4) else h.len
      let old := memNat s.hbm h.addr n
      let answers (s2 : State) (st : Nat) (data : List Byte) : Prop :=
        exec .causewayRequest s = .next (sendResponse s2 (portHalf c.port) h.sdom (responseBytes s2 h st data))
      let st := targetStatus s c.port h.sdom h.addr n (h.opc != 1)
      ((h.opc ≠ 3 ∨ h.afn ≤ 10) → st ≠ 0 → answers s1 st [])
      ∧ (h.opc = 1 → st = 0 → answers s1 (if (poisonIn s h.addr n).isSome then 2 else 0) (memBytes s.hbm h.addr n))
      ∧ (h.opc = 2 → st = 0 → answers (hbmWrite s1 h.addr (fixBytes n c.data.flatten) false) 0 [])
      ∧ (h.opc = 3 → h.afn < 10 → st = 0 → poisonIn s h.addr n = none →
          answers (hbmWrite s1 h.addr (leBytes n (amoNew h.afn h.asz old (leNat (c.data.flatten.take n)))) false) 0
            (fixBytes 16 (memBytes s.hbm h.addr n)))
      ∧ (h.opc = 3 → h.afn = 10 → st = 0 → poisonIn s h.addr n = none →
          answers (if old = leNat ((c.data.flatten.drop 8).take n)
              then hbmWrite s1 h.addr (leBytes n (leNat (c.data.flatten.take n))) false else s1) 0
            (fixBytes 16 (memBytes s.hbm h.addr n)))
      ∧ (h.opc = 3 → h.afn ≤ 10 → st = 0 → (poisonIn s h.addr n).isSome = true →
          answers s1 2 (fixBytes 16 (memBytes s.hbm h.addr n)))
      ∧ (h.opc = 3 → 10 < h.afn → exec .causewayRequest s = .next s1))
    ∧ (∀ port sdom addr n wr, let t := addr / polderBytes
        targetStatus s port sdom addr n wr =
        if 0x8000000000 < addr + n then 1 else if (getPolder s t).st = .resetting ∨ (getPolder s t).st = .dead then 3
        else if port / 6 ≠ t / 8 ∧ s.dev.linkUp = false then 4
        else if ∃ w ∈ (getPolder s t).dwin.toList, dwinAdmits t w sdom addr n wr = true
        then 0 else 1)
    ∧ (s.dev.arrivedRsp = [] → exec .causewayResponse s = .next s)
    ∧ ∀ c rest, s.dev.arrivedRsp = c :: rest →
      let s1 := updDev s fun d => { d with arrivedRsp := rest }
      (findOut s c.head.spol c.head.tag = none → exec .causewayResponse s = .next s1)
      ∧ ∀ o, findOut s c.head.spol c.head.tag = some o →
        (c.port / 6 ≠ o.p / 8 → s.dev.linkUp = false → exec .causewayResponse s = .next s1)
        ∧ ∀ n, o.op = .read n → (c.port / 6 = o.p / 8 ∨ s.dev.linkUp = true) → ∃ t, exec .causewayResponse s = .next t
        ∧ findOut t c.head.spol c.head.tag = none ∧ t.dev.arrivedRsp = rest
        ∧ ∀ q ctx b, o.who = .block q ctx → getBlock s ⟨q, ctx⟩ = some b → getBlock t ⟨q, ctx⟩ = some { b with
            remDone := b.remDone ++ [⟨o.dom, o.addr, o.op, c.head.status, c.data.flatten.take n⟩], waiting := false }
end

