-- ==== Sys2Proof/Laws/Encoding.lean ====
section
/-! SUPPORT. Bit-field laws of the formats: a field of joined fields is the field that was put there. -/

namespace Sys2Proof

theorem extract_hi {a b : Nat} (x : BitVec a) (y : BitVec b) : (x ++ y).extractLsb' b a = x := by
  apply BitVec.eq_of_getLsbD_eq
  intro i hi
  simp [BitVec.getLsbD_append, hi]

theorem extract_lo {a b : Nat} (x : BitVec a) (y : BitVec b) : (x ++ y).extractLsb' 0 b = y := by
  apply BitVec.eq_of_getLsbD_eq
  intro i hi
  simp [BitVec.getLsbD_append, hi]

/-- A field that lies within the low part. -/
theorem extract_in_lo {a b s n : Nat} (x : BitVec a) (y : BitVec b) (h : s + n ≤ b) :
    (x ++ y).extractLsb' s n = y.extractLsb' s n := by
  apply BitVec.eq_of_getLsbD_eq
  intro i hi
  have : s + i < b := by omega
  simp [BitVec.getLsbD_append, hi, this]

/-- A field that lies within the high part. -/
theorem extract_in_hi {a b s n : Nat} (x : BitVec a) (y : BitVec b) (h : b ≤ s) :
    (x ++ y).extractLsb' s n = x.extractLsb' (s - b) n := by
  apply BitVec.eq_of_getLsbD_eq
  intro i hi
  have h1 : ¬ s + i < b := by omega
  have h2 : s + i - b = s - b + i := by omega
  simp [BitVec.getLsbD_append, hi, h1, h2]

theorem extract_all {n : Nat} (x : BitVec n) : x.extractLsb' 0 n = x := by
  apply BitVec.eq_of_getLsbD_eq
  intro i hi
  simp [hi]

/-- Two neighbouring fields joined are the whole. -/
theorem join_fields {n : Nat} (a b : Nat) (x : BitVec n) (h : a + b = n) :
    (x.extractLsb' b a ++ x.extractLsb' 0 b).cast h = x := by
  apply BitVec.eq_of_getLsbD_eq
  intro i hi
  simp only [BitVec.getLsbD_cast, BitVec.getLsbD_append, BitVec.getLsbD_extractLsb']
  split
  · simp_all
  · have h1 : b + (i - b) = i := by omega
    have h2 : i - b < a := by omega
    simp [h1, h2]

theorem getLsbD_ofBool_append_top {b : Nat} (c : Bool) (y : BitVec b) : (BitVec.ofBool c ++ y).getLsbD b = c := by
  rw [BitVec.getLsbD_append, if_neg (Nat.lt_irrefl b), Nat.sub_self]
  cases c <;> rfl

theorem getLsbD_append_lo {a b i : Nat} (x : BitVec a) (y : BitVec b) (h : i < b) : (x ++ y).getLsbD i = y.getLsbD i := by
  simp [BitVec.getLsbD_append, h]

theorem getLsbD_append_hi {a b i : Nat} (x : BitVec a) (y : BitVec b) (h : b ≤ i) :
    (x ++ y).getLsbD i = x.getLsbD (i - b) := by
  simp [BitVec.getLsbD_append, show ¬ i < b by omega]

/-! ### Splitting a word into its fields and joining them -/

theorem Fields.ofWord_toWord (f : Fields) : Fields.ofWord f.toWord = f := by
  obtain ⟨m, b, x, y, z, l⟩ := f
  unfold Fields.ofWord Fields.toWord
  congr 1
  · exact extract_hi m _
  · rw [getLsbD_append_lo _ _ (by decide)]; exact getLsbD_ofBool_append_top b _
  · rw [extract_in_lo _ _ (by decide), extract_in_lo _ _ (by decide)]; exact extract_hi x _
  · rw [extract_in_lo _ _ (by decide), extract_in_lo _ _ (by decide), extract_in_lo _ _ (by decide)]; exact extract_hi y _
  · rw [extract_in_lo _ _ (by decide), extract_in_lo _ _ (by decide), extract_in_lo _ _ (by decide),
      extract_in_lo _ _ (by decide)]; exact extract_hi z _
  · rw [extract_in_lo _ _ (by decide), extract_in_lo _ _ (by decide), extract_in_lo _ _ (by decide),
      extract_in_lo _ _ (by decide)]; exact extract_lo z _

/-- imm15 of format SI. -/
@[simp] theorem imm15_join (x : BitVec 15) : x.extractLsb' 10 5 ++ x.extractLsb' 0 10 = x := join_fields 5 10 x rfl

/-! ### The fields of the formats -/

theorem pg_loTT (g : Guard) (fn : BitVec 6) : (loTT g fn).extractLsb' 7 3 = g.pg := extract_hi g.pg _
theorem pn_loTT (g : Guard) (fn : BitVec 6) : (loTT g fn).getLsbD 6 = g.pn := by
  unfold loTT
  rw [getLsbD_append_lo _ _ (by decide)]
  exact getLsbD_ofBool_append_top _ _
theorem fn_loTT (g : Guard) (fn : BitVec 6) : (loTT g fn).extractLsb' 0 6 = fn := by
  unfold loTT
  rw [extract_in_lo _ _ (by decide)]
  exact extract_lo _ fn
theorem pg_loM (pg mid : BitVec 3) (fn : BitVec 4) : (loM pg mid fn).extractLsb' 7 3 = pg := extract_hi pg _
theorem mid_loM (pg mid : BitVec 3) (fn : BitVec 4) : (loM pg mid fn).extractLsb' 4 3 = mid := by
  unfold loM
  rw [extract_in_lo _ _ (by decide)]
  exact extract_hi mid _
theorem fn_loM (pg mid : BitVec 3) (fn : BitVec 4) : (loM pg mid fn).extractLsb' 0 4 = fn := by
  unfold loM
  rw [extract_in_lo _ _ (by decide)]
  exact extract_lo mid fn
theorem pg_loMx (pg : BitVec 3) (rep : BitVec 5) (fn : BitVec 2) : (loMx pg rep fn).extractLsb' 7 3 = pg := extract_hi pg _
theorem rep_loMx (pg : BitVec 3) (rep : BitVec 5) (fn : BitVec 2) : (loMx pg rep fn).extractLsb' 2 5 = rep := by
  unfold loMx
  rw [extract_in_lo _ _ (by decide)]
  exact extract_hi rep _
theorem fn_loMx (pg : BitVec 3) (rep : BitVec 5) (fn : BitVec 2) : (loMx pg rep fn).extractLsb' 0 2 = fn := by
  unfold loMx
  rw [extract_in_lo _ _ (by decide)]
  exact extract_lo rep fn
/-- Bits [6:5] and [4] of format M, where atomics keep order and size. -/
theorem ord_loM (pg : BitVec 3) (o : BitVec 2) (d : Bool) (fn : BitVec 4) :
    (loM pg (o ++ BitVec.ofBool d) fn).extractLsb' 5 2 = o := by
  unfold loM
  rw [extract_in_lo _ _ (by decide), extract_in_hi _ _ (by decide)]
  exact extract_hi o _
theorem size_loM (pg : BitVec 3) (o : BitVec 2) (d : Bool) (fn : BitVec 4) :
    (loM pg (o ++ BitVec.ofBool d) fn).getLsbD 4 = d := by
  unfold loM
  rw [getLsbD_append_lo _ _ (by decide), getLsbD_append_hi _ _ (by decide), getLsbD_append_lo _ _ (by decide)]
  cases d <;> rfl
@[simp] theorem low3_wide3 (x : BitVec 3) : low3 (wide3 x) = x := extract_lo (0#2) x
@[simp] theorem high2_wide3 (x : BitVec 3) : high2 (wide3 x) = true := by
  unfold high2 wide3
  rw [extract_hi (0#2) x]
  rfl
@[simp] theorem queueCode_queueField (q : BitVec 2) (k : BitVec 2 → Decoded) : queueCode (queueField q) k = k q := by
  unfold queueCode queueField
  rw [extract_hi (7#3) q, extract_lo (7#3) q]
  rfl
@[simp] theorem hi_queueField (q : BitVec 2) : (queueField q).extractLsb' 2 3 = 7#3 := extract_hi _ q
@[simp] theorem lo_queueField (q : BitVec 2) : (queueField q).extractLsb' 0 2 = q := extract_lo _ q

/-! ### The accessors on fields of each format -/

@[simp] theorem pg_of_TT (m : BitVec 6) (b : Bool) (x y z : BitVec 5) (g : Guard) (fn : BitVec 6) :
    (Fields.mk m b x y z (loTT g fn)).pg = g.pg := pg_loTT g fn
@[simp] theorem pn_of_TT (m : BitVec 6) (b : Bool) (x y z : BitVec 5) (g : Guard) (fn : BitVec 6) :
    (Fields.mk m b x y z (loTT g fn)).pn = g.pn := pn_loTT g fn
@[simp] theorem fn6_of_TT (m : BitVec 6) (b : Bool) (x y z : BitVec 5) (g : Guard) (fn : BitVec 6) :
    (Fields.mk m b x y z (loTT g fn)).fn6 = fn := fn_loTT g fn
@[simp] theorem guard_of_TT (m : BitVec 6) (b : Bool) (x y z : BitVec 5) (g : Guard) (fn : BitVec 6) :
    (Fields.mk m b x y z (loTT g fn)).guard = g := by simp [Fields.guard]
@[simp] theorem pg_of_M (m : BitVec 6) (b : Bool) (x y z : BitVec 5) (pg mid : BitVec 3) (fn : BitVec 4) :
    (Fields.mk m b x y z (loM pg mid fn)).pg = pg := pg_loM pg mid fn
@[simp] theorem mid3_of_M (m : BitVec 6) (b : Bool) (x y z : BitVec 5) (pg mid : BitVec 3) (fn : BitVec 4) :
    (Fields.mk m b x y z (loM pg mid fn)).mid3 = mid := mid_loM pg mid fn
@[simp] theorem fn4_of_M (m : BitVec 6) (b : Bool) (x y z : BitVec 5) (pg mid : BitVec 3) (fn : BitVec 4) :
    (Fields.mk m b x y z (loM pg mid fn)).fn4 = fn := fn_loM pg mid fn
@[simp] theorem pg_of_Mx (m : BitVec 6) (b : Bool) (x y z : BitVec 5) (pg : BitVec 3) (rep : BitVec 5) (fn : BitVec 2) :
    (Fields.mk m b x y z (loMx pg rep fn)).pg = pg := pg_loMx pg rep fn
@[simp] theorem rep5_of_Mx (m : BitVec 6) (b : Bool) (x y z : BitVec 5) (pg : BitVec 3) (rep : BitVec 5) (fn : BitVec 2) :
    (Fields.mk m b x y z (loMx pg rep fn)).rep5 = rep := rep_loMx pg rep fn
@[simp] theorem fn2_of_Mx (m : BitVec 6) (b : Bool) (x y z : BitVec 5) (pg : BitVec 3) (rep : BitVec 5) (fn : BitVec 2) :
    (Fields.mk m b x y z (loMx pg rep fn)).fn2 = fn := fn_loMx pg rep fn
@[simp] theorem imm15_of_SI (m : BitVec 6) (b : Bool) (x y : BitVec 5) (i : BitVec 15) :
    (Fields.mk m b x y (i.extractLsb' 10 5) (i.extractLsb' 0 10)).imm15 = i := imm15_join i
@[simp] theorem major_encSI (m : BitVec 6) (f : FmtSI) : (encSI m f).major = m := rfl
@[simp] theorem b25_encSI (m : BitVec 6) (f : FmtSI) : (encSI m f).b25 = f.side := rfl
@[simp] theorem f1_encSI (m : BitVec 6) (f : FmtSI) : (encSI m f).f1 = f.rd := rfl
@[simp] theorem f2_encSI (m : BitVec 6) (f : FmtSI) : (encSI m f).f2 = f.rs1 := rfl
/-- Format SI decodes to what was encoded, whatever the major. -/
@[simp] theorem imm15_encSI (m : BitVec 6) (f : FmtSI) : (encSI m f).imm15 = f.imm := imm15_join f.imm

/-! ### Joined constants and operands -/

@[simp] theorem joinTop_lo (k : BitVec 3) (n : BitVec 12) : (joinTop k n).extractLsb' 0 12 = n := extract_lo k n
@[simp] theorem joinTop_hi (k : BitVec 3) (n : BitVec 12) : (joinTop k n).extractLsb' 12 3 = k := extract_hi k n
@[simp] theorem joinTop_mid (k : BitVec 3) (n : BitVec 12) : (joinTop k n).extractLsb' 12 2 = k.extractLsb' 0 2 :=
  extract_in_hi k n (by decide)
@[simp] theorem joinTop_top (k : BitVec 3) (n : BitVec 12) : (joinTop k n).getLsbD 14 = k.getLsbD 2 :=
  getLsbD_append_hi k n (by decide)
@[simp] theorem joinKind_hi (k : BitVec 2) (n : BitVec 6) : (joinKind k n).extractLsb' 13 2 = k := extract_hi k (0#7 ++ n)
@[simp] theorem joinKind_zero (k : BitVec 2) (n : BitVec 6) : (joinKind k n).extractLsb' 6 7 = 0 :=
  (extract_in_lo k (0#7 ++ n) (by decide)).trans (extract_hi 0#7 n)
@[simp] theorem joinKind_lo (k : BitVec 2) (n : BitVec 6) : (joinKind k n).extractLsb' 0 6 = n :=
  (extract_in_lo k (0#7 ++ n) (by decide)).trans (extract_lo 0#7 n)
@[simp] theorem joinKind_14 (k : BitVec 2) (n : BitVec 6) : (joinKind k n).getLsbD 14 = k.getLsbD 1 :=
  getLsbD_append_hi k (0#7 ++ n) (by decide)
@[simp] theorem joinKind_13 (k : BitVec 2) (n : BitVec 6) : (joinKind k n).getLsbD 13 = k.getLsbD 0 :=
  getLsbD_append_hi k (0#7 ++ n) (by decide)
@[simp] theorem loFp_sub (d : Bool) (op : BitVec 4) (u : BitVec 5) : (loFp d op u).extractLsb' 0 5 = u :=
  (extract_in_lo (BitVec.ofBool d) (op ++ u) (by decide)).trans (extract_lo op u)
@[simp] theorem loFp_op (d : Bool) (op : BitVec 4) (u : BitVec 5) : (loFp d op u).extractLsb' 5 4 = op :=
  (extract_in_lo (BitVec.ofBool d) (op ++ u) (by decide)).trans (extract_hi op u)
@[simp] theorem loFp_dbl (d : Bool) (op : BitVec 4) (u : BitVec 5) : (loFp d op u).getLsbD 9 = d :=
  getLsbD_ofBool_append_top d (op ++ u)
@[simp] theorem midScale_lo (x : BitVec 2) : (midScale x).extractLsb' 0 2 = x := by revert x; decide
@[simp] theorem midScale_top (x : BitVec 2) : (midScale x).getLsbD 2 = false := by revert x; decide
@[simp] theorem joinFn_lo (k : Bool) (x : BitVec 5) : (joinFn k x).extractLsb' 0 5 = x := extract_lo (BitVec.ofBool k) x
@[simp] theorem joinFn_top (k : Bool) (x : BitVec 5) : (joinFn k x).getLsbD 5 = k := getLsbD_ofBool_append_top k x
theorem joinFn_cmp (x : CmpOp) : joinFn false (encodeCmp x) ≠ 8 := by cases x <;> decide
@[simp] theorem loBar_kind (a : BitVec 2) (k : BitVec 3) : (loBar a k).extractLsb' 8 2 = a := extract_hi a _
@[simp] theorem loBar_zero (a : BitVec 2) (k : BitVec 3) : (loBar a k).extractLsb' 3 5 = 0 :=
  (extract_in_lo a (0#5 ++ k) (by decide)).trans (extract_hi 0#5 k)
@[simp] theorem loBar_lo (a : BitVec 2) (k : BitVec 3) : (loBar a k).extractLsb' 0 3 = k :=
  (extract_in_lo a (0#5 ++ k) (by decide)).trans (extract_lo 0#5 k)
@[simp] theorem redFn_hi (k : BitVec 4) (op : RedOp) : (redFn k op).extractLsb' 2 4 = k := extract_hi k _
@[simp] theorem redFn_lo (k : BitVec 4) (op : RedOp) : (redFn k op).extractLsb' 0 2 = encodeRed op := extract_lo k _
@[simp] theorem midAmo_loM_ord (pg : BitVec 3) (o : MemOrder) (d : Bool) (fn : BitVec 4) :
    (loM pg (midAmo o d) fn).extractLsb' 5 2 = encodeOrder o := ord_loM pg (encodeOrder o) d fn
@[simp] theorem midAmo_loM_size (pg : BitVec 3) (o : MemOrder) (d : Bool) (fn : BitVec 4) :
    (loM pg (midAmo o d) fn).getLsbD 4 = d := size_loM pg (encodeOrder o) d fn
theorem ts_join (x : BitVec 2) : BitVec.ofBool (x.getLsbD 1) ++ BitVec.ofBool (x.getLsbD 0) = x := by revert x; decide
/-- Two neighbouring fields of a word joined are one field of it. -/
theorem join_extract {n : Nat} (x : BitVec n) (lo a b m : Nat) (h : lo + b = m) :
    x.extractLsb' m a ++ x.extractLsb' lo b = x.extractLsb' lo (a + b) := by
  refine BitVec.eq_of_getLsbD_eq fun k inside => ?_
  have place : ¬ k < b → m + (k - b) = lo + k := by omega
  have high : ¬ k < b → k - b < a := by omega
  by_cases low : k < b
  · simp only [BitVec.getLsbD_append, BitVec.getLsbD_extractLsb', low, inside, decide_true, Bool.true_and, if_true]
  · simp only [BitVec.getLsbD_append, BitVec.getLsbD_extractLsb', low, inside, place low, high low, decide_true,
      Bool.true_and, if_false]

theorem bit_extract {n : Nat} (x : BitVec n) (k : Nat) : BitVec.ofBool (x.getLsbD k) = x.extractLsb' k 1 := by
  apply BitVec.eq_of_getLsbD_eq
  intro i hi
  have : i = 0 := by omega
  subst this
  rw [BitVec.getLsbD_extractLsb', Nat.add_zero]
  cases x.getLsbD k <;> rfl

theorem jal_join (x : BitVec 20) : x.extractLsb' 15 5 ++ (x.extractLsb' 10 5 ++ x.extractLsb' 0 10) = x := by
  rw [join_extract x 0 5 10 10 rfl, join_extract x 0 5 15 15 rfl]
  exact extract_all x

theorem jmp_join (x : BitVec 26) : BitVec.ofBool (x.getLsbD 25) ++
    (x.extractLsb' 20 5 ++ (x.extractLsb' 15 5 ++ (x.extractLsb' 10 5 ++ x.extractLsb' 0 10))) = x := by
  rw [bit_extract, join_extract x 0 5 10 10 rfl, join_extract x 0 5 15 15 rfl, join_extract x 0 5 20 20 rfl,
    join_extract x 0 1 25 25 rfl]
  exact extract_all x

theorem lih_zero (q : BitVec 2) (b : BitVec 1) (y : BitVec 15) :
    ((q ++ (0#2 ++ b)) ++ y).extractLsb' 16 2 = 0 := by
  rw [extract_in_hi _ y (by decide), extract_in_lo q _ (by decide)]
  exact extract_hi 0#2 b

theorem lih_quarter (q : BitVec 2) (b : BitVec 1) (y : BitVec 15) : ((q ++ (0#2 ++ b)) ++ y).extractLsb' 18 2 = q := by
  rw [extract_in_hi _ y (by decide)]
  exact extract_hi q _

theorem lih_imm (q : BitVec 2) (x : BitVec 16) :
    ((q ++ (0#2 ++ x.extractLsb' 15 1)) ++ (x.extractLsb' 10 5 ++ x.extractLsb' 0 10)).extractLsb' 0 16 = x := by
  have e1 : x.extractLsb' 10 5 ++ x.extractLsb' 0 10 = x.extractLsb' 0 15 := join_extract x 0 5 10 10 rfl
  rw [e1, ← join_extract _ 0 1 15 15 rfl, extract_lo _ (x.extractLsb' 0 15), extract_in_hi _ _ (by decide),
    extract_in_lo q _ (by decide), extract_lo 0#2 _, join_extract x 0 1 15 15 rfl]
  exact extract_all x

/-- LIH's fields decode to it. -/
theorem lih_decode (f : FmtLih) :
    decodeLih ⟨0x0F, f.side, f.rd, f.q ++ (0#2 ++ f.imm.extractLsb' 15 1), f.imm.extractLsb' 10 5, f.imm.extractLsb' 0 10⟩
      = .ok (.lih f) := by
  unfold decodeLih Fields.imm15
  dsimp only
  rw [lih_zero, lih_quarter, lih_imm]
  rfl

/-! ### Codes -/

@[simp] theorem scope_code (x : Scope) : decodeScope (encodeScope x) = some x := by cases x <;> rfl
@[simp] theorem order_code (x : MemOrder) : decodeOrder (encodeOrder x) = x := by cases x <;> rfl
@[simp] theorem ldSize_code (x : LdSize) : decodeLdSize (encodeLdSize x) = some x := by cases x <;> rfl
@[simp] theorem stSize_code (x : StSize) : decodeStSize (encodeStSize x) = some x := by cases x <;> rfl
@[simp] theorem cmp_code (x : CmpOp) : decodeCmp (encodeCmp x) = some x := by cases x <;> rfl
@[simp] theorem fcvt_code (x : FcvtOp) : decodeFcvt (encodeFcvt x) = some x := by cases x <;> rfl
@[simp] theorem tamo_code (x : AmoOp) : decodeTamoOp (encodeTamoOp x) = some x := by cases x <;> rfl
@[simp] theorem red_code (x : RedOp) : decodeRed (encodeRed x) = some x := by cases x <;> rfl

end Sys2Proof
end

