-- ==== Sys2Proof/Laws/Store.lean ====
section
/-! SUPPORT. The laws of the plain data operations: maps, byte memories (read after write, the canonical form kept by
every operation), vectors and register files. -/

namespace Sys2Proof.Machine

/-! ### Maps -/

/-- Reading a key of a map after a put: the new value at its key, and every other key as before. -/
theorem mapGet_mapPut {α : Type} (m : SMap α) (key k : Nat) (val : α) :
    mapGet (mapPut m key val) k = if key = k then some val else mapGet m k := by
  induction m with
  | nil => rfl
  | cons e rest tail =>
    by_cases lt : e.1 < key
    · rw [mapPut, if_pos lt, mapGet, mapGet, tail]
      split
      · rw [if_neg (by omega)]
      · rfl
    · by_cases at_key : e.1 = key
      · subst at_key
        by_cases here : e.1 = k <;> simp [mapPut, mapGet, here]
      · simp [mapPut, mapGet, lt, at_key]

@[simp] theorem mapGet_mapPut_same {α : Type} (m : SMap α) (k : Nat) (v : α) : mapGet (mapPut m k v) k = some v := by
  rw [mapGet_mapPut, if_pos rfl]

theorem mapGet_mapPut_other {α : Type} (m : SMap α) (k j : Nat) (v : α) (h : j ≠ k) :
    mapGet (mapPut m k v) j = mapGet m j := by
  rw [mapGet_mapPut, if_neg (Ne.symm h)]

@[simp] theorem mapGet_mapDel_same {α : Type} (m : SMap α) (k : Nat) : mapGet (mapDel m k) k = none := by
  induction m with
  | nil => rfl
  | cons e t ih =>
    obtain ⟨j, w⟩ := e
    by_cases h : j = k
    · subst h; simpa [mapDel] using ih
    · simpa [mapDel, h, mapGet] using ih

theorem mapGet_mapDel_other {α : Type} (m : SMap α) (k j : Nat) (h : j ≠ k) : mapGet (mapDel m k) j = mapGet m j := by
  induction m with
  | nil => rfl
  | cons e t ih =>
    obtain ⟨i, w⟩ := e
    by_cases hi : i = k
    · subst hi
      simpa [mapDel, mapGet, Ne.symm h] using ih
    · have : mapDel ((i, w) :: t) k = (i, w) :: mapDel t k := by simp [mapDel, hi]
      rw [this]
      simp [mapGet, ih]

/-! ### Bytes -/

@[simp] theorem leBytes_length (n v : Nat) : (leBytes n v).length = n := by
  induction n generalizing v with
  | zero => rfl
  | succ n ih => simp [leBytes, ih]

/-- The bytes of a number give the number back, modulo their count. -/
theorem leNat_leBytes (n v : Nat) : leNat (leBytes n v) = v % 2 ^ (8 * n) := by
  induction n generalizing v with
  | zero => simp [leBytes, leNat, Nat.mod_one]
  | succ n ih =>
    have e : 2 ^ (8 * (n + 1)) = 256 * 2 ^ (8 * n) := by rw [Nat.mul_add, Nat.pow_add]; omega
    simp only [leBytes, leNat, ih, BitVec.toNat_ofNat, e, Nat.mod_mul]

/-! ### Byte memories -/

@[simp] theorem memBytes_length (m : Memory) (a n : Nat) : (memBytes m a n).length = n := by
  induction n generalizing a with
  | zero => rfl
  | succ n ih => simp [memBytes, ih]

/-- Every address of a canonical memory's tail is above its head's. -/
def Memory.above (low : Nat) (m : Memory) : Prop := ∀ next, m.head? = some next → low < next.1

theorem Memory.above_nil (low : Nat) : Memory.above low [] := nofun

@[simp] theorem Memory.above_cons (low : Nat) (cell : Host.Cell) (rest : Memory) :
    Memory.above low (cell :: rest) ↔ low < cell.1 := by simp [Memory.above]

theorem Memory.wf_cons {cell : Host.Cell} {rest : Memory} :
    Memory.wf (cell :: rest) = true ↔ cell.2 ≠ 0 ∧ Memory.above cell.1 rest ∧ Memory.wf rest = true := by
  cases h : rest.head? <;> simp [Memory.wf, Memory.above, h, and_assoc]

theorem Memory.above_trans {low up : Nat} {m : Memory} (h : low < up) (hm : Memory.above up m) : Memory.above low m :=
  fun next hn => Nat.lt_trans h (hm next hn)

/-- Below its first address a canonical memory holds nothing. -/
theorem memByte_above {m : Memory} {low x : Nat} (hw : Memory.wf m = true) (h : Memory.above low m) (hx : x ≤ low) :
    memByte m x = 0 := by
  induction m with
  | nil => rfl
  | cons cell rest tail =>
    have parts := Memory.wf_cons.mp hw
    have lt : low < cell.1 := (Memory.above_cons low cell rest).mp h
    have ne : cell.1 ≠ x := by omega
    simpa [memByte, ne] using tail parts.2.2 (Memory.above_trans lt parts.2.1)

theorem memPut_above {m : Memory} {low addr : Nat} {byte : Byte} (h : Memory.above low m) (hc : low < addr) :
    Memory.above low (memPut m addr byte) := by
  cases m with
  | nil => exact (Memory.above_cons _ _ _).mpr hc
  | cons cell rest =>
    by_cases lt : cell.1 < addr
    · simpa [memPut, lt] using h
    · simpa [memPut, lt] using hc

theorem memPut_wf {m : Memory} (addr : Nat) {byte : Byte} (hv : byte ≠ 0) (h : Memory.wf m = true) :
    Memory.wf (memPut m addr byte) = true := by
  induction m with
  | nil => exact Memory.wf_cons.mpr ⟨hv, Memory.above_nil _, rfl⟩
  | cons cell rest tail =>
    have parts := Memory.wf_cons.mp h
    by_cases lt : cell.1 < addr
    · rw [memPut, if_pos lt]
      exact Memory.wf_cons.mpr ⟨parts.1, memPut_above parts.2.1 lt, tail parts.2.2⟩
    · rw [memPut, if_neg lt]
      by_cases same : cell.1 = addr
      · rw [if_pos same]
        exact Memory.wf_cons.mpr ⟨hv, same ▸ parts.2.1, parts.2.2⟩
      · rw [if_neg same]
        exact Memory.wf_cons.mpr ⟨hv, (Memory.above_cons _ _ _).mpr (by dsimp only; omega), h⟩

theorem memDel_above {m : Memory} {low addr : Nat} (hw : Memory.wf m = true) (h : Memory.above low m) :
    Memory.above low (memDel m addr) := by
  cases m with
  | nil => exact h
  | cons cell rest =>
    have lt := (Memory.above_cons low cell rest).mp h
    by_cases same : cell.1 = addr
    · simpa [memDel, same] using Memory.above_trans lt (Memory.wf_cons.mp hw).2.1
    · simpa [memDel, same] using lt

theorem memDel_wf {m : Memory} (addr : Nat) (h : Memory.wf m = true) : Memory.wf (memDel m addr) = true := by
  induction m with
  | nil => exact h
  | cons cell rest tail =>
    have parts := Memory.wf_cons.mp h
    by_cases same : cell.1 = addr
    · simpa [memDel, same] using parts.2.2
    · rw [memDel, if_neg same]
      exact Memory.wf_cons.mpr ⟨parts.1, memDel_above parts.2.2 parts.2.1, tail parts.2.2⟩

/-- Writing a byte keeps the canonical form. -/
theorem memSetByte_wf {m : Memory} (a : Nat) (b : Byte) (h : Memory.wf m = true) : Memory.wf (memSetByte m a b) = true := by
  unfold memSetByte
  split
  · exact memDel_wf a h
  · rename_i hb
    exact memPut_wf a hb h

/-- Writing bytes keeps the canonical form. -/
theorem memSetBytes_wf {m : Memory} (a : Nat) (bs : List Byte) (h : Memory.wf m = true) :
    Memory.wf (memSetBytes m a bs) = true := by
  induction bs generalizing m a with
  | nil => exact h
  | cons b t ih => exact ih (a + 1) (memSetByte_wf a b h)

/-- Writing a number keeps the canonical form. -/
theorem memSetNat_wf {m : Memory} (a n v : Nat) (h : Memory.wf m = true) : Memory.wf (memSetNat m a n v) = true :=
  memSetBytes_wf a _ h

theorem filter_above {m : Memory} {low : Nat} (keep : Host.Cell → Bool) (hw : Memory.wf m = true)
    (h : Memory.above low m) : Memory.above low (m.filter keep) := by
  induction m with
  | nil => exact h
  | cons cell rest tail =>
    have parts := Memory.wf_cons.mp hw
    rw [List.filter_cons]
    split
    · simpa using h
    · exact tail parts.2.2 (Memory.above_trans ((Memory.above_cons _ _ _).mp h) parts.2.1)

/-- Removing cells keeps the canonical form. -/
theorem filter_wf {m : Memory} (keep : Host.Cell → Bool) (h : Memory.wf m = true) : Memory.wf (m.filter keep) = true := by
  induction m with
  | nil => exact h
  | cons cell rest tail =>
    have parts := Memory.wf_cons.mp h
    rw [List.filter_cons]
    split
    · exact Memory.wf_cons.mpr ⟨parts.1, filter_above keep parts.2.2 parts.2.1, tail parts.2.2⟩
    · exact tail parts.2.2

/-- Clearing a range keeps the canonical form. -/
theorem memClear_wf {m : Memory} (lo hi : Nat) (h : Memory.wf m = true) : Memory.wf (memClear m lo hi) = true :=
  filter_wf _ h

theorem memByte_memPut (m : Memory) (addr x : Nat) (byte : Byte) :
    memByte (memPut m addr byte) x = if x = addr then byte else memByte m x := by
  induction m with
  | nil => by_cases here : x = addr <;> simp [memPut, memByte, here, Ne.symm]
  | cons cell rest tail =>
    by_cases lt : cell.1 < addr
    · rw [memPut, if_pos lt, memByte, memByte, tail]
      split
      · rw [if_neg (by omega)]
      · rfl
    · rw [memPut, if_neg lt, memByte]
      by_cases here : addr = x
      · rw [if_pos here, if_pos here.symm]
      · rw [if_neg here, if_neg (Ne.symm here)]
        by_cases same : cell.1 = addr
        · rw [if_pos same, memByte, if_neg (same ▸ here)]
        · rw [if_neg same]

theorem memByte_memDel {m : Memory} (addr x : Nat) (h : Memory.wf m = true) :
    memByte (memDel m addr) x = if x = addr then 0 else memByte m x := by
  induction m with
  | nil => simp [memDel, memByte]
  | cons cell rest tail =>
    have parts := Memory.wf_cons.mp h
    by_cases same : cell.1 = addr
    · rw [memDel, if_pos same, memByte]
      split
      · exact memByte_above parts.2.2 parts.2.1 (by omega)
      · rw [if_neg (by omega)]
    · rw [memDel, if_neg same, memByte, memByte, tail parts.2.2]
      split
      · rw [if_neg (by omega)]
      · rfl

/-- A byte reads as what was last written there, and every other byte as before. -/
theorem memByte_memSetByte {m : Memory} (a x : Nat) (v : Byte) (h : Memory.wf m = true) :
    memByte (memSetByte m a v) x = if x = a then v else memByte m x := by
  unfold memSetByte
  split
  · rename_i hv; subst hv; exact memByte_memDel a x h
  · exact memByte_memPut m a x v

/-- Bytes outside a written range read as before. -/
theorem memByte_memSetBytes_other {m : Memory} (a x : Nat) (bs : List Byte) (h : Memory.wf m = true)
    (hx : x < a ∨ a + bs.length ≤ x) : memByte (memSetBytes m a bs) x = memByte m x := by
  induction bs generalizing m a with
  | nil => rfl
  | cons b t ih =>
    simp only [List.length_cons] at hx
    rw [memSetBytes, ih (a + 1) (memSetByte_wf a b h) (by omega), memByte_memSetByte a x b h]
    split
    · omega
    · rfl

/-- Bytes of a written range read as what was written. -/
theorem memByte_memSetBytes_in {m : Memory} (a i : Nat) (bs : List Byte) (h : Memory.wf m = true)
    (hi : i < bs.length) : memByte (memSetBytes m a bs) (a + i) = bs[i] := by
  induction i generalizing m a bs with
  | zero =>
    match bs, hi with
    | first :: more, _ =>
      have kept := memByte_memSetBytes_other (a + 1) a more (memSetByte_wf a first h) (.inl a.lt_succ_self)
      simpa [memSetBytes, memByte_memSetByte a a first h] using kept
  | succ i back =>
    match bs, hi with
    | first :: more, hi =>
      have there := back (a + 1) more (memSetByte_wf a first h) (Nat.lt_of_succ_lt_succ hi)
      rwa [Nat.add_right_comm] at there

/-- The bytes that are read, one by one. -/
theorem memBytes_getElem (m : Memory) (a n i : Nat) (hi : i < (memBytes m a n).length) :
    (memBytes m a n)[i] = memByte m (a + i) := by
  induction n generalizing a i with
  | zero => cases hi
  | succ n next =>
    cases i with
    | zero => rfl
    | succ i =>
      have := next (a + 1) i (Nat.lt_of_succ_lt_succ hi)
      rwa [Nat.add_right_comm] at this

/-- Reading bytes back gives what was written. -/
theorem memBytes_memSetBytes {m : Memory} (a : Nat) (bs : List Byte) (h : Memory.wf m = true) :
    memBytes (memSetBytes m a bs) a bs.length = bs :=
  List.ext_getElem (memBytes_length _ _ _) fun i _ inside =>
    (memBytes_getElem _ a _ i _).trans (memByte_memSetBytes_in a i bs h inside)

/-- Reading a number back gives it modulo its bytes. -/
theorem memNat_memSetNat {m : Memory} (a n v : Nat) (h : Memory.wf m = true) :
    memNat (memSetNat m a n v) a n = v % 2 ^ (8 * n) := by
  have := memBytes_memSetBytes a (leBytes n v) h
  rw [leBytes_length] at this
  rw [memNat, memSetNat, this, leNat_leBytes]

/-! ### Vectors and register files -/

@[simp] theorem vget_vset_same {α : Type} {n : Nat} (d : α) (v : Vector α n) (i : Nat) (x : α) (h : i < n) :
    vget d (vset v i x) i = x := by
  simp [vget, vset, h]

theorem vget_vset_other {α : Type} {n : Nat} (d : α) (v : Vector α n) (i j : Nat) (x : α) (h : j ≠ i) :
    vget d (vset v i x) j = vget d v j := by
  simp [vget, vset, Vector.getElem?_setIfInBounds_ne (Ne.symm h)]

theorem vset_beyond {α : Type} {n : Nat} (v : Vector α n) (i : Nat) (x : α) (h : n ≤ i) : vset v i x = v := by
  apply Vector.ext
  intro j hj
  exact Vector.getElem_setIfInBounds_ne hj (by omega)

/-- Register 0 reads as zero. -/
@[simp] theorem rget_zero (v : RegFile) : rget v 0 = 0 := rfl

/-- A write of register 0 is discarded. -/
@[simp] theorem rset_zero (v : RegFile) (x : Word64) : rset v 0 x = v := rfl

theorem rget_rset_same (v : RegFile) (r : RegNo) (x : Word64) (h : r ≠ 0) : rget (rset v r x) r = x := by
  unfold rget rset
  rw [if_neg h, if_neg h]
  exact Vector.getElem_set_self _

theorem rget_rset_other (v : RegFile) (r q : RegNo) (x : Word64) (h : q ≠ r) : rget (rset v r x) q = rget v q := by
  have hn : r.toNat ≠ q.toNat := fun e => h (BitVec.eq_of_toNat_eq e.symm)
  unfold rget rset
  split
  · rfl
  · split
    · rfl
    · exact Vector.getElem_set_ne _ _ hn

end Sys2Proof.Machine
end

