-- ==== Sys2Proof/Laws/State.lean ====
section
/-! SUPPORT. One lemma for each field of the state and each of its updates, so that no proof unfolds a record update; and
what reading gives after an update. -/

namespace Sys2Proof.Machine

/-! ### Fields of the state after an update -/

@[simp] theorem setPolder_sched (s : State) (p : Nat) (x : Polder) : (setPolder s p x).sched = s.sched := rfl
@[simp] theorem setPolder_rr (s : State) (p : Nat) (x : Polder) : (setPolder s p x).rr = s.rr := rfl
@[simp] theorem setPolder_cur (s : State) (p : Nat) (x : Polder) : (setPolder s p x).cur = s.cur := rfl
@[simp] theorem setPolder_hbm (s : State) (p : Nat) (x : Polder) : (setPolder s p x).hbm = s.hbm := rfl
@[simp] theorem setPolder_bus (s : State) (p : Nat) (x : Polder) : (setPolder s p x).bus = s.bus := rfl
@[simp] theorem setPolder_poison (s : State) (p : Nat) (x : Polder) : (setPolder s p x).poison = s.poison := rfl
@[simp] theorem setPolder_dev (s : State) (p : Nat) (x : Polder) : (setPolder s p x).dev = s.dev := rfl

@[simp] theorem updPolder_sched (s : State) (p : Nat) (f : Polder → Polder) : (updPolder s p f).sched = s.sched := rfl
@[simp] theorem updPolder_rr (s : State) (p : Nat) (f : Polder → Polder) : (updPolder s p f).rr = s.rr := rfl
@[simp] theorem updPolder_cur (s : State) (p : Nat) (f : Polder → Polder) : (updPolder s p f).cur = s.cur := rfl
@[simp] theorem updPolder_hbm (s : State) (p : Nat) (f : Polder → Polder) : (updPolder s p f).hbm = s.hbm := rfl
@[simp] theorem updPolder_bus (s : State) (p : Nat) (f : Polder → Polder) : (updPolder s p f).bus = s.bus := rfl
@[simp] theorem updPolder_poison (s : State) (p : Nat) (f : Polder → Polder) : (updPolder s p f).poison = s.poison := rfl
@[simp] theorem updPolder_dev (s : State) (p : Nat) (f : Polder → Polder) : (updPolder s p f).dev = s.dev := rfl

@[simp] theorem updDev_sched (s : State) (f : Device → Device) : (updDev s f).sched = s.sched := rfl
@[simp] theorem updDev_rr (s : State) (f : Device → Device) : (updDev s f).rr = s.rr := rfl
@[simp] theorem updDev_cur (s : State) (f : Device → Device) : (updDev s f).cur = s.cur := rfl
@[simp] theorem updDev_hbm (s : State) (f : Device → Device) : (updDev s f).hbm = s.hbm := rfl
@[simp] theorem updDev_bus (s : State) (f : Device → Device) : (updDev s f).bus = s.bus := rfl
@[simp] theorem updDev_poison (s : State) (f : Device → Device) : (updDev s f).poison = s.poison := rfl
@[simp] theorem updDev_polders (s : State) (f : Device → Device) : (updDev s f).polders = s.polders := rfl

@[simp] theorem setBlock_sched (s : State) (id : BlkId) (b : Block) : (setBlock s id b).sched = s.sched := rfl
@[simp] theorem setBlock_rr (s : State) (id : BlkId) (b : Block) : (setBlock s id b).rr = s.rr := rfl
@[simp] theorem setBlock_cur (s : State) (id : BlkId) (b : Block) : (setBlock s id b).cur = s.cur := rfl
@[simp] theorem setBlock_hbm (s : State) (id : BlkId) (b : Block) : (setBlock s id b).hbm = s.hbm := rfl
@[simp] theorem setBlock_bus (s : State) (id : BlkId) (b : Block) : (setBlock s id b).bus = s.bus := rfl
@[simp] theorem setBlock_poison (s : State) (id : BlkId) (b : Block) : (setBlock s id b).poison = s.poison := rfl
@[simp] theorem setBlock_dev (s : State) (id : BlkId) (b : Block) : (setBlock s id b).dev = s.dev := rfl

@[simp] theorem updCluster_sched (s : State) (p c : Nat) (f : Cluster → Cluster) : (updCluster s p c f).sched = s.sched := rfl
@[simp] theorem updCluster_rr (s : State) (p c : Nat) (f : Cluster → Cluster) : (updCluster s p c f).rr = s.rr := rfl
@[simp] theorem updCluster_cur (s : State) (p c : Nat) (f : Cluster → Cluster) : (updCluster s p c f).cur = s.cur := rfl
@[simp] theorem updCluster_hbm (s : State) (p c : Nat) (f : Cluster → Cluster) : (updCluster s p c f).hbm = s.hbm := rfl
@[simp] theorem updCluster_bus (s : State) (p c : Nat) (f : Cluster → Cluster) : (updCluster s p c f).bus = s.bus := rfl
@[simp] theorem updCluster_poison (s : State) (p c : Nat) (f : Cluster → Cluster) : (updCluster s p c f).poison = s.poison := rfl
@[simp] theorem updCluster_dev (s : State) (p c : Nat) (f : Cluster → Cluster) : (updCluster s p c f).dev = s.dev := rfl

@[simp] theorem updTask_sched (s : State) (c h : Nat) (f : Task → Task) : (updTask s c h f).sched = s.sched := rfl
@[simp] theorem updTask_rr (s : State) (c h : Nat) (f : Task → Task) : (updTask s c h f).rr = s.rr := rfl
@[simp] theorem updTask_cur (s : State) (c h : Nat) (f : Task → Task) : (updTask s c h f).cur = s.cur := rfl
@[simp] theorem updTask_hbm (s : State) (c h : Nat) (f : Task → Task) : (updTask s c h f).hbm = s.hbm := rfl
@[simp] theorem updTask_bus (s : State) (c h : Nat) (f : Task → Task) : (updTask s c h f).bus = s.bus := rfl
@[simp] theorem updTask_poison (s : State) (c h : Nat) (f : Task → Task) : (updTask s c h f).poison = s.poison := rfl
@[simp] theorem updTask_dev (s : State) (c h : Nat) (f : Task → Task) : (updTask s c h f).dev = s.dev := rfl

@[simp] theorem queueFault_sched (s : State) (p : Nat) (r : List Word64) : (queueFault s p r).sched = s.sched := rfl
@[simp] theorem queueFault_rr (s : State) (p : Nat) (r : List Word64) : (queueFault s p r).rr = s.rr := rfl
@[simp] theorem queueFault_cur (s : State) (p : Nat) (r : List Word64) : (queueFault s p r).cur = s.cur := rfl
@[simp] theorem queueFault_hbm (s : State) (p : Nat) (r : List Word64) : (queueFault s p r).hbm = s.hbm := rfl
@[simp] theorem queueFault_bus (s : State) (p : Nat) (r : List Word64) : (queueFault s p r).bus = s.bus := rfl
@[simp] theorem queueFault_poison (s : State) (p : Nat) (r : List Word64) : (queueFault s p r).poison = s.poison := rfl
@[simp] theorem queueFault_dev (s : State) (p : Nat) (r : List Word64) : (queueFault s p r).dev = s.dev := rfl

@[simp] theorem updBlock_sched (s : State) (id : BlkId) (f : Block → Block) : (updBlock s id f).sched = s.sched := by
  unfold updBlock; split <;> rfl
@[simp] theorem updBlock_rr (s : State) (id : BlkId) (f : Block → Block) : (updBlock s id f).rr = s.rr := by
  unfold updBlock; split <;> rfl
@[simp] theorem updBlock_cur (s : State) (id : BlkId) (f : Block → Block) : (updBlock s id f).cur = s.cur := by
  unfold updBlock; split <;> rfl
@[simp] theorem updBlock_hbm (s : State) (id : BlkId) (f : Block → Block) : (updBlock s id f).hbm = s.hbm := by
  unfold updBlock; split <;> rfl
@[simp] theorem updBlock_bus (s : State) (id : BlkId) (f : Block → Block) : (updBlock s id f).bus = s.bus := by
  unfold updBlock; split <;> rfl
@[simp] theorem updBlock_poison (s : State) (id : BlkId) (f : Block → Block) : (updBlock s id f).poison = s.poison := by
  unfold updBlock; split <;> rfl
@[simp] theorem updBlock_dev (s : State) (id : BlkId) (f : Block → Block) : (updBlock s id f).dev = s.dev := by
  unfold updBlock; split <;> rfl

@[simp] theorem disown_sched (s : State) (id : BlkId) : (disown s id).sched = s.sched := rfl
@[simp] theorem disown_rr (s : State) (id : BlkId) : (disown s id).rr = s.rr := rfl
@[simp] theorem disown_cur (s : State) (id : BlkId) : (disown s id).cur = s.cur := rfl
@[simp] theorem disown_hbm (s : State) (id : BlkId) : (disown s id).hbm = s.hbm := rfl
@[simp] theorem disown_bus (s : State) (id : BlkId) : (disown s id).bus = s.bus := rfl
@[simp] theorem disown_poison (s : State) (id : BlkId) : (disown s id).poison = s.poison := rfl
@[simp] theorem disown_polders (s : State) (id : BlkId) : (disown s id).polders = s.polders := rfl

/-- Unmarked bytes change HBM, and of the marks only those of the lines they complete. -/
theorem hbmWrite_clean (s : State) (a : Nat) (bs : List Byte) :
    hbmWrite s a bs false = { s with hbm := memSetBytes s.hbm a bs, poison := unpoison s.poison a bs.length } := by
  unfold hbmWrite
  simp only [Bool.false_eq_true, false_and, if_false]

/-- A header is written, or the gates refuse the context and nothing happens. -/
theorem writeHeader_cases (s : State) (id : BlkId) (b : Block) :
    writeHeader s id b = s ∨ ∃ bs : List Byte, bs.length = 32 ∧ writeHeader s id b =
      { s with hbm := memSetBytes s.hbm (ctxAddr s id) bs, poison := unpoison s.poison (ctxAddr s id) 32 } := by
  unfold writeHeader
  extract_lets a h d0 d1
  split
  · refine .inr ⟨_, ?_, hbmWrite_clean s a _⟩
    simp only [List.length_append, leBytes_length]
  · exact .inl rfl

@[simp] theorem writeHeader_sched (s : State) (id : BlkId) (b : Block) : (writeHeader s id b).sched = s.sched := by
  rcases writeHeader_cases s id b with h | ⟨bs, -, h⟩ <;> rw [h]
@[simp] theorem writeHeader_rr (s : State) (id : BlkId) (b : Block) : (writeHeader s id b).rr = s.rr := by
  rcases writeHeader_cases s id b with h | ⟨bs, -, h⟩ <;> rw [h]
@[simp] theorem writeHeader_cur (s : State) (id : BlkId) (b : Block) : (writeHeader s id b).cur = s.cur := by
  rcases writeHeader_cases s id b with h | ⟨bs, -, h⟩ <;> rw [h]
@[simp] theorem writeHeader_bus (s : State) (id : BlkId) (b : Block) : (writeHeader s id b).bus = s.bus := by
  rcases writeHeader_cases s id b with h | ⟨bs, -, h⟩ <;> rw [h]
@[simp] theorem writeHeader_polders (s : State) (id : BlkId) (b : Block) : (writeHeader s id b).polders = s.polders := by
  rcases writeHeader_cases s id b with h | ⟨bs, -, h⟩ <;> rw [h]
@[simp] theorem writeHeader_dev (s : State) (id : BlkId) (b : Block) : (writeHeader s id b).dev = s.dev := by
  rcases writeHeader_cases s id b with h | ⟨bs, -, h⟩ <;> rw [h]

@[simp] theorem clearContext_sched (s : State) (id : BlkId) (b : Block) : (clearContext s id b).sched = s.sched := by
  unfold clearContext; split <;> rfl
@[simp] theorem clearContext_rr (s : State) (id : BlkId) (b : Block) : (clearContext s id b).rr = s.rr := by
  unfold clearContext; split <;> rfl
@[simp] theorem clearContext_cur (s : State) (id : BlkId) (b : Block) : (clearContext s id b).cur = s.cur := by
  unfold clearContext; split <;> rfl
@[simp] theorem clearContext_hbm (s : State) (id : BlkId) (b : Block) : (clearContext s id b).hbm = s.hbm := by
  unfold clearContext; split <;> rfl
@[simp] theorem clearContext_bus (s : State) (id : BlkId) (b : Block) : (clearContext s id b).bus = s.bus := by
  unfold clearContext; split <;> rfl
@[simp] theorem clearContext_polders (s : State) (id : BlkId) (b : Block) : (clearContext s id b).polders = s.polders := by
  unfold clearContext; split <;> rfl
@[simp] theorem clearContext_dev (s : State) (id : BlkId) (b : Block) : (clearContext s id b).dev = s.dev := by
  unfold clearContext; split <;> rfl

@[simp] theorem writeContext_sched (s : State) (id : BlkId) (b : Block) : (writeContext s id b).sched = s.sched := by
  unfold writeContext; rw [writeHeader_sched, clearContext_sched]
@[simp] theorem writeContext_rr (s : State) (id : BlkId) (b : Block) : (writeContext s id b).rr = s.rr := by
  unfold writeContext; rw [writeHeader_rr, clearContext_rr]
@[simp] theorem writeContext_cur (s : State) (id : BlkId) (b : Block) : (writeContext s id b).cur = s.cur := by
  unfold writeContext; rw [writeHeader_cur, clearContext_cur]
@[simp] theorem writeContext_bus (s : State) (id : BlkId) (b : Block) : (writeContext s id b).bus = s.bus := by
  unfold writeContext; rw [writeHeader_bus, clearContext_bus]
@[simp] theorem writeContext_polders (s : State) (id : BlkId) (b : Block) : (writeContext s id b).polders = s.polders := by
  unfold writeContext; rw [writeHeader_polders, clearContext_polders]
@[simp] theorem writeContext_dev (s : State) (id : BlkId) (b : Block) : (writeContext s id b).dev = s.dev := by
  unfold writeContext; rw [writeHeader_dev, clearContext_dev]

@[simp] theorem dropLine_sched (s : State) (m : Mark) : (dropLine s m).sched = s.sched := by
  unfold dropLine; split <;> (try split) <;> rfl
@[simp] theorem dropLine_rr (s : State) (m : Mark) : (dropLine s m).rr = s.rr := by
  unfold dropLine; split <;> (try split) <;> rfl
@[simp] theorem dropLine_cur (s : State) (m : Mark) : (dropLine s m).cur = s.cur := by
  unfold dropLine; split <;> (try split) <;> rfl
@[simp] theorem dropLine_hbm (s : State) (m : Mark) : (dropLine s m).hbm = s.hbm := by
  unfold dropLine; split <;> (try split) <;> rfl
@[simp] theorem dropLine_bus (s : State) (m : Mark) : (dropLine s m).bus = s.bus := by
  unfold dropLine; split <;> (try split) <;> rfl
@[simp] theorem dropLine_polders (s : State) (m : Mark) : (dropLine s m).polders = s.polders := by
  unfold dropLine; split <;> (try split) <;> rfl
@[simp] theorem dropLine_dev (s : State) (m : Mark) : (dropLine s m).dev = s.dev := by
  unfold dropLine; split <;> (try split) <;> rfl

/-! ### Fields of a core after a register write -/

@[simp] theorem regSet_preds (c : Core) (side : Bool) (r : RegNo) (x : Word64) : (regSet c side r x).preds = c.preds := by
  cases side <;> rfl
@[simp] theorem regSet_recs (c : Core) (side : Bool) (r : RegNo) (x : Word64) : (regSet c side r x).recs = c.recs := by
  cases side <;> rfl
@[simp] theorem regSet_bindT (c : Core) (side : Bool) (r : RegNo) (x : Word64) : (regSet c side r x).bindT = c.bindT := by
  cases side <;> rfl
@[simp] theorem regSet_bindL (c : Core) (side : Bool) (r : RegNo) (x : Word64) : (regSet c side r x).bindL = c.bindL := by
  cases side <;> rfl
@[simp] theorem regSet_bindS (c : Core) (side : Bool) (r : RegNo) (x : Word64) : (regSet c side r x).bindS = c.bindS := by
  cases side <;> rfl
@[simp] theorem regSet_gr (c : Core) (side : Bool) (r : RegNo) (x : Word64) : (regSet c side r x).gr = c.gr := by
  cases side <;> rfl
@[simp] theorem regSet_gc (c : Core) (side : Bool) (r : RegNo) (x : Word64) : (regSet c side r x).gc = c.gc := by
  cases side <;> rfl
@[simp] theorem regSet_shapeD (c : Core) (side : Bool) (r : RegNo) (x : Word64) : (regSet c side r x).shapeD = c.shapeD := by
  cases side <;> rfl
@[simp] theorem regSet_fmode (c : Core) (side : Bool) (r : RegNo) (x : Word64) : (regSet c side r x).fmode = c.fmode := by
  cases side <;> rfl
@[simp] theorem regSet_fstat (c : Core) (side : Bool) (r : RegNo) (x : Word64) : (regSet c side r x).fstat = c.fstat := by
  cases side <;> rfl
@[simp] theorem regSet_sidx (c : Core) (side : Bool) (r : RegNo) (x : Word64) : (regSet c side r x).sidx = c.sidx := by
  cases side <;> rfl
@[simp] theorem regSet_tiles (c : Core) (side : Bool) (r : RegNo) (x : Word64) : (regSet c side r x).tiles = c.tiles := by
  cases side <;> rfl
@[simp] theorem regSet_lq (c : Core) (side : Bool) (r : RegNo) (x : Word64) : (regSet c side r x).lq = c.lq := by
  cases side <;> rfl
@[simp] theorem regSet_sq (c : Core) (side : Bool) (r : RegNo) (x : Word64) : (regSet c side r x).sq = c.sq := by
  cases side <;> rfl
@[simp] theorem regSet_aq (c : Core) (side : Bool) (r : RegNo) (x : Word64) : (regSet c side r x).aq = c.aq := by
  cases side <;> rfl
@[simp] theorem regSet_eq (c : Core) (side : Bool) (r : RegNo) (x : Word64) : (regSet c side r x).eq = c.eq := by
  cases side <;> rfl
@[simp] theorem regSet_feeds (c : Core) (side : Bool) (r : RegNo) (x : Word64) : (regSet c side r x).feeds = c.feeds := by
  cases side <;> rfl
@[simp] theorem regSet_wmPend (c : Core) (side : Bool) (r : RegNo) (x : Word64) : (regSet c side r x).wmPend = c.wmPend := by
  cases side <;> rfl
@[simp] theorem regSet_slabs (c : Core) (side : Bool) (r : RegNo) (x : Word64) : (regSet c side r x).slabs = c.slabs := by
  cases side <;> rfl
@[simp] theorem regSet_copies (c : Core) (side : Bool) (r : RegNo) (x : Word64) : (regSet c side r x).copies = c.copies := by
  cases side <;> rfl
@[simp] theorem regSet_arrived (c : Core) (side : Bool) (r : RegNo) (x : Word64) : (regSet c side r x).arrived = c.arrived := by
  cases side <;> rfl
@[simp] theorem regSetMarked_preds (c : Core) (side : Bool) (r : RegNo) (x : Word64) (m : Option Mark) :
    (regSetMarked c side r x m).preds = c.preds := by cases side <;> rfl
@[simp] theorem regSetMarked_recs (c : Core) (side : Bool) (r : RegNo) (x : Word64) (m : Option Mark) :
    (regSetMarked c side r x m).recs = c.recs := by cases side <;> rfl
@[simp] theorem regSetMarked_bindT (c : Core) (side : Bool) (r : RegNo) (x : Word64) (m : Option Mark) :
    (regSetMarked c side r x m).bindT = c.bindT := by cases side <;> rfl
@[simp] theorem regSetMarked_bindL (c : Core) (side : Bool) (r : RegNo) (x : Word64) (m : Option Mark) :
    (regSetMarked c side r x m).bindL = c.bindL := by cases side <;> rfl
@[simp] theorem regSetMarked_bindS (c : Core) (side : Bool) (r : RegNo) (x : Word64) (m : Option Mark) :
    (regSetMarked c side r x m).bindS = c.bindS := by cases side <;> rfl
@[simp] theorem regSetMarked_gr (c : Core) (side : Bool) (r : RegNo) (x : Word64) (m : Option Mark) :
    (regSetMarked c side r x m).gr = c.gr := by cases side <;> rfl
@[simp] theorem regSetMarked_gc (c : Core) (side : Bool) (r : RegNo) (x : Word64) (m : Option Mark) :
    (regSetMarked c side r x m).gc = c.gc := by cases side <;> rfl
@[simp] theorem regSetMarked_shapeD (c : Core) (side : Bool) (r : RegNo) (x : Word64) (m : Option Mark) :
    (regSetMarked c side r x m).shapeD = c.shapeD := by cases side <;> rfl
@[simp] theorem regSetMarked_fmode (c : Core) (side : Bool) (r : RegNo) (x : Word64) (m : Option Mark) :
    (regSetMarked c side r x m).fmode = c.fmode := by cases side <;> rfl
@[simp] theorem regSetMarked_fstat (c : Core) (side : Bool) (r : RegNo) (x : Word64) (m : Option Mark) :
    (regSetMarked c side r x m).fstat = c.fstat := by cases side <;> rfl
@[simp] theorem regSetMarked_sidx (c : Core) (side : Bool) (r : RegNo) (x : Word64) (m : Option Mark) :
    (regSetMarked c side r x m).sidx = c.sidx := by cases side <;> rfl
@[simp] theorem regSetMarked_tiles (c : Core) (side : Bool) (r : RegNo) (x : Word64) (m : Option Mark) :
    (regSetMarked c side r x m).tiles = c.tiles := by cases side <;> rfl
@[simp] theorem regSetMarked_lq (c : Core) (side : Bool) (r : RegNo) (x : Word64) (m : Option Mark) :
    (regSetMarked c side r x m).lq = c.lq := by cases side <;> rfl
@[simp] theorem regSetMarked_sq (c : Core) (side : Bool) (r : RegNo) (x : Word64) (m : Option Mark) :
    (regSetMarked c side r x m).sq = c.sq := by cases side <;> rfl
@[simp] theorem regSetMarked_aq (c : Core) (side : Bool) (r : RegNo) (x : Word64) (m : Option Mark) :
    (regSetMarked c side r x m).aq = c.aq := by cases side <;> rfl
@[simp] theorem regSetMarked_eq (c : Core) (side : Bool) (r : RegNo) (x : Word64) (m : Option Mark) :
    (regSetMarked c side r x m).eq = c.eq := by cases side <;> rfl
@[simp] theorem regSetMarked_feeds (c : Core) (side : Bool) (r : RegNo) (x : Word64) (m : Option Mark) :
    (regSetMarked c side r x m).feeds = c.feeds := by cases side <;> rfl
@[simp] theorem regSetMarked_wmPend (c : Core) (side : Bool) (r : RegNo) (x : Word64) (m : Option Mark) :
    (regSetMarked c side r x m).wmPend = c.wmPend := by cases side <;> rfl
@[simp] theorem regSetMarked_slabs (c : Core) (side : Bool) (r : RegNo) (x : Word64) (m : Option Mark) :
    (regSetMarked c side r x m).slabs = c.slabs := by cases side <;> rfl
@[simp] theorem regSetMarked_copies (c : Core) (side : Bool) (r : RegNo) (x : Word64) (m : Option Mark) :
    (regSetMarked c side r x m).copies = c.copies := by cases side <;> rfl
@[simp] theorem regSetMarked_arrived (c : Core) (side : Bool) (r : RegNo) (x : Word64) (m : Option Mark) :
    (regSetMarked c side r x m).arrived = c.arrived := by cases side <;> rfl

@[simp] theorem unborrow_a (c : Core) : c.unborrow.a = c.a := rfl
@[simp] theorem unborrow_s (c : Core) : c.unborrow.s = c.s := rfl
@[simp] theorem unborrow_am (c : Core) : c.unborrow.am = c.am := rfl
@[simp] theorem unborrow_sm (c : Core) : c.unborrow.sm = c.sm := rfl
@[simp] theorem unborrow_preds (c : Core) : c.unborrow.preds = c.preds := rfl
@[simp] theorem unborrow_recs (c : Core) : c.unborrow.recs = c.recs := rfl
@[simp] theorem unborrow_bindT (c : Core) : c.unborrow.bindT = c.bindT := rfl
@[simp] theorem unborrow_bindL (c : Core) : c.unborrow.bindL = c.bindL := rfl
@[simp] theorem unborrow_bindS (c : Core) : c.unborrow.bindS = c.bindS := rfl
@[simp] theorem unborrow_gr (c : Core) : c.unborrow.gr = c.gr := rfl
@[simp] theorem unborrow_gc (c : Core) : c.unborrow.gc = c.gc := rfl
@[simp] theorem unborrow_shapeD (c : Core) : c.unborrow.shapeD = c.shapeD := rfl
@[simp] theorem unborrow_fmode (c : Core) : c.unborrow.fmode = c.fmode := rfl
@[simp] theorem unborrow_fstat (c : Core) : c.unborrow.fstat = c.fstat := rfl
@[simp] theorem unborrow_sidx (c : Core) : c.unborrow.sidx = c.sidx := rfl
@[simp] theorem unborrow_tiles (c : Core) : c.unborrow.tiles = c.tiles := rfl
@[simp] theorem unborrow_feeds (c : Core) : c.unborrow.feeds = c.feeds := rfl
@[simp] theorem unborrow_wmPend (c : Core) : c.unborrow.wmPend = c.wmPend := rfl
@[simp] theorem unborrow_slabs (c : Core) : c.unborrow.slabs = c.slabs := rfl
@[simp] theorem unborrow_copies (c : Core) : c.unborrow.copies = c.copies := rfl
@[simp] theorem unborrow_arrived (c : Core) : c.unborrow.arrived = c.arrived := rfl

/-! ### Reading after an update -/

/-- Register r of a file reads as what was written there; register 0 reads as zero (R62). -/
theorem regGet_regSet_same (c : Core) (side : Bool) (r : RegNo) (x : Word64) :
    regGet (regSet c side r x) side r = if r = 0 then 0 else x := by
  cases side <;> (unfold regSet regGet; by_cases h : r = 0)
  all_goals first
    | (subst h; rfl)
    | (simp only [Bool.false_eq_true, if_false, if_true, if_neg h]; exact rget_rset_same _ r x h)

/-- Every other register reads as before. -/
theorem regGet_regSet_other (c : Core) (side t : Bool) (r q : RegNo) (x : Word64) (h : t ≠ side ∨ q ≠ r) :
    regGet (regSet c side r x) t q = regGet c t q := by
  cases side <;> cases t <;> simp only [regSet, regGet, Bool.false_eq_true, if_false, if_true]
  · exact rget_rset_other _ r q x (h.resolve_left (fun e => e rfl))
  · exact rget_rset_other _ r q x (h.resolve_left (fun e => e rfl))

@[simp] theorem getPolder_setPolder_same (s : State) (p : Nat) (x : Polder) (h : p < 16) :
    getPolder (setPolder s p x) p = x := vget_vset_same _ _ _ _ h

theorem getPolder_setPolder_other (s : State) (p q : Nat) (x : Polder) (h : q ≠ p) :
    getPolder (setPolder s p x) q = getPolder s q := vget_vset_other _ _ _ _ _ h

@[simp] theorem getPolder_updPolder_same (s : State) (p : Nat) (f : Polder → Polder) (h : p < 16) :
    getPolder (updPolder s p f) p = f (getPolder s p) := vget_vset_same _ _ _ _ h

theorem getPolder_updPolder_other (s : State) (p q : Nat) (f : Polder → Polder) (h : q ≠ p) :
    getPolder (updPolder s p f) q = getPolder s q := vget_vset_other _ _ _ _ _ h

/-- A polder beyond the sixteenth holds no block. -/
theorem getBlock_bound {s : State} {id : BlkId} {b : Block} (h : getBlock s id = some b) : id.p < 16 := by
  by_cases hp : id.p < 16
  · exact hp
  · have e : getPolder s id.p = Polder.init := by
      have hn : s.polders[id.p]? = none := Vector.getElem?_eq_none (by omega)
      unfold getPolder vget
      rw [hn]
      rfl
    rw [getBlock, e] at h
    exact absurd h (by simp [Polder.init, mapGet])

@[simp] theorem getBlock_setBlock_same (s : State) (id : BlkId) (b : Block) (h : id.p < 16) :
    getBlock (setBlock s id b) id = some b := by
  unfold getBlock setBlock
  rw [getPolder_updPolder_same s id.p _ h]
  exact mapGet_mapPut_same _ _ _

theorem getBlock_setBlock_other (s : State) (id k : BlkId) (b : Block) (h : k ≠ id) :
    getBlock (setBlock s id b) k = getBlock s k := by
  unfold getBlock setBlock
  by_cases hp : k.p = id.p
  · have hc : k.ctx ≠ id.ctx := fun e => h (by cases k; cases id; simp_all)
    by_cases hb : id.p < 16
    · rw [hp, getPolder_updPolder_same s id.p _ hb]
      exact mapGet_mapPut_other _ _ _ _ hc
    · have : updPolder s id.p (fun x => { x with blocks := mapPut x.blocks id.ctx b }) = s := by
        unfold updPolder setPolder
        rw [vset_beyond _ _ _ (by omega)]
      rw [this]
  · rw [getPolder_updPolder_other s id.p k.p _ hp]

@[simp] theorem getBlock_updDev (s : State) (f : Device → Device) (id : BlkId) :
    getBlock (updDev s f) id = getBlock s id := rfl

@[simp] theorem getPolder_updDev (s : State) (f : Device → Device) (p : Nat) :
    getPolder (updDev s f) p = getPolder s p := rfl

@[simp] theorem getBlock_disown (s : State) (w id : BlkId) : getBlock (disown s w) id = getBlock s id := rfl

@[simp] theorem getPolder_disown (s : State) (id : BlkId) (p : Nat) : getPolder (disown s id) p = getPolder s p := rfl

/-- A block's update leaves all of its polder but the block itself. -/
theorem setBlock_polder (s : State) (id : BlkId) (b : Block) (h : id.p < 16) :
    getPolder (setBlock s id b) id.p =
      { getPolder s id.p with blocks := mapPut (getPolder s id.p).blocks id.ctx b } :=
  getPolder_updPolder_same s id.p _ h

end Sys2Proof.Machine
end

