-- ==== Sys2Proof/Laws/Operands.lean ====
section
/-! SUPPORT. What writing a tile can do to the state of a block, and what its copies in tile store do (R76, R77). -/

namespace Sys2Proof.Machine

/-- Claiming a copy touches the count of copies alone. -/
theorem claimCopy_eq (c : Core) (k : Nat) : claimCopy c k = { c with copies := (claimCopy c k).copies } := by
  unfold claimCopy
  split
  · rfl
  · dsimp only
    split <;> rfl

/-- A tile that was not live at the checkpoint, or has been written since, takes no copy. -/
theorem claimCopy_free (c : Core) (k : Nat) (h : mapGet c.copies.held k = none) : claimCopy c k = c := by
  simp [claimCopy, h]

/-- Writing a tile changes that tile and the count of copies alone. -/
theorem setTile_eq (c : Core) (k : Nat) (t : Tile) :
    setTile c k t = { c with tiles := vset c.tiles k t, copies := (claimCopy c k).copies } := by
  rw [setTile, claimCopy_eq]

@[simp] theorem setTile_tiles (c : Core) (k : Nat) (t : Tile) : (setTile c k t).tiles = vset c.tiles k t := rfl
@[simp] theorem setTile_copies (c : Core) (k : Nat) (t : Tile) : (setTile c k t).copies = (claimCopy c k).copies := rfl
@[simp] theorem setTile_a (c : Core) (k : Nat) (t : Tile) : (setTile c k t).a = c.a := by rw [setTile_eq]
@[simp] theorem setTile_s (c : Core) (k : Nat) (t : Tile) : (setTile c k t).s = c.s := by rw [setTile_eq]
@[simp] theorem setTile_preds (c : Core) (k : Nat) (t : Tile) : (setTile c k t).preds = c.preds := by rw [setTile_eq]
@[simp] theorem setTile_recs (c : Core) (k : Nat) (t : Tile) : (setTile c k t).recs = c.recs := by rw [setTile_eq]
@[simp] theorem setTile_bindT (c : Core) (k : Nat) (t : Tile) : (setTile c k t).bindT = c.bindT := by rw [setTile_eq]
@[simp] theorem setTile_fstat (c : Core) (k : Nat) (t : Tile) : (setTile c k t).fstat = c.fstat := by rw [setTile_eq]
@[simp] theorem setTile_fmode (c : Core) (k : Nat) (t : Tile) : (setTile c k t).fmode = c.fmode := by rw [setTile_eq]
@[simp] theorem setTile_lq (c : Core) (k : Nat) (t : Tile) : (setTile c k t).lq = c.lq := by rw [setTile_eq]
@[simp] theorem setTile_sq (c : Core) (k : Nat) (t : Tile) : (setTile c k t).sq = c.sq := by rw [setTile_eq]

/-- A new strip is rewindable. -/
theorem newStrip_canRewind (b : Block) (d : RegNo) (gr gc : Nat) : (newStrip b d gr gc).canRewind = true := rfl

end Sys2Proof.Machine
end

