-- ==== Sys2Proof/Laws/Ops.lean ====
section
/-! SUPPORT. What the shared operations do: each one's outcome in the cases its arguments select. -/

namespace Sys2Proof.Machine

/-! ### The acting block -/

/-- A block instruction runs on the block that acts. -/
theorem withBlock_acts {s : State} {id : BlkId} {b : Block} (k : BlkId → Block → Out) (hc : s.cur = some id)
    (hb : getBlock s id = some b) : withBlock s k = k id b := by
  unfold withBlock
  rw [hc]
  dsimp only
  rw [hb]

/-- It faults only where no block acts. -/
theorem withBlock_cases (s : State) (k : BlkId → Block → Out) :
    withBlock s k = .fault .noBlock ∨ ∃ id b, s.cur = some id ∧ getBlock s id = some b ∧ withBlock s k = k id b := by
  unfold withBlock
  split
  · exact .inl rfl
  · rename_i id hc
    split
    · exact .inl rfl
    · rename_i b hb
      exact .inr ⟨id, b, hc, hb, rfl⟩

/-! ### Marks and handlers -/

/-- Without a mark among the operands the instruction goes on. -/
theorem unlessMarked_none (s : State) (id : BlkId) (b : Block) (half : Bool) (ms : List (Option Mark)) (k : Out)
    (h : ∀ m ∈ ms, m = none) : unlessMarked s id b half ms k = k := by
  unfold unlessMarked
  have : ms.filterMap (fun m => m) = [] := List.filterMap_eq_nil_iff.mpr h
  rw [this]

/-- The marks among the operands are consumed together, the first of them the reported one. -/
theorem unlessMarked_some (s : State) (id : BlkId) (b : Block) (half : Bool) (ms : List (Option Mark)) (k : Out) (m : Mark)
    (l : List Mark) (h : ms.filterMap (fun m => m) = m :: l) :
    unlessMarked s id b half ms k = consumeMarks s id b m l half 0 := by
  unfold unlessMarked
  rw [h]

theorem notInHandler_free (s : State) (id : BlkId) (b : Block) (half : Bool) (k : Out) (h : inHandler b = false) :
    notInHandler s id b half k = k := by
  unfold notInHandler
  rw [h]
  rfl

theorem notInHandler_inside (s : State) (id : BlkId) (b : Block) (half : Bool) (k : Out) (h : inHandler b = true) :
    notInHandler s id b half k = raiseAt s id b .illegalInstr half 0 := by
  unfold notInHandler
  rw [h]
  rfl

/-- Marks are consumed by a rewind or by a trap, never otherwise (R261 to R263). -/
theorem consumeMarks_next (s : State) (id : BlkId) (b : Block) (m : Mark) (l : List Mark) (half : Bool) (coord : Word64) :
    consumeMarks s id b m l half coord =
      .next (if rewindOk b m then rewindTo s id b (m :: l) else takeTrap s id b (markTrap m half coord)) := by
  unfold consumeMarks raise
  split <;> rfl

/-- One mark is consumed as a list of one. -/
theorem consumeMark_next (s : State) (id : BlkId) (b : Block) (m : Mark) (half : Bool) (coord : Word64) :
    consumeMark s id b m half coord =
      .next (if rewindOk b m then rewindTo s id b [m] else takeTrap s id b (markTrap m half coord)) :=
  consumeMarks_next s id b m [] half coord

/-! ### Taking a trap -/

/-- A record joins the polder's waiting records at their end. -/
theorem queueFault_waiting (s : State) (p : Nat) (r : List Word64) (h : p < 16) :
    (getPolder (queueFault s p r) p).fq.waiting = (getPolder s p).fq.waiting ++ [r] := by
  unfold queueFault
  rw [getPolder_updPolder_same s p _ h]

/-! ### What restoring a block keeps -/

@[simp] theorem restoreBlock_core (b : Block) : (restoreBlock b).core = b.ckpt := rfl
@[simp] theorem restoreBlock_pc (b : Block) : (restoreBlock b).pc = b.ckptPc := rfl
@[simp] theorem restoreBlock_sbuf (b : Block) : (restoreBlock b).sbuf = [] := rfl
@[simp] theorem restoreBlock_wmark (b : Block) : (restoreBlock b).wmark = b.wmark := rfl
@[simp] theorem restoreBlock_stripId (b : Block) : (restoreBlock b).stripId = b.stripId := rfl
@[simp] theorem restoreBlock_shared (b : Block) : (restoreBlock b).shared = b.shared := rfl
@[simp] theorem restoreBlock_cardRecs (b : Block) : (restoreBlock b).cardRecs = b.cardRecs := rfl
@[simp] theorem rewindBlock_rewinds (b : Block) (ms : List Mark) : (rewindBlock b ms).rewinds = b.rewinds + 1 := rfl
@[simp] theorem rewindBlock_consumed (b : Block) (ms : List Mark) : (rewindBlock b ms).consumed = b.consumed ++ ms := rfl
@[simp] theorem saveBlock_place (st : BlkStatus) (b : Block) : (saveBlock st b).place = if b.begun then b.place else none := rfl
@[simp] theorem saveBlock_status (st : BlkStatus) (b : Block) : (saveBlock st b).status = st := rfl
@[simp] theorem nonRewindable_core (b : Block) : (nonRewindable b).core = b.core := rfl
@[simp] theorem nonRewindable_pc (b : Block) : (nonRewindable b).pc = b.pc := rfl
@[simp] theorem nonRewindable_rewindable (b : Block) : (nonRewindable b).rewindable = false := rfl

/-! ### What bringing a block to rest and saving it keep -/

@[simp] theorem quiet_core (b : Block) : b.quiet.core = b.core := rfl
@[simp] theorem quiet_pc (b : Block) : b.quiet.pc = b.pc := rfl
@[simp] theorem quiet_sbuf (b : Block) : b.quiet.sbuf = b.sbuf := rfl
@[simp] theorem quiet_shared (b : Block) : b.quiet.shared = b.shared := rfl
@[simp] theorem dropRows_sbuf (b : Block) : (dropRows b).sbuf = b.sbuf := rfl
@[simp] theorem dropRows_shared (b : Block) : (dropRows b).shared = b.shared := rfl
@[simp] theorem restMmad_pc (b : Block) : (restMmad b).pc = b.pc := by
  unfold restMmad; split <;> (try split) <;> rfl
@[simp] theorem restMmad_sbuf (b : Block) : (restMmad b).sbuf = b.sbuf := by
  unfold restMmad; split <;> (try split) <;> rfl
@[simp] theorem restMmad_shared (b : Block) : (restMmad b).shared = b.shared := by
  unfold restMmad; split <;> (try split) <;> rfl
@[simp] theorem restMmad_msgs (b : Block) : (restMmad b).msgs = b.msgs := by
  unfold restMmad; split <;> (try split) <;> rfl
@[simp] theorem restMmad_cardRecs (b : Block) : (restMmad b).cardRecs = b.cardRecs := by
  unfold restMmad; split <;> (try split) <;> rfl
@[simp] theorem saveBlock_sbuf (st : BlkStatus) (b : Block) : (saveBlock st b).sbuf = b.sbuf := by
  unfold saveBlock; dsimp only; split <;> simp only [restMmad_sbuf, Block.quiet]
@[simp] theorem saveBlock_shared (st : BlkStatus) (b : Block) : (saveBlock st b).shared = b.shared := by
  unfold saveBlock; dsimp only; split <;> simp only [restMmad_shared, Block.quiet]
@[simp] theorem saveBlock_msgs (st : BlkStatus) (b : Block) : (saveBlock st b).msgs = b.msgs := by
  unfold saveBlock; dsimp only; split <;> simp only [restMmad_msgs, Block.quiet]
@[simp] theorem saveBlock_cardRecs (st : BlkStatus) (b : Block) : (saveBlock st b).cardRecs = b.cardRecs := by
  unfold saveBlock; dsimp only; split <;> simp only [restMmad_cardRecs, Block.quiet]
@[simp] theorem restMmad_ckptPc (b : Block) : (restMmad b).ckptPc = b.ckptPc := by
  unfold restMmad; split <;> (try split) <;> rfl
@[simp] theorem saveBlock_ckptPc (st : BlkStatus) (b : Block) : (saveBlock st b).ckptPc = b.ckptPc := by
  unfold saveBlock; dsimp only; split <;> simp only [restMmad_ckptPc, Block.quiet]

/-! ### When a stopped block comes to rest -/

/-- A block with an access begun stays where it is. -/
theorem comeToRest_begun (s : State) (id : BlkId) (b : Block) (hb : getBlock s id = some b) (h : b.begun = true) :
    comeToRest s id = s := by
  unfold comeToRest
  simp only [hb, h, if_true]

/-- A block that nobody has stopped stays where it is. -/
theorem comeToRest_resident (s : State) (id : BlkId) (b : Block) (hb : getBlock s id = some b) (h : b.status = .resident) :
    comeToRest s id = s := by
  unfold comeToRest
  simp only [hb, h]
  split <;> rfl

/-- A pre-empted block of a live task with nothing begun leaves its slot. -/
theorem comeToRest_preempted (s : State) (id : BlkId) (b : Block) (hb : getBlock s id = some b) (h : b.status = .preempted)
    (hq : b.begun = false) (ht : taskOver s id b = false) (hp : b.place.isSome = true) :
    comeToRest s id = putSaved s id (saveBlock .preempted b) := by
  unfold comeToRest
  simp only [hb, h, hq, ht, hp, Bool.false_eq_true, if_false, if_true]

/-- A stopped block of an ended task with nothing begun is over. -/
theorem comeToRest_over (s : State) (id : BlkId) (b : Block) (hb : getBlock s id = some b)
    (h : b.status = .preempted ∨ b.status = .suspended) (hq : b.begun = false) (ht : taskOver s id b = true) :
    comeToRest s id = endBlock s id b := by
  unfold comeToRest
  rcases h with h | h <;> simp only [hb, h, hq, ht, Bool.false_eq_true, if_false, if_true]

end Sys2Proof.Machine
end

