-- ==== Sys2Proof/Laws/PerInstr.lean ====
section
/-! SUPPORT. For each instruction: its fields, decoded, give it back. An event has no fields, so for it the statement says
nothing but that. -/

namespace Sys2Proof.Laws.RoundTrip

/-- The fields that the encoder gives an instruction decode to that instruction. -/
def Statement (i : Instr) : Prop := ∀ f, encodeFields i = some f → decodeFields f = .ok i

theorem nop : Statement .nop := fun _ h => by cases h; rfl
theorem halt : Statement .halt := fun _ h => by cases h; rfl
theorem yield : Statement .yield := fun _ h => by cases h; rfl
theorem wfe : Statement .wfe := fun _ h => by cases h; rfl
theorem brk : Statement .brk := fun _ h => by cases h; rfl
theorem trap (f : SideRs) : Statement (.trap f) := fun _ h => by cases h; rfl
theorem sysc : Statement .sysc := fun _ h => by cases h; rfl
theorem uien (k : Bool) : Statement (.uien k) := fun _ h => by cases k <;> cases h <;> rfl
theorem uiret : Statement .uiret := fun _ h => by cases h; rfl
theorem tlbinv (ava an : RegNo) : Statement (.tlbinv ava an) := fun _ h => by cases h; rfl
theorem tlbinvS2 : Statement .tlbinvS2 := fun _ h => by cases h; rfl
theorem eret : Statement .eret := fun _ h => by cases h; rfl
theorem ctlr (side : Bool) (rd : RegNo) (n : BitVec 12) : Statement (.ctlr side rd n) := fun _ h => by cases h; simp [decodeFields, decodeCtl, encSI, need, Fields.imm15, imm15_join, -BitVec.getLsbD_eq_getElem]
theorem ctlw (side : Bool) (rs : RegNo) (n : BitVec 12) : Statement (.ctlw side rs n) := fun _ h => by cases h; simp [decodeFields, decodeCtl, encSI, need, Fields.imm15, imm15_join, -BitVec.getLsbD_eq_getElem]
theorem beq (f : FmtB) : Statement (.beq f) := fun _ h => by cases h; simp [decodeFields, decodeBranch, encB, -BitVec.getLsbD_eq_getElem]
theorem bne (f : FmtB) : Statement (.bne f) := fun _ h => by cases h; simp [decodeFields, decodeBranch, encB, -BitVec.getLsbD_eq_getElem]
theorem blt (f : FmtB) : Statement (.blt f) := fun _ h => by cases h; simp [decodeFields, decodeBranch, encB, -BitVec.getLsbD_eq_getElem]
theorem bge (f : FmtB) : Statement (.bge f) := fun _ h => by cases h; simp [decodeFields, decodeBranch, encB, -BitVec.getLsbD_eq_getElem]
theorem bltn (f : FmtB) : Statement (.bltn f) := fun _ h => by cases h; simp [decodeFields, decodeBranch, encB, -BitVec.getLsbD_eq_getElem]
theorem bgen (f : FmtB) : Statement (.bgen f) := fun _ h => by cases h; simp [decodeFields, decodeBranch, encB, -BitVec.getLsbD_eq_getElem]
theorem jmp (off : BitVec 26) : Statement (.jmp off) := fun _ h => by cases h; exact congrArg (fun x => Except.ok (Instr.jmp x)) (jmp_join off)
theorem jal (side : Bool) (rd : RegNo) (off : BitVec 20) : Statement (.jal side rd off) := fun _ h => by cases h; exact congrArg (fun x => Except.ok (Instr.jal side rd x)) (jal_join off)
theorem jalr (f : FmtSI) : Statement (.jalr f) := fun _ h => by cases h; simp [decodeFields, encSI]
theorem qput (f : SideRs) : Statement (.qput f) := fun _ h => by cases h; rfl
theorem qget (f : SideRd) : Statement (.qget f) := fun _ h => by cases h; rfl
theorem add (f : FmtSR) : Statement (.add f) := fun _ h => by cases h; rfl
theorem sub (f : FmtSR) : Statement (.sub f) := fun _ h => by cases h; rfl
theorem mul (f : FmtSR) : Statement (.mul f) := fun _ h => by cases h; rfl
theorem mulh (f : FmtSR) : Statement (.mulh f) := fun _ h => by cases h; rfl
theorem mulhn (f : FmtSR) : Statement (.mulhn f) := fun _ h => by cases h; rfl
theorem div (f : FmtSR) : Statement (.div f) := fun _ h => by cases h; rfl
theorem divn (f : FmtSR) : Statement (.divn f) := fun _ h => by cases h; rfl
theorem rem (f : FmtSR) : Statement (.rem f) := fun _ h => by cases h; rfl
theorem remn (f : FmtSR) : Statement (.remn f) := fun _ h => by cases h; rfl
theorem and (f : FmtSR) : Statement (.and f) := fun _ h => by cases h; rfl
theorem or (f : FmtSR) : Statement (.or f) := fun _ h => by cases h; rfl
theorem xor (f : FmtSR) : Statement (.xor f) := fun _ h => by cases h; rfl
theorem shl (f : FmtSR) : Statement (.shl f) := fun _ h => by cases h; rfl
theorem shr (f : FmtSR) : Statement (.shr f) := fun _ h => by cases h; rfl
theorem sra (f : FmtSR) : Statement (.sra f) := fun _ h => by cases h; rfl
theorem slt (f : FmtSR) : Statement (.slt f) := fun _ h => by cases h; rfl
theorem sltn (f : FmtSR) : Statement (.sltn f) := fun _ h => by cases h; rfl
theorem min (f : FmtSR) : Statement (.min f) := fun _ h => by cases h; rfl
theorem max (f : FmtSR) : Statement (.max f) := fun _ h => by cases h; rfl
theorem minn (f : FmtSR) : Statement (.minn f) := fun _ h => by cases h; rfl
theorem maxn (f : FmtSR) : Statement (.maxn f) := fun _ h => by cases h; rfl
theorem clz (f : FmtSRu) : Statement (.clz f) := fun _ h => by cases h; rfl
theorem ctz (f : FmtSRu) : Statement (.ctz f) := fun _ h => by cases h; rfl
theorem popc (f : FmtSRu) : Statement (.popc f) := fun _ h => by cases h; rfl
theorem sel (f : FmtSR) : Statement (.sel f) := fun _ h => by cases h; rfl
theorem addi (f : FmtSI) : Statement (.addi f) := fun _ h => by cases h; simp [decodeFields, encSI]
theorem andi (f : FmtSI) : Statement (.andi f) := fun _ h => by cases h; simp [decodeFields, encSI]
theorem ori (f : FmtSI) : Statement (.ori f) := fun _ h => by cases h; simp [decodeFields, encSI]
theorem xori (f : FmtSI) : Statement (.xori f) := fun _ h => by cases h; simp [decodeFields, encSI]
theorem shli (f : FmtShift) : Statement (.shli f) := fun _ h => by cases h; simp [decodeFields, decodeShift, encShift, -BitVec.getLsbD_eq_getElem]
theorem shri (f : FmtShift) : Statement (.shri f) := fun _ h => by cases h; simp [decodeFields, decodeShift, encShift, -BitVec.getLsbD_eq_getElem]
theorem srai (f : FmtShift) : Statement (.srai f) := fun _ h => by cases h; simp [decodeFields, decodeShift, encShift, -BitVec.getLsbD_eq_getElem]
theorem slti (f : FmtSI) : Statement (.slti f) := fun _ h => by cases h; simp [decodeFields, encSI]
theorem lih (f : FmtLih) : Statement (.lih f) := fun _ h => by cases h; exact lih_decode f
theorem fadd (f : FmtFp) : Statement (.fadd f) := fun _ h => by cases h; simp [decodeFields, decodeFp, encFp, need, -BitVec.getLsbD_eq_getElem]
theorem fsub (f : FmtFp) : Statement (.fsub f) := fun _ h => by cases h; simp [decodeFields, decodeFp, encFp, need, -BitVec.getLsbD_eq_getElem]
theorem fmul (f : FmtFp) : Statement (.fmul f) := fun _ h => by cases h; simp [decodeFields, decodeFp, encFp, need, -BitVec.getLsbD_eq_getElem]
theorem ffma (f : FmtFp) : Statement (.ffma f) := fun _ h => by cases h; simp [decodeFields, decodeFp, encFp, need, -BitVec.getLsbD_eq_getElem]
theorem fdiv (f : FmtFp) : Statement (.fdiv f) := fun _ h => by cases h; simp [decodeFields, decodeFp, encFp, need, -BitVec.getLsbD_eq_getElem]
theorem fsqrt (f : FmtFpu) : Statement (.fsqrt f) := fun _ h => by cases h; simp [decodeFields, decodeFp, encFp, encFpu, need, -BitVec.getLsbD_eq_getElem]
theorem fmin (f : FmtFp) : Statement (.fmin f) := fun _ h => by cases h; simp [decodeFields, decodeFp, encFp, need, -BitVec.getLsbD_eq_getElem]
theorem fmax (f : FmtFp) : Statement (.fmax f) := fun _ h => by cases h; simp [decodeFields, decodeFp, encFp, need, -BitVec.getLsbD_eq_getElem]
theorem fcmp (f : FmtFp) (cc : CmpOp) : Statement (.fcmp f cc) := fun _ h => by cases h; simp [decodeFields, decodeFp, encFp, need, -BitVec.getLsbD_eq_getElem]
theorem fcvt (rd rs : RegNo) (cv : FcvtOp) : Statement (.fcvt rd rs cv) := fun _ h => by cases h; simp [decodeFields, decodeFp, encFp, need, -BitVec.getLsbD_eq_getElem]
theorem fclass (f : FmtFpu) : Statement (.fclass f) := fun _ h => by cases h; simp [decodeFields, decodeFp, encFp, encFpu, need, -BitVec.getLsbD_eq_getElem]
theorem shape (f : FmtSR) : Statement (.shape f) := fun _ h => by cases h; rfl
theorem shapei (f : FmtSI) : Statement (.shapei f) := fun _ h => by cases h; simp [decodeFields, encSI]
theorem tbindRecord (h : PredNo) (sm : RegNo) : Statement (.tbindRecord h sm) := fun _ h => by cases h; simp [decodeFields, decodeTileState, need, noConvoy]
theorem tbindTiles (first last : TileCode) (h : PredNo) : Statement (.tbindTiles first last h) := fun _ h => by cases h; simp [decodeFields, decodeTileState, need, noConvoy]
theorem tbindSq (first last : BitVec 2) (h : PredNo) : Statement (.tbindSq first last h) := fun _ h => by cases h; simp [decodeFields, decodeTileState, need, noConvoy]
theorem tdead (first last : TileCode) : Statement (.tdead first last) := fun _ h => by cases h; simp [decodeFields, decodeTileState, need, noConvoy]
theorem tzero (t : TileCode) : Statement (.tzero t) := fun _ h => by cases h; simp [decodeFields, decodeTileState, need, noConvoy]
theorem ld (d b i : RegNo) (z : LdSize) : Statement (.ld d b i z) := fun _ h => by cases h; simp [decodeFields, decodeLdSt, encM, need]
theorem ldX (d b i : RegNo) (z : LdSize) : Statement (.ldX d b i z) := fun _ h => by cases h; simp [decodeFields, decodeLdSt, encM, need]
theorem st (s b i : RegNo) (z : StSize) : Statement (.st s b i z) := fun _ h => by cases h; simp [decodeFields, decodeLdSt, encM, need]
theorem stX (s b i : RegNo) (z : StSize) : Statement (.stX s b i z) := fun _ h => by cases h; simp [decodeFields, decodeLdSt, encM, need]
theorem ldt (f : FmtTileMem) : Statement (.ldt f) := fun _ h => by cases h; simp [decodeFields, decodeTileMem, encM, need]
theorem stt (f : FmtTileMem) : Statement (.stt f) := fun _ h => by cases h; simp [decodeFields, decodeTileMem, encM, need]
theorem ldq (f : FmtQueueMem) : Statement (.ldq f) := fun _ h => by cases h; simp [decodeFields, decodeQueueMem, encM, need]
theorem stq (f : FmtQueueMem) : Statement (.stq f) := fun _ h => by cases h; simp [decodeFields, decodeQueueMem, encM, need]
theorem stqu (f : FmtQueueMem) : Statement (.stqu f) := fun _ h => by cases h; simp [decodeFields, decodeQueueMem, encM, need]
theorem ldg (f : FmtGather) : Statement (.ldg f) := fun _ h => by cases h; simp [decodeFields, decodeGather, encM, need, -BitVec.getLsbD_eq_getElem]
theorem sts (f : FmtGather) : Statement (.sts f) := fun _ h => by cases h; simp [decodeFields, decodeGather, encM, need, -BitVec.getLsbD_eq_getElem]
theorem feed (q : BitVec 2) (b : RegNo) : Statement (.feed q b) := fun _ h => by cases h; simp [decodeFields, decodeRegion, encM, need]
theorem pref (b n : RegNo) : Statement (.pref b n) := fun _ h => by cases h; simp [decodeFields, decodeRegion, encM, need]
theorem clean (b n : RegNo) : Statement (.clean b n) := fun _ h => by cases h; simp [decodeFields, decodeRegion, encM, need]
theorem inval (b n : RegNo) : Statement (.inval b n) := fun _ h => by cases h; simp [decodeFields, decodeRegion, encM, need]
theorem amoadd (f : FmtAmo) : Statement (.amoadd f) := fun _ h => by cases h; simp [decodeFields, decodeAmo, decodeAmoFields, encAmo, encM, need, -BitVec.getLsbD_eq_getElem]
theorem amoand (f : FmtAmo) : Statement (.amoand f) := fun _ h => by cases h; simp [decodeFields, decodeAmo, decodeAmoFields, encAmo, encM, need, -BitVec.getLsbD_eq_getElem]
theorem amoor (f : FmtAmo) : Statement (.amoor f) := fun _ h => by cases h; simp [decodeFields, decodeAmo, decodeAmoFields, encAmo, encM, need, -BitVec.getLsbD_eq_getElem]
theorem amoxor (f : FmtAmo) : Statement (.amoxor f) := fun _ h => by cases h; simp [decodeFields, decodeAmo, decodeAmoFields, encAmo, encM, need, -BitVec.getLsbD_eq_getElem]
theorem amomin (f : FmtAmo) : Statement (.amomin f) := fun _ h => by cases h; simp [decodeFields, decodeAmo, decodeAmoFields, encAmo, encM, need, -BitVec.getLsbD_eq_getElem]
theorem amomax (f : FmtAmo) : Statement (.amomax f) := fun _ h => by cases h; simp [decodeFields, decodeAmo, decodeAmoFields, encAmo, encM, need, -BitVec.getLsbD_eq_getElem]
theorem amominn (f : FmtAmo) : Statement (.amominn f) := fun _ h => by cases h; simp [decodeFields, decodeAmo, decodeAmoFields, encAmo, encM, need, -BitVec.getLsbD_eq_getElem]
theorem amomaxn (f : FmtAmo) : Statement (.amomaxn f) := fun _ h => by cases h; simp [decodeFields, decodeAmo, decodeAmoFields, encAmo, encM, need, -BitVec.getLsbD_eq_getElem]
theorem amoswp (f : FmtAmo) : Statement (.amoswp f) := fun _ h => by cases h; simp [decodeFields, decodeAmo, decodeAmoFields, encAmo, encM, need, -BitVec.getLsbD_eq_getElem]
theorem amofadd (f : FmtAmo) : Statement (.amofadd f) := fun _ h => by cases h; simp [decodeFields, decodeAmo, decodeAmoFields, encAmo, encM, need, -BitVec.getLsbD_eq_getElem]
theorem amocas (f : FmtAmo) : Statement (.amocas f) := fun _ h => by cases h; simp [decodeFields, decodeTamo, decodeAmoFields, encAmo, encM, need, -BitVec.getLsbD_eq_getElem]
theorem tamo (f : FmtTamo) : Statement (.tamo f) := fun _ h => by cases h; obtain ⟨t, b, x, pg, o, ts, op⟩ := f; cases op <;> simp [decodeFields, decodeTamo, encodeTamoOp, decodeTamoOp, ts_join, -BitVec.getLsbD_eq_getElem]
theorem fence (sc : Scope) (ord : MemOrder) : Statement (.fence sc ord) := fun _ h => by cases h; simp [decodeFields, decodeFence, encM, need, -BitVec.getLsbD_eq_getElem]
theorem fenceSt (durable : Bool) : Statement (.fenceSt durable) := fun _ h => by cases h; simp [decodeFields, decodeFence, encM, need, encodeOrder, -BitVec.getLsbD_eq_getElem]
theorem wmpub (a : RegNo) : Statement (.wmpub a) := fun _ h => by cases h; simp [decodeFields, decodeFence, encM, need]
theorem wmwait (h b : RegNo) : Statement (.wmwait h b) := fun _ h => by cases h; simp [decodeFields, decodeFence, encM, need]
theorem bar (k : BitVec 3) : Statement (.bar k) := fun _ h => by cases h; simp [decodeFields, decodeBarrier, need]
theorem arrive (k : BitVec 3) : Statement (.arrive k) := fun _ h => by cases h; simp [decodeFields, decodeBarrier, need]
theorem await (k : BitVec 3) : Statement (.await k) := fun _ h => by cases h; simp [decodeFields, decodeBarrier, need]
theorem tsend (t : TileCode) (rank tag : RegNo) : Statement (.tsend t rank tag) := fun _ h => by cases h; simp [decodeFields, decodeExchange, encM, need]
theorem trecv (t : TileCode) (rank tag : RegNo) : Statement (.trecv t rank tag) := fun _ h => by cases h; simp [decodeFields, decodeExchange, encM, need]
theorem engb (t : TileCode) (pd : PredNo) (aseq : RegNo) (pg : PredNo) : Statement (.engb t pd aseq pg) := fun _ h => by cases h; simp [decodeFields, decodeEngine, encM, need]
theorem engw (d b : RegNo) : Statement (.engw d b) := fun _ h => by cases h; simp [decodeFields, decodeEngine, encM, need]
theorem engwChk (d b : RegNo) : Statement (.engwChk d b) := fun _ h => by cases h; simp [decodeFields, decodeEngine, encM, need]
theorem engqRow (d a : RegNo) : Statement (.engqRow d a) := fun _ h => by cases h; simp [decodeFields, decodeEngine, encM, need]
theorem engqCard (d a : RegNo) : Statement (.engqCard d a) := fun _ h => by cases h; simp [decodeFields, decodeEngine, encM, need]
theorem engqFence (d : RegNo) : Statement (.engqFence d) := fun _ h => by cases h; simp [decodeFields, decodeEngine, encM, need]
theorem tadd (f : FmtTT) : Statement (.tadd f) := fun _ h => by cases h; simp [decodeFields, decodeTileArith, encTT]
theorem tsub (f : FmtTT) : Statement (.tsub f) := fun _ h => by cases h; simp [decodeFields, decodeTileArith, encTT]
theorem tmul (f : FmtTT) : Statement (.tmul f) := fun _ h => by cases h; simp [decodeFields, decodeTileArith, encTT]
theorem tdiv (f : FmtTT) : Statement (.tdiv f) := fun _ h => by cases h; simp [decodeFields, decodeTileArith, encTT]
theorem tsqrt (f : FmtTTu) : Statement (.tsqrt f) := fun _ h => by cases h; simp [decodeFields, decodeTileArith, encTTu, need]
theorem trsq (f : FmtTTu) : Statement (.trsq f) := fun _ h => by cases h; simp [decodeFields, decodeTileArith, encTTu, need]
theorem trcp (f : FmtTTu) : Statement (.trcp f) := fun _ h => by cases h; simp [decodeFields, decodeTileArith, encTTu, need]
theorem texp2 (f : FmtTTu) : Statement (.texp2 f) := fun _ h => by cases h; simp [decodeFields, decodeTileArith, encTTu, need]
theorem tlog2 (f : FmtTTu) : Statement (.tlog2 f) := fun _ h => by cases h; simp [decodeFields, decodeTileArith, encTTu, need]
theorem tmin (f : FmtTT) : Statement (.tmin f) := fun _ h => by cases h; simp [decodeFields, decodeTileArith, encTT]
theorem tmax (f : FmtTT) : Statement (.tmax f) := fun _ h => by cases h; simp [decodeFields, decodeTileArith, encTT]
theorem tabs (f : FmtTTu) : Statement (.tabs f) := fun _ h => by cases h; simp [decodeFields, decodeTileArith, encTTu, need]
theorem tneg (f : FmtTTu) : Statement (.tneg f) := fun _ h => by cases h; simp [decodeFields, decodeTileArith, encTTu, need]
theorem tclamp (f : FmtTT) : Statement (.tclamp f) := fun _ h => by cases h; simp [decodeFields, decodeTileArith, encTT]
theorem tfma (f : FmtTT) : Statement (.tfma f) := fun _ h => by cases h; simp [decodeFields, decodeFused, encTT]
theorem tfms (f : FmtTT) : Statement (.tfms f) := fun _ h => by cases h; simp [decodeFields, decodeFused, encTT]
theorem tfnma (f : FmtTT) : Statement (.tfnma f) := fun _ h => by cases h; simp [decodeFields, decodeFused, encTT]
theorem tand (f : FmtTT) : Statement (.tand f) := fun _ h => by cases h; simp [decodeFields, decodeBitwise, encTT]
theorem tor (f : FmtTT) : Statement (.tor f) := fun _ h => by cases h; simp [decodeFields, decodeBitwise, encTT]
theorem txor (f : FmtTT) : Statement (.txor f) := fun _ h => by cases h; simp [decodeFields, decodeBitwise, encTT]
theorem tnot (f : FmtTTu) : Statement (.tnot f) := fun _ h => by cases h; simp [decodeFields, decodeBitwise, encTTu, need]
theorem tshl (f : FmtTT) : Statement (.tshl f) := fun _ h => by cases h; simp [decodeFields, decodeBitwise, encTT]
theorem tshr (f : FmtTT) : Statement (.tshr f) := fun _ h => by cases h; simp [decodeFields, decodeBitwise, encTT]
theorem tsra (f : FmtTT) : Statement (.tsra f) := fun _ h => by cases h; simp [decodeFields, decodeBitwise, encTT]
theorem tcmp (f : FmtTcmp) : Statement (.tcmp f) := fun _ h => by cases h; have hc : ¬ joinFn false (encodeCmp f.cc) = 8#6 := joinFn_cmp f.cc; simp [decodeFields, decodeCompare, need, hc, -BitVec.getLsbD_eq_getElem]
theorem tsel (f : FmtTT) : Statement (.tsel f) := fun _ h => by cases h; simp [decodeFields, decodeCompare, encTT]
theorem tcvt (f : FmtTTu) : Statement (.tcvt f) := fun _ h => by cases h; simp [decodeFields, decodeConvert, encTTu, need]
theorem tqnt (f : FmtTTu) : Statement (.tqnt f) := fun _ h => by cases h; simp [decodeFields, decodeConvert, encTTu, need]
theorem tdq (f : FmtTTu) : Statement (.tdq f) := fun _ h => by cases h; simp [decodeFields, decodeConvert, encTTu, need]
theorem tspl (f : FmtTTs) : Statement (.tspl f) := fun _ h => by cases h; simp [decodeFields, decodeMove, encTTs, need]
theorem tbcr (f : FmtPerm) : Statement (.tbcr f) := fun _ h => by cases h; simp [decodeFields, decodeMove, encPerm, noConvoy]
theorem tmov (f : FmtTTu) : Statement (.tmov f) := fun _ h => by cases h; simp [decodeFields, decodeMove, encTTu, need]
theorem tiota (f : FmtTTs) : Statement (.tiota f) := fun _ h => by cases h; simp [decodeFields, decodeMove, encTTs, need]
theorem tred (f : FmtPermU) (op : RedOp) : Statement (.tred f op) := fun _ h => by cases h; simp [decodeFields, decodeReduce, encPermU, need, noConvoy, -BitVec.getLsbD_eq_getElem]
theorem tredo (f : FmtPermU) (op : RedOp) : Statement (.tredo f op) := fun _ h => by cases h; simp [decodeFields, decodeReduce, encPermU, need, noConvoy, -BitVec.getLsbD_eq_getElem]
theorem tredb (f : FmtPermU) (op : RedOp) : Statement (.tredb f op) := fun _ h => by cases h; simp [decodeFields, decodeReduce, encPermU, need, noConvoy, -BitVec.getLsbD_eq_getElem]
theorem tscan (f : FmtPermU) (op : RedOp) : Statement (.tscan f op) := fun _ h => by cases h; simp [decodeFields, decodeReduce, encPermU, need, noConvoy, -BitVec.getLsbD_eq_getElem]
theorem ttrn (f : FmtPermU) : Statement (.ttrn f) := fun _ h => by cases h; simp [decodeFields, decodePermute, encPermU, need, noConvoy]
theorem tshf (f : FmtPerm) : Statement (.tshf f) := fun _ h => by cases h; simp [decodeFields, decodePermute, encPerm, noConvoy]
theorem tsld (f : FmtPerm) : Statement (.tsld f) := fun _ h => by cases h; simp [decodeFields, decodePermute, encPerm, noConvoy]
theorem trot (f : FmtPerm) : Statement (.trot f) := fun _ h => by cases h; simp [decodeFields, decodePermute, encPerm, noConvoy]
theorem tsort (f : FmtPermU) : Statement (.tsort f) := fun _ h => by cases h; simp [decodeFields, decodePermute, encPermU, need, noConvoy]
theorem tsrch (f : FmtPerm) : Statement (.tsrch f) := fun _ h => by cases h; simp [decodeFields, decodePermute, encPerm, noConvoy]
theorem cmprs (f : FmtPerm) : Statement (.cmprs f) := fun _ h => by cases h; simp [decodeFields, decodeCompress, encPerm, noConvoy]
theorem expnd (f : FmtPermU) : Statement (.expnd f) := fun _ h => by cases h; simp [decodeFields, decodeCompress, encPermU, need, noConvoy]
theorem pand (f : FmtPred) : Statement (.pand f) := fun _ h => by cases h; simp [decodeFields, decodePredicate, encPred, need, noConvoy]
theorem por (f : FmtPred) : Statement (.por f) := fun _ h => by cases h; simp [decodeFields, decodePredicate, encPred, need, noConvoy]
theorem pxor (f : FmtPred) : Statement (.pxor f) := fun _ h => by cases h; simp [decodeFields, decodePredicate, encPred, need, noConvoy]
theorem pnot (f : FmtPredU) : Statement (.pnot f) := fun _ h => by cases h; simp [decodeFields, decodePredicate, need, noConvoy]
theorem pset (pd : PredNo) (sa : RegNo) (g : Guard) : Statement (.pset pd sa g) := fun _ h => by cases h; simp [decodeFields, decodePredicate, need, noConvoy]
theorem pcnt (sd : RegNo) (pa : PredNo) (g : Guard) : Statement (.pcnt sd pa g) := fun _ h => by cases h; simp [decodeFields, decodePredicate, need, noConvoy]
theorem pff (sd : RegNo) (pa : PredNo) (g : Guard) : Statement (.pff sd pa g) := fun _ h => by cases h; simp [decodeFields, decodePredicate, need, noConvoy]
theorem pld (p : PredNo) (b : RegNo) : Statement (.pld p b) := fun _ h => by cases h; simp [decodeFields, decodePredMem, encM, need]
theorem pst (p : PredNo) (b : RegNo) : Statement (.pst p b) := fun _ h => by cases h; simp [decodeFields, decodePredMem, encM, need]
theorem map (f : FmtPerm) (fn : BitVec 5) : Statement (.map f fn) := fun _ h => by cases h; simp [decodeFields, decodeMap, encPerm, noConvoy, -BitVec.getLsbD_eq_getElem]
theorem mapr (f : FmtPerm) (fn : BitVec 5) : Statement (.mapr f fn) := fun _ h => by cases h; simp [decodeFields, decodeMap, encPerm, noConvoy, -BitVec.getLsbD_eq_getElem]
theorem lret : Statement .lret := fun _ h => by cases h; simp [decodeFields, decodeLane, encLane, need, -BitVec.getLsbD_eq_getElem]
theorem lskipNz (a : RegNo) (n : BitVec 6) : Statement (.lskipNz a n) := fun _ h => by
  by_cases hn : n = 0
  · simp [encodeFields, hn] at h
  · simp only [encodeFields, hn, if_false] at h
    cases h
    simp [decodeFields, decodeLane, encLane, need, -BitVec.getLsbD_eq_getElem]
    exact hn
theorem lskipZ (a : RegNo) (n : BitVec 6) : Statement (.lskipZ a n) := fun _ h => by
  by_cases hn : n = 0
  · simp [encodeFields, hn] at h
  · simp only [encodeFields, hn, if_false] at h
    cases h
    simp [decodeFields, decodeLane, encLane, need, -BitVec.getLsbD_eq_getElem]
    exact hn
theorem mopa (f : FmtMx) (rep : BitVec 5) : Statement (.mopa f rep) := fun _ h => by cases h; simp [decodeFields, decodeOuter]
theorem mops (f : FmtMx) (rep : BitVec 5) : Statement (.mops f rep) := fun _ h => by cases h; simp [decodeFields, decodeOuter]
theorem mma (f : FmtMma) : Statement (.mma f) := fun _ h => by cases h; simp [decodeFields, decodeMma, need]
theorem mmad (f : FmtMma) (tids : TileCode) : Statement (.mmad f tids) := fun _ h => by cases h; simp [decodeFields, decodeMma, need]
theorem oload (slab b d : RegNo) : Statement (.oload slab b d) := fun _ h => by cases h; simp [decodeFields, decodeSlab, encM, need]
theorem ofree (slab : RegNo) : Statement (.ofree slab) := fun _ h => by cases h; simp [decodeFields, decodeSlab, encM, need]
theorem apre (a e : RegNo) (k : ApreOp) : Statement (.apre a e k) := fun _ h => by cases k <;> cases h <;> simp [decodeFields, decodeSlab, encM, need]
theorem ainv (a : RegNo) : Statement (.ainv a) := fun _ h => by cases h; simp [decodeFields, decodeSlab, encM, need]
theorem ainvAll : Statement .ainvAll := fun _ h => by cases h; simp [decodeFields, decodeSlab, encM, need]
theorem adtb (b l : RegNo) : Statement (.adtb b l) := fun _ h => by cases h; simp [decodeFields, decodeSlab, encM, need]
theorem convoyIssue : Statement .convoyIssue := fun _ h => nomatch h
theorem feedElementLoad (k : BitVec 2) : Statement (.feedElementLoad k) := fun _ h => nomatch h
theorem queueDeadlock : Statement .queueDeadlock := fun _ h => nomatch h
theorem trapTaken (t : TrapInfo) : Statement (.trapTaken t) := fun _ h => nomatch h
theorem preemption : Statement .preemption := fun _ h => nomatch h
theorem clusterPlacement (p : PolderNo) : Statement (.clusterPlacement p) := fun _ h => nomatch h
theorem timeSliceExpiry : Statement .timeSliceExpiry := fun _ h => nomatch h
theorem recheckRerun (runs : RecheckRuns) : Statement (.recheckRerun runs) := fun _ h => nomatch h
theorem stripRewind (m : Mark) : Statement (.stripRewind m) := fun _ h => nomatch h
theorem userInterruptEntry : Statement .userInterruptEntry := fun _ h => nomatch h
theorem barrierPhaseComplete (k : BitVec 3) : Statement (.barrierPhaseComplete k) := fun _ h => nomatch h
theorem adapterRowFetch (row : BitVec 8) : Statement (.adapterRowFetch row) := fun _ h => nomatch h
theorem cardStart (p : PolderNo) (n : Nat) : Statement (.cardStart p n) := fun _ h => nomatch h
theorem cardComplete (p : PolderNo) (n : Nat) : Statement (.cardComplete p n) := fun _ h => nomatch h
theorem nvmeCompletion (p : PolderNo) (qp : BitVec 6) : Statement (.nvmeCompletion p qp) := fun _ h => nomatch h
theorem packetNop (p : PolderNo) (q : QueueNo) : Statement (.packetNop p q) := fun _ h => nomatch h
theorem packetLaunch (p : PolderNo) (q : QueueNo) : Statement (.packetLaunch p q) := fun _ h => nomatch h
theorem packetGraphRun (p : PolderNo) (q : QueueNo) : Statement (.packetGraphRun p q) := fun _ h => nomatch h
theorem packetWrite (p : PolderNo) (q : QueueNo) : Statement (.packetWrite p q) := fun _ h => nomatch h
theorem packetSignal (p : PolderNo) (q : QueueNo) : Statement (.packetSignal p q) := fun _ h => nomatch h
theorem packetWriteSignal (p : PolderNo) (q : QueueNo) : Statement (.packetWriteSignal p q) := fun _ h => nomatch h
theorem packetWait (p : PolderNo) (q : QueueNo) : Statement (.packetWait p q) := fun _ h => nomatch h
theorem waitConditionMet (p : PolderNo) (q : QueueNo) : Statement (.waitConditionMet p q) := fun _ h => nomatch h
theorem packetFence (p : PolderNo) (q : QueueNo) : Statement (.packetFence p q) := fun _ h => nomatch h
theorem taskComplete (p : PolderNo) (h : Nat) : Statement (.taskComplete p h) := fun _ h => nomatch h
theorem taskEnd (p : PolderNo) (h : Nat) (tcause : Word64) : Statement (.taskEnd p h tcause) := fun _ h => nomatch h
theorem completionEntryWrite (p : PolderNo) (q : QueueNo) : Statement (.completionEntryWrite p q) := fun _ h => nomatch h
theorem quietIntervalExpiry (p : PolderNo) (q : QueueNo) : Statement (.quietIntervalExpiry p q) := fun _ h => nomatch h
theorem msixUnmask (fn : FnId) (vec : BitVec 4) : Statement (.msixUnmask fn vec) := fun _ h => nomatch h
theorem queueSliceExpiry (p : PolderNo) : Statement (.queueSliceExpiry p) := fun _ h => nomatch h
theorem qtailDoorbell (p : PolderNo) (q : QueueNo) (v : Word64) : Statement (.qtailDoorbell p q v) := fun _ h => nomatch h
theorem qringWrite (p : PolderNo) (q : QueueNo) (v : Word64) : Statement (.qringWrite p q v) := fun _ h => nomatch h
theorem qcqWrite (p : PolderNo) (q : QueueNo) (v : Word64) : Statement (.qcqWrite p q v) := fun _ h => nomatch h
theorem qctlWrite (p : PolderNo) (q : QueueNo) (v : Word64) : Statement (.qctlWrite p q v) := fun _ h => nomatch h
theorem qctlErrClear (p : PolderNo) (q : QueueNo) : Statement (.qctlErrClear p q) := fun _ h => nomatch h
theorem graphValidate (p : PolderNo) (g : BitVec 6) (v : Word64) : Statement (.graphValidate p g v) := fun _ h => nomatch h
theorem gtrig (p : PolderNo) (v : Word64) : Statement (.gtrig p v) := fun _ h => nomatch h
theorem graphNodeStart (p : PolderNo) (g : BitVec 6) (n : BitVec 12) : Statement (.graphNodeStart p g n) := fun _ h => nomatch h
theorem codeLoad (p : PolderNo) (v : Word64) : Statement (.codeLoad p v) := fun _ h => nomatch h
theorem codeUnload (p : PolderNo) (v : Word64) : Statement (.codeUnload p v) := fun _ h => nomatch h
theorem codeSlotFree (p : PolderNo) (e : BitVec 6) : Statement (.codeSlotFree p e) := fun _ h => nomatch h
theorem faultRecordWrite (p : PolderNo) : Statement (.faultRecordWrite p) := fun _ h => nomatch h
theorem fqringWrite (p : PolderNo) (v : Word64) : Statement (.fqringWrite p v) := fun _ h => nomatch h
theorem fqresResume (p : PolderNo) (ctx : BitVec 32) : Statement (.fqresResume p ctx) := fun _ h => nomatch h
theorem fqresSkip (p : PolderNo) (ctx : BitVec 32) : Statement (.fqresSkip p ctx) := fun _ h => nomatch h
theorem fqresKill (p : PolderNo) (ctx : BitVec 32) : Statement (.fqresKill p ctx) := fun _ h => nomatch h
theorem presetKeep (p : PolderNo) : Statement (.presetKeep p) := fun _ h => nomatch h
theorem presetScrub (p : PolderNo) : Statement (.presetScrub p) := fun _ h => nomatch h
theorem pctlWrite (p : PolderNo) (v : Word64) : Statement (.pctlWrite p v) := fun _ h => nomatch h
theorem sluiceEntryWrite (p : PolderNo) (grant : Bool) (k : BitVec 3) (hi : Bool) (v : Word64) : Statement (.sluiceEntryWrite p grant k hi v) := fun _ h => nomatch h
theorem sluiceCloseComplete (p : PolderNo) (k : BitVec 3) : Statement (.sluiceCloseComplete p k) := fun _ h => nomatch h
theorem sluiceDown (va : Word64) : Statement (.sluiceDown va) := fun _ h => nomatch h
theorem ownerMapWrite (p : PolderNo) (r : OwnerReg) (v : Word64) : Statement (.ownerMapWrite p r v) := fun _ h => nomatch h
theorem hoctlWrite (v : Word64) : Statement (.hoctlWrite v) := fun _ h => nomatch h
theorem handoverSwitch (p : PolderNo) : Statement (.handoverSwitch p) := fun _ h => nomatch h
theorem attestQuote (fn : FnId) (nonce : List Byte) (mask : BitVec 16) : Statement (.attestQuote fn nonce mask) := fun _ h => nomatch h
theorem attestLog (fn : FnId) (chain : Option PolderNo) : Statement (.attestLog fn chain) := fun _ h => nomatch h
theorem voteDissent (p : PolderNo) (m : VotedMachine) (copy : BitVec 2) : Statement (.voteDissent p m copy) := fun _ h => nomatch h
theorem resyncComplete (p : PolderNo) (m : VotedMachine) : Statement (.resyncComplete p m) := fun _ h => nomatch h
theorem controlMachineCheck (p : PolderNo) : Statement (.controlMachineCheck p) := fun _ h => nomatch h
theorem dieLinkRepair (m : BitVec 6) (bad : Nat) (bad2 : Nat) : Statement (.dieLinkRepair m bad bad2) := fun _ h => nomatch h
theorem dieLinkResume (m : BitVec 6) : Statement (.dieLinkResume m) := fun _ h => nomatch h
theorem causewayFlitReceive (port : BitVec 4) (flit : List Byte) : Statement (.causewayFlitReceive port flit) := fun _ h => nomatch h
theorem causewayReplay (port : BitVec 4) (ack : BitVec 12) : Statement (.causewayReplay port ack) := fun _ h => nomatch h
theorem causewayRetrain (port : BitVec 4) : Statement (.causewayRetrain port) := fun _ h => nomatch h
theorem causewayPortDown (port : BitVec 4) : Statement (.causewayPortDown port) := fun _ h => nomatch h
theorem causewayRequest : Statement .causewayRequest := fun _ h => nomatch h
theorem causewayResponse : Statement .causewayResponse := fun _ h => nomatch h
theorem causewayTimeout (p : PolderNo) (tag : BitVec 16) : Statement (.causewayTimeout p tag) := fun _ h => nomatch h
theorem inboundPcieAccess (fn : FnId) (off : Nat) (op : PcieOp) : Statement (.inboundPcieAccess fn off op) := fun _ h => nomatch h
theorem bringup (fails : List BringupUnit) : Statement (.bringup fails) := fun _ h => nomatch h
theorem fullRateTransition (p : PolderNo) : Statement (.fullRateTransition p) := fun _ h => nomatch h
theorem railLimit (p : PolderNo) (act : RailAction) : Statement (.railLimit p act) := fun _ h => nomatch h
theorem registerWrite (fn : FnId) (sp : RegSpace) (off : Nat) (v : Word64) : Statement (.registerWrite fn sp off v) := fun _ h => nomatch h
theorem failure (u : FailedUnit) : Statement (.failure u) := fun _ h => nomatch h
theorem uncorrectableError (pl : ErrorPlace) : Statement (.uncorrectableError pl) := fun _ h => nomatch h
theorem qptabWrite (p : PolderNo) (e : BitVec 6) (w : BitVec 2) (v : Word64) : Statement (.qptabWrite p e w v) := fun _ h => nomatch h

end Sys2Proof.Laws.RoundTrip
end

