-- ==== Sys2Proof/Machine/LocalDesc.lean ====
section
/-! DEFINITION. Local descriptors of distributed tensors (R162, R163). No instruction and no engine of the device reads one:
programs do, and compute with them as written here. -/

namespace Sys2Proof.Machine

/-- A local descriptor in the fields of R162; `reserved` holds where a reserved field is non-zero, `ty` is none where TYPE is
reserved. -/
structure LocalDesc where
  base : Nat
  rank : Nat
  layout : Nat
  ty : Option ElemType
  extents : List Nat
  origins : List Nat
  rowStride : Nat
  reserved : Bool
  deriving DecidableEq, Repr

/-- The descriptor in 64 bytes (R162). A dimension outside the rank takes extent 1 and origin 0. -/
def readLocalDesc (bytes : List Byte) : LocalDesc :=
  let d := leNat (bytes.take 64)
  let rank := field d 73 72 + 1
  { base := field d 54 0
    rank := rank
    layout := field d 71 70
    ty := typeOfCode (field d 68 64)
    extents := (upTo 4).map fun k => if k < rank then field d (128 + 32 * k + 31) (128 + 32 * k) else 1
    origins := (upTo 4).map fun k => if k < rank then field d (256 + 48 * k + 47) (256 + 48 * k) else 0
    rowStride := field d 511 448
    reserved := field d 63 55 != 0 || field d 127 74 != 0 || field d 69 69 != 0 }

/-- Whether a layout fits an element type (R160, R161). -/
def layoutFits (lay : Nat) (ty : ElemType) : Bool := if isMx ty then lay == 0 || lay == 3 else lay != 3

/-- The validity of R163. -/
def LocalDesc.valid (l : LocalDesc) : Bool :=
  !l.reserved && l.extents.all (fun e => e != 0) && l.ty.any (layoutFits l.layout)
    && (upTo 4).all fun k => decide (nth l.origins k + nth l.extents k ≤ 2 ^ 48)

/-- The global index of the element with local index i (R162). -/
def LocalDesc.globalIndex (l : LocalDesc) (i : List Nat) : List Nat := (upTo 4).map fun k => nth l.origins k + nth i k

/-- The bit address of the element with local index i, of type ty: dimension 0 as columns and the product of the others
as rows (R162). -/
def LocalDesc.bitAddress (l : LocalDesc) (ty : ElemType) (i : List Nat) : Int :=
  8 * (l.base : Int)
    + layoutBit l.layout ty (nth i 1 + nth l.extents 1 * (nth i 2 + nth l.extents 2 * nth i 3)) (nth i 0) (nth l.extents 0)
        (l.rowStride : Int)

end Sys2Proof.Machine
end

