-- ==== Sys2Proof/WellFormed.lean ====
section
/-! DEFINITION. Well-formed instructions and events: what the operand types do not say. Every word constructor is
well-formed with any operands, since its fields are exactly those of its row, but for LSKIP, whose n is 1 to 63; an encoding that traps when it issues is
well-formed (R289, R290). -/

namespace Sys2Proof

/-- A port of R22. -/
def portOk (n : BitVec 4) : Bool := decide (n.toNat < 12)

/-- A unit of R284: a port has a number of R22. -/
def BringupUnit.ok : BringupUnit → Bool
  | .port n | .portReduced n => portOk n
  | .dieManager _ | .stack _ | .dieLink | .polder _ => true

/-- A failing unit of R273. -/
def FailedUnit.ok : FailedUnit → Bool
  | .port n => portOk n
  | .polder _ | .stack _ | .fabric _ | .dieLink | .pcie => true

/-- A place that can hold an error: HBM (R140), a tile of R62, a chunk of a row (R54), the shared-store region. -/
def ErrorPlace.ok : ErrorPlace → Bool
  | .line pa _ => decide (pa < 0x8000000000)
  | .tile t row chunk => decide (t.toNat < 28) && decide (row < 256) && decide (chunk < 256)
  | .shared off => decide (off < 262144)
  | .reg _ _ | .queue _ _ _ | .entry _ _ | .buffer _ | .context => true

/-- A register space of R21 that a function has, and an offset of a 64-bit register in it. -/
def registerOk (fn : FnId) (sp : RegSpace) (off : Nat) : Bool :=
  off % 8 == 0 && match sp, fn with
    | .bar0, .pf0 => decide (off < 0x400000)
    | .bar0, .vf _ => decide (off < 0x10000)
    | .bar2, .vf _ => decide (off < 0x200000)
    | .bar2, .pf0 => false
    | .config, _ => true

/-- Length of an inbound access. -/
def PcieOp.size : PcieOp → Nat
  | .read n => n
  | .write bs => bs.length

/-- An event whose operands are in range. -/
def eventOk (i : Instr) : Bool :=
  match i with
  | .bringup fails => fails.all BringupUnit.ok
  | .failure u => u.ok
  | .uncorrectableError pl => pl.ok
  | .registerWrite fn sp off _ => registerOk fn sp off
  | .attestQuote _ nonce _ => nonce.length == 32
  | .voteDissent _ _ copy => copy != 3
  | .dieLinkRepair m bad bad2 => decide (m.toNat < 40) && decide (bad ≤ 64) && decide (bad2 ≤ 64)
  | .dieLinkResume m => decide (m.toNat < 40)
  | .causewayFlitReceive port flit => portOk port && flit.length == 256
  | .causewayReplay port _ => portOk port
  | .causewayRetrain port => portOk port
  | .causewayPortDown port => portOk port
  | .inboundPcieAccess _ _ op => op.size != 0
  | .recheckRerun runs => decide (runs.entry ≤ 64) && (runs.elems.all fun d => decide (d.elem < 2 ^ 24))
      && runs.scales.all fun d => decide (d.row < 256) && decide (d.block < 512)
  | _ => true

/-- The operand of a word that its row does not admit: a skip by 0 (R305). -/
def wordOk (i : Instr) : Bool :=
  match i with
  | .lskipNz _ n | .lskipZ _ n => n != 0
  | _ => true

/-- Well-formedness. -/
def wellFormed (i : Instr) : Bool := wordOk i && eventOk i

end Sys2Proof
end

