-- ==== Sys2Proof/Tests/Slice0.lean ====
section
/-! SUPPORT. Tests of the model on small states, and for each obligation with hypotheses a concrete state and operands that
meet them. Expected values are the manual's worked examples, or computed from its rules by hand. -/

namespace Sys2Proof.Tests

open Sys2Proof Sys2Proof.Machine

set_option Elab.async false

/-! ### Well-formedness -/

theorem test_wf_accepts : ([.causewayReplay 11 0, .bringup [.port 11, .portReduced 0], .failure (.port 11),
    .uncorrectableError (.line 0x7FFFFFFFFF false), .uncorrectableError (.tile 27 255 255), .uncorrectableError (.shared 262143),
    .registerWrite .pf0 .bar0 0x3FFFF8 0, .registerWrite (.vf 0) .bar2 0x1FFFF8 0, .attestQuote .pf0 (List.replicate 32 0) 0,
    .voteDissent 0 .walkers 2, .dieLinkRepair 39 64 64, .dieLinkResume 39, .inboundPcieAccess .pf0 0 (.read 1),
    .recheckRerun ⟨64, [⟨2 ^ 24 - 1, 0, 0⟩], [⟨255, 511, 0, 0⟩], none, none, none⟩, .nop] : List Instr).all wellFormed = true := by decide
theorem test_wf_refuses_port : ([.causewayReplay 12 0, .causewayRetrain 12, .causewayPortDown 12, .bringup [.port 12],
    .bringup [.portReduced 12], .failure (.port 12), .causewayFlitReceive 12 (List.replicate 256 0),
    .causewayFlitReceive 0 []] : List Instr).any wellFormed = false := by decide
theorem test_wf_refuses_error_place : ([.line 0x8000000000 false, .tile 28 0 0, .tile 0 256 0, .tile 0 0 256, .shared 262144] :
    List ErrorPlace).any (fun x => wellFormed (.uncorrectableError x)) = false := by decide
theorem test_wf_refuses_register : ([.registerWrite .pf0 .bar0 4 0, .registerWrite .pf0 .bar0 0x400000 0,
    .registerWrite (.vf 0) .bar0 0x10000 0, .registerWrite (.vf 0) .bar2 0x200000 0, .registerWrite .pf0 .bar2 0 0] :
    List Instr).any wellFormed = false := by decide
theorem test_wf_refuses_other : ([.attestQuote .pf0 [] 0, .voteDissent 0 .walkers 3, .dieLinkRepair 40 0 0, .dieLinkRepair 0 65 0,
    .dieLinkRepair 0 0 65, .dieLinkResume 40, .inboundPcieAccess .pf0 0 (.read 0), .inboundPcieAccess .pf0 0 (.write []),
    .recheckRerun ⟨65, [], [], none, none, none⟩, .recheckRerun ⟨0, [⟨2 ^ 24, 0, 0⟩], [], none, none, none⟩,
    .recheckRerun ⟨0, [], [⟨256, 0, 0, 0⟩], none, none, none⟩, .lskipNz 4 0, .lskipZ 4 0] : List Instr).any wellFormed = false := by decide

/-! ### Decoding: words that the manual works out in the reference of each family -/

/-- The decoder reads the word as the instruction. -/
abbrev reads (w : Nat) (i : Instr) : Prop := decodeTableWord 32 w = some i

theorem test_decode_system : reads 0x04000001 .halt ∧ reads 0x04000004 .brk ∧ reads 0x04000407 (.uien true)
    ∧ reads 0x04000008 .uiret ∧ reads 0x0400000A .tlbinvS2 ∧ reads 0x0400000B .eret := by decide
theorem test_decode_control : reads 0x08500001 (.ctlr false 5 1) ∧ reads 0x0A900018 (.ctlr true 9 0x18)
    ∧ reads 0x08054000 (.ctlw false 10 0) := by decide
theorem test_decode_jumps : reads 0x13FFFFF5 (.jmp (-11)) ∧ reads 0x17F00010 (.jal true 31 16)
    ∧ reads 0x1A0F8000 (.jalr ⟨true, 0, 31, 0⟩) := by decide
theorem test_decode_scalar : reads 0x2094A001 (.sub ⟨false, 9, 9, 8⟩) ∧ reads 0x22219004 (.mulhn ⟨true, 2, 3, 4⟩)
    ∧ reads 0x20321418 (.sel ⟨false, 3, 4, 5⟩) ∧ reads 0x3442C03F (.srai ⟨false, 4, 5, 63⟩) := by decide
theorem test_decode_float : reads 0x40321600 (.fadd ⟨3, 4, 5, true⟩) ∧ reads 0x4063A060 (.ffma ⟨6, 7, 8, false⟩)
    ∧ reads 0x40908B02 (.fcmp ⟨9, 1, 2, true⟩ .lt) ∧ reads 0x40530140 (.fclass ⟨5, 6, false⟩) := by decide
theorem test_decode_shape : reads 0x44663400 (.shape ⟨false, 6, 12, 13⟩) ∧ reads 0x48648001 (.shapei ⟨false, 6, 9, 1⟩)
    ∧ reads 0x4C150000 (.tbindRecord 1 10) ∧ reads 0x4C008C01 (.tbindTiles 0 3 1)
    ∧ reads 0x4DC17002 (.tbindSq 0 0 2) ∧ reads 0x4C501403 (.tdead 5 5)
    ∧ reads 0x4C400004 (.tzero 4) := by decide
theorem test_decode_memory : reads 0x50518000 (.ld 5 3 0 .n8) ∧ reads 0x50769031 (.ldX 7 13 4 .d)
    ∧ reads 0x54E68C31 (.stX 14 13 3 .d) ∧ reads 0x58693900 (.ldt ⟨6, 18, 14, 2⟩)
    ∧ reads 0x58D94C01 (.stt ⟨13, 18, 19, 0⟩) ∧ reads 0x65D28000 (.feed 1 5)
    ∧ reads 0x64019002 (.clean 3 4) := by decide
theorem test_decode_atomics : reads 0x68531EC9 (.amofadd ⟨5, 6, 7, .sys, .rel, false⟩)
    ∧ reads 0x6C4194D1 (.tamo ⟨4, 3, 5, 1, .rel, 1, .add⟩)
    ∧ reads 0x700000C0 (.fence .cl .rel) ∧ reads 0x70000311 (.fenceSt true)
    ∧ reads 0x700A2803 (.wmwait 20 10) := by decide
theorem test_decode_exchange : reads 0x78621400 (.tsend 6 4 5) ∧ reads 0x78621401 (.trecv 6 4 5)
    ∧ reads 0x7C41A500 (.engb 4 3 9 2) := by decide
theorem test_decode_tiles : reads 0x80200400 (.tadd ⟨false, 2, 0, 1, ⟨0, false⟩⟩)
    ∧ reads 0x8071914D (.tclamp ⟨false, 7, 3, 4, ⟨2, true⟩⟩) ∧ reads 0x84531DC0 (.tfma ⟨false, 5, 6, 7, ⟨3, true⟩⟩)
    ∧ reads 0x88420003 (.tnot ⟨false, 4, 4, ⟨0, false⟩⟩) ∧ reads 0x8C942888 (.tsel ⟨false, 9, 8, 10, ⟨1, false⟩⟩)
    ∧ reads 0x90838001 (.tqnt ⟨false, 8, 7, ⟨0, false⟩⟩) ∧ reads 0x94328083 (.tiota ⟨false, 3, 5, ⟨1, false⟩⟩)
    ∧ reads 0x98D48002 (.tred ⟨13, 9, ⟨0, false⟩⟩ .max) := by decide
theorem test_decode_permutes : reads 0x9C521882 (.tsld ⟨5, 4, 6, ⟨1, false⟩⟩) ∧ reads 0x9C608805 (.tsrch ⟨6, 1, 2, ⟨0, false⟩⟩)
    ∧ reads 0xA0412480 (.cmprs ⟨4, 2, 9, ⟨1, false⟩⟩) ∧ reads 0xA4308802 (.pxor ⟨3, 1, 2, ⟨0, false⟩⟩)
    ∧ reads 0xAC910CA5 (.mapr ⟨9, 2, 3, ⟨1, false⟩⟩ 5) ∧ reads 0xB0024003 (.lskipNz 4 3) := by decide
theorem test_decode_matrix : reads 0xB680108C (.mopa ⟨true, 8, 0, 4, 1⟩ 3) ∧ reads 0xB8400800 (.mma ⟨4, 0, 2, 0⟩)
    ∧ reads 0xB9000D61 (.mmad ⟨16, 0, 3, 2⟩ 24) ∧ reads 0xBC08AC00 (.oload 0 17 11)
    ∧ reads 0xBCD60012 (.apre 13 12 .pin) ∧ reads 0xBC0A2804 (.adtb 20 10) := by decide
/-- The cause that a word which does not decode raises. -/
def refusal (w : Word32) : Option Cause :=
  match decode w with
  | .error e => some (decodeCause e)
  | .ok _ => none

-- Major 0x3F, funct10 0x019 of 0x08, a non-zero fixed field, C = 1 on CMPRS (R289), a queue code for FEED below 28 (R290).
theorem test_decode_refuses : ([0xFFFFFFFF, 0x20000019, 0x04000401, 0xA2412480, 0x64028000] : List Word32).map refusal
    = [some .illegalInstr, some .illegalInstr, some .illegalInstr, some .convoyConflict, some .shapeInvalid] := by decide
/-! ### Small states -/

/-- The block that acts in the tests. -/
def me : BlkId := ⟨0, 0⟩

/-- A block at block start, as the placing of an instruction makes it: one task, pc 0, VA 0 mapped to PA 0x40000. -/
def blk : Block := newBlock placedTask 0 0 0 (grantWord (placedPolder Polder.init) 0 2) (0, 0)

/-- The machine in which block `b` acts. -/
def box (b : Block) : State :=
  { setBlock (State.reset.withFetchWord 32 0x04000009) me b with sched := [], cur := some me }

theorem box_acts (b : Block) : Acts (box b) me b := ⟨rfl, rfl⟩

/-- The outcome is a next state. -/
def isNext : Out → Bool
  | .next _ => true
  | _ => false

theorem goesOn {o : Out} (h : isNext o = true) : ∃ t, o = .next t := by
  cases o with
  | next t => exact ⟨t, rfl⟩
  | fault _ => cases h
  | refused _ => cases h

/-- The block after an instruction, where one follows. -/
def after (i : Instr) (s : State) : Option Block :=
  match exec i s with
  | .next t => getBlock t me
  | _ => none

/-- What an instruction leaves of its block, or of the block itself where nothing follows. -/
def ran (i : Instr) (b : Block) : Block := (after i (box b)).getD b

/-- The block with some a- and s-registers. -/
def regs (b : Block) (l : List (RegNo × Word64)) : Block :=
  { b with core := l.foldl (fun c e => regSet (regSet c true e.1 e.2) false e.1 e.2) b.core }

/-- The instruction traps with this cause and TADDR, and its block is resident no longer. -/
def trapsWith (i : Instr) (s : State) (c : Cause) (addr : Word64) : Bool :=
  match after i s with
  | some b => b.status != .resident && b.tcause &&& 0xFF == BitVec.ofNat 64 (causeCode c) && b.taddr == addr
  | none => false

/-! ### Scalar instructions -/

/-- a6 = s6 = −7, a7 = s7 = 2, a8 = s8 = 1, a9 = s9 = 64, a10 = s10 = −2^63, a11 = s11 = −1. -/
def bs : Block := regs blk [(6, -7), (7, 2), (8, 1), (9, 64), (10, 0x8000000000000000), (11, -1)]

/-- a5 after an instruction on the a-registers. -/
def a5 (i : Instr) : Word64 := regGet (ran i bs).core true 5

-- The boundary values of R342, R395 and R407.
theorem test_divide : a5 (.div ⟨true, 5, 6, 0⟩) = -1 ∧ a5 (.div ⟨true, 5, 10, 11⟩) = 0x8000000000000000
    ∧ a5 (.rem ⟨true, 5, 6, 7⟩) = -1 ∧ a5 (.rem ⟨true, 5, 6, 0⟩) = -7 ∧ a5 (.rem ⟨true, 5, 10, 11⟩) = 0 := by decide +kernel
theorem test_multiply : a5 (.mulh ⟨true, 5, 11, 11⟩) = 0 ∧ a5 (.mulhn ⟨true, 5, 11, 11⟩) = 0xFFFFFFFFFFFFFFFE := by decide +kernel
theorem test_shift_compare : a5 (.shl ⟨true, 5, 8, 9⟩) = 1 ∧ a5 (.sra ⟨true, 5, 10, 11⟩) = -1 ∧ a5 (.slt ⟨true, 5, 11, 0⟩) = 1
    ∧ a5 (.sltn ⟨true, 5, 11, 0⟩) = 0 ∧ a5 (.min ⟨true, 5, 11, 0⟩) = -1 ∧ a5 (.minn ⟨true, 5, 11, 0⟩) = 0 := by decide +kernel
theorem test_counts : a5 (.clz ⟨true, 5, 0⟩) = 64 ∧ a5 (.clz ⟨true, 5, 8⟩) = 63 ∧ a5 (.ctz ⟨true, 5, 10⟩) = 63
    ∧ a5 (.popc ⟨true, 5, 11⟩) = 64 := by decide +kernel
-- Register 0 reads zero and discards what is written (R62); R407 says the same of SEL.
theorem test_register_zero : regGet (ran (.addi ⟨true, 0, 6, 1⟩) bs).core true 0 = 0
    ∧ regGet (ran (.sel ⟨true, 0, 6, 7⟩) bs).core true 0 = 0 ∧ (ran (.addi ⟨true, 0, 6, 1⟩) bs).pc = 4 := by decide +kernel

theorem bs_clean (fl : Bool) (r : RegNo) : regMark bs.core fl r = none := by revert fl r; decide +kernel
theorem bs_unmarked (fl : Bool) (l : List RegNo) : Unmarked bs.core fl l := fun r _ => bs_clean fl r

/-- Hypotheses of ScalarResults, ScalarFrame, OriAndXori, ControlRegisters, ScalarFloatResults and BranchesAndJumps, for any
operands, with an operand of zero and others that are not. -/
theorem witness_scalar : Acts (box bs) me bs ∧ (∀ fl l, Unmarked bs.core fl l) ∧ regGet bs.core true 0 = 0
    ∧ regGet bs.core true 6 ≠ 0 ∧ (∃ t, exec (.add ⟨true, 5, 6, 7⟩) (box bs) = .next t) :=
  ⟨box_acts _, bs_unmarked, by decide +kernel, by decide +kernel, _, rfl⟩

/-- The second source of an instruction carries a mark of memory, the first that of a storage location. -/
def bm : Block := { bs with core := { bs.core with am := vset (vset bs.core.am 7 (some (.line 0x40000 0))) 6 (some (.chip .aReg 6)) } }

/-- Hypotheses of MarkedScalarOperand and OriAndXori for both kinds of mark, in either place, rewindable or not. -/
theorem witness_marked : Acts (box bm) me bm ∧ regMark bm.core true 6 = some (.chip .aReg 6)
    ∧ regMark bm.core true 8 = none ∧ regMark bm.core true 7 = some (.line 0x40000 0)
    ∧ bm.canRewind = true ∧ bm.consumed.any (sameSource (.chip .aReg 6)) = false ∧ bm.rewinds < 4
    ∧ (let b := { bm with rewinds := 4 }; Acts (box b) me b ∧ 4 ≤ b.rewinds)
    ∧ (let b := { bm with rewindable := false }; Acts (box b) me b ∧ b.canRewind = false) :=
  ⟨box_acts _, rfl, rfl, rfl, rfl, rfl, by decide, ⟨box_acts _, by decide⟩, box_acts _, rfl⟩

-- R261, R263: a consumption rewinds; after four rewinds it traps with the VA of the line.
theorem test_consume : (ran (.add ⟨true, 5, 8, 7⟩) bm).rewinds = 1 ∧ (ran (.add ⟨true, 5, 8, 7⟩) bm).pc = 0
    ∧ trapsWith (.add ⟨true, 5, 8, 7⟩) (box { bm with rewinds := 4 }) .poison 0 = true
    ∧ trapsWith (.add ⟨true, 5, 6, 7⟩) (box { bm with rewinds := 4 }) .uncorrectable 0 = true := by decide +kernel

/-- A block whose scalar queue to the access half holds 15 or 16 entries. -/
def bq (n : Nat) : Block := { bs with core := { bs.core with eq := ⟨List.replicate n ⟨3, none⟩, 0⟩ } }

/-- Hypotheses of BranchesAndJumps, SystemInstructions and ScalarQueues on the outgoing queue of the s-side, at both bounds,
with a JALR target that is aligned and one that is not. -/
theorem witness_queue : ActsFree (box (bq 15)) me (bq 15) ∧ (outQueue (bq 15).core false).entries.length = 15
    ∧ ActsFree (box (bq 16)) me (bq 16) ∧ (outQueue (bq 16).core false).entries.length = 16
    ∧ (bq 15).core.eq.debt = 0 ∧ (bq 16).room = false ∧ (bq 15).core.eq.entries = ⟨3, none⟩ :: List.replicate 14 ⟨3, none⟩
    ∧ (bq 15).core.aq.entries = [] ∧ (regGet bs.core false 9 + (0 : BitVec 15).signExtend 64).toNat % 4 = 0
    ∧ (regGet bs.core false 9 + (1 : BitVec 15).signExtend 64).toNat % 4 ≠ 0 :=
  ⟨⟨box_acts _, rfl⟩, rfl, ⟨box_acts _, rfl⟩, rfl, rfl, rfl, rfl, rfl, by decide +kernel, by decide +kernel⟩

-- R383, R357: a branch on the s-registers, and one that cannot pass its outcome; JALR at a misaligned target.
theorem test_branch : (ran (.bge ⟨false, 7, 6, -1⟩) (bq 15)).pc = 2 ^ 64 - 4 ∧ (ran (.bgen ⟨false, 7, 6, -1⟩) (bq 15)).pc = 4
    ∧ (ran (.bge ⟨false, 7, 6, -1⟩) (bq 16)).stuck = true
    ∧ trapsWith (.jalr ⟨false, 5, 9, 1⟩) (box bs) .misalign 65 = true := by decide +kernel
theorem test_queue : (ran (.qput ⟨false, 7⟩) (bq 15)).core.eq.entries.length = 16 ∧ (ran (.qput ⟨false, 7⟩) (bq 16)).waiting = true
    ∧ regGet (ran (.qget ⟨true, 5⟩) (bq 15)).core true 5 = 3 ∧ (ran (.qget ⟨true, 5⟩) (bq 15)).core.eq.entries.length = 14 := by
  decide +kernel

/-- A block in its user-interrupt handler, and one with its event flag set. -/
def bh : Block := { bs with uistat := 4, shadowA := vset bs.shadowA 6 9, uiret := 0x20, eventFlag := true }

/-- Hypotheses of SystemInstructions on the handler, the event flag and TRAP's register. -/
theorem witness_system : Acts (box bh) me bh ∧ bh.uistat.getLsbD 2 = true ∧ bs.uistat.getLsbD 2 = false ∧ bh.eventFlag = true
    ∧ bs.eventFlag = false ∧ bs.uien = false ∧ regGet bs.core false 0 = 0 ∧ regGet bs.core false 7 ≠ 0
    ∧ (outQueue bs.core false).entries.length < 16 :=
  ⟨box_acts _, by decide +kernel, by decide +kernel, rfl, rfl, rfl, rfl, by decide +kernel, by decide +kernel⟩

-- R466, R452, R447.
theorem test_uiret : (ran .uiret bh).pc = 0x20 ∧ regGet (ran .uiret bh).core true 7 = 9 ∧ (ran .uiret bh).shadowS.toList.getD 6 0 = 2
    ∧ (ran .uiret bh).uistat = 0 := by decide +kernel
theorem test_traps : trapsWith (.trap ⟨false, 7⟩) (box bs) .brk 0 = true ∧ (ran (.trap ⟨false, 0⟩) bs).pc = 4
    ∧ (ran .sysc bs).status = .suspended ∧ (ran .eret bs).status = .ended
    ∧ trapsWith (.ctlr true 5 0x004) (box bs) .illegalInstr 0 = true := by decide +kernel
-- R83: TE and RM of FMODE are written, the reserved bits keep.
theorem test_ctlw : (ran (.ctlw true 11 0) bs).core.fmode = 0xFFFFFFFF00007F7E ∧ (ran (.ctlw true 11 3) bs).core.sidx = -1
    ∧ regGet (ran (.ctlr true 5 0x03A) bs).core true 5 = 0 := by decide +kernel
-- R374: FADD of 1 and 2, FCVT.i64.f64 of 2.5 is 2 and inexact (the manual's table), of NaN 0 and invalid.
theorem test_float : regGet (ran (.fadd ⟨5, 3, 4, false⟩) (regs blk [(3, 0x3F800000), (4, 0x40000000)])).core false 5 = 0x40400000
    ∧ (let b := ran (.fcvt 5 3 .i64f64) (regs blk [(3, 0x4004000000000000)])
       regGet b.core false 5 = 2 ∧ b.core.fstat = 0x10)
    ∧ (let b := ran (.fcvt 5 3 .i64f64) (regs blk [(3, 0x7FF8000000000000)])
       regGet b.core false 5 = 0 ∧ b.core.fstat = 1)
    ∧ trapsWith (.fcvt 5 3 .i64f64) (box (regs { blk with core := { blk.core with fmode := 0x110 } } [(3, 0x7FF8000000000000)]))
        .fpEnabled 0 = true := by decide +kernel

/-! ### The machine as a whole -/

theorem witness_codec : encode (.add ⟨true, 16, 16, 10⟩) = some 0x23082800 ∧ reads 0x23082800 (.add ⟨true, 16, 16, 10⟩) := by decide

/-- The state in which the block's turn comes next, at a word. -/
def turn (w : Nat) : State := State.reset.withFetchWord 32 w

/-- The fetched word, where there is one. -/
def wordAt (s : State) (b : Block) (va : Nat) : Option Word32 :=
  match fetchAt s me b va with
  | .word w => some w
  | _ => none

/-- Hypotheses of StepRunsDecodedInstruction: a word that decodes, one that does not, and the bytes at the pc. -/
theorem witness_step (w : Nat) (h : w = 0x2209000A ∨ w = 0x20000019) : (turn w).sched = [.block me]
    ∧ getBlock (turn w) me = some blk ∧ blk.status = .resident ∧ polderDown (turn w) me.p = false
    ∧ (getPolder (turn w) me.p).stalled = false ∧ blk.stuck = false ∧ interruptReady blk = false
    ∧ (let s0 : State := { turn w with sched := [], cur := some me }
       wordAt s0 blk blk.pc = some (BitVec.ofNat 32 w) ∧ convoyHere s0 me blk (BitVec.ofNat 32 w) = false
        ∧ (decodeTableWord 32 w).isSome = decide (w = 0x2209000A)
        ∧ ∃ x a, probe s0 (blockAcc s0 me blk) needX blk.pc = .ok x ∧ physTarget s0 x.pa = .hbm a
          ∧ polderDown s0 (a / polderBytes) = false) := by
  cases h <;> (subst w; and_intros)
  all_goals first | rfl | decide +kernel | exact ⟨_, _, by and_intros <;> rfl⟩

/-- The block after a step. -/
def stepped (s : State) : Option Block :=
  match step s with
  | .next t => getBlock t me
  | _ => none

-- R286, R289: `add a16, a16, a10` runs; an unassigned code ends the task, at either end of the unassigned majors too.
theorem test_step : (stepped (turn 0x23082800)).map (fun b => (b.pc, b.status)) = some (4, .resident)
    ∧ ([0x20000019, 0x00000000, 0x03FFFFFF, 0xC0000000, 0xFFFFFFFF].map fun w => (stepped (turn w)).map fun b => b.status)
      = List.replicate 5 (some .ended) := by decide +kernel

/-- Hypotheses of StepKeepsMemoriesCanonical, MemoryLaws and TrapEntry. -/
theorem witness_safe : State.reset.safe ∧ (turn 0x23082800).safe ∧ (∃ t, step (turn 0x23082800) = .next t) ∧ Memory.wf (box blk).hbm = true
    ∧ Memory.wf [] = true ∧ Memory.wf [(3, 1)] = true := by
  refine ⟨⟨rfl, rfl, ?_⟩, ⟨by decide +kernel, by decide +kernel, ?_⟩, goesOn (by decide +kernel), ?_, rfl, rfl⟩
  · unfold Polder.safe; decide +kernel
  · unfold Polder.safe; decide +kernel
  · decide +kernel
-- Little-endian order (R3); writing zero leaves nothing listed; a wide write keeps the form.
theorem test_memory : memSetNat [] 8 4 0x0000AA01 = [(8, 1), (9, 0xAA)] ∧ memNat [(8, 1), (9, 0xAA)] 8 2 = 0xAA01
    ∧ memSetNat [(8, 1), (9, 0xAA)] 8 2 0 = [] ∧ Memory.wf [(9, 1), (8, 1)] = false ∧ Memory.wf [(9, 0)] = false := by decide

/-- The machine with a second block in the cluster of the first. -/
def pair (b d : Block) : State :=
  let s := updCluster (box b) 0 0 fun c => { c with blkids := [0, 1], ctxs := [0, 1] }
  updTask (setBlock s ⟨0, 1⟩ d) 0 1 fun k => { k with nblocks := 2, placed := 2 }

/-- Hypotheses of TrapEntry, HaltEndsTheBlock and SchedulerEvents on the cluster and the other member. -/
theorem witness_pair : getBlock (pair blk blk) me = some blk ∧ resumeOf .xlate true ≠ .none
    ∧ Memory.wf (pair blk blk).hbm = true ∧ (∃ c, clusterOf (pair blk blk) 0 blk.cid = some c ∧ 1 ∈ c.ctxs ∧ c.resident = true
      ∧ c.creator < 16 ∧ ∃ k, getTask (pair blk blk) c.creator c.handle = some k)
    ∧ getBlock (pair blk blk) ⟨0, 1⟩ = some blk ∧ blk.status = .resident ∧ blk.sbuf = []
    ∧ ActsFree (pair blk blk) me blk :=
  by and_intros <;> first | rfl | decide +kernel | exact ⟨_, rfl, by decide, rfl, by decide, _, rfl⟩

-- R247, R40: the trap suspends the block and pre-empts the other member; the record has the cause of R244.
theorem test_trap_entry : (let t := takeTrap (pair blk blk) me blk ⟨.xlate, true, false, 0, 0x1234⟩
    (getBlock t me).map (fun b => (b.status, b.tcause, b.taddr)) = some (.suspended, 0x204, 0x1234)
    ∧ (getBlock t ⟨0, 1⟩).map (fun b => b.status) = some .preempted
    ∧ (getPolder t 0).fq.waiting.map (fun r => r.getD 4 0) = [0x1234]) := by decide +kernel

/-! ### Strips, tiles, clusters -/

-- R74 with the grant of an f32 record under 8 tiles: the request in full, and cut to what a tile holds.
theorem test_shape : (let b := ran (.shapei ⟨false, 6, 9, 3⟩) (regs blk [(9, 32)])
    (b.core.gr, b.core.gc, regGet b.core true 6, regGet b.core false 8, b.stripId) = (3, 32, 3, 96, 1))
    ∧ trapsWith (.shapei ⟨false, 30, 9, 3⟩) (box bs) .illegalInstr 0 = true
    ∧ trapsWith (.shapei ⟨false, 0, 9, 3⟩) (box bs) .illegalInstr 0 = true
    ∧ (ran (.shapei ⟨false, 29, 9, 3⟩) bs).core.shapeD = some 29
    ∧ (ran (.shapei ⟨false, 1, 9, 0⟩) bs).core.gc = 0 := by decide +kernel

/-- A block with one buffered store to HBM at PA 0x40100. -/
def bst : Block := { bs with sbuf := [⟨0x100, .pa 0x40100, 4, 0x1234, none, none⟩] }

/-- The same store behind a sluice that is lost: its HBM belongs to polder 1, which is down. -/
def bsl : Block := { bs with sbuf := [⟨0x100, .pa 0x800000000, 4, 0x1234, none, none⟩] }

/-- Hypotheses of StripBoundary, OwnStoresSeen and GrantFits. -/
theorem witness_strip : ActsFree (box bs) me bs ∧ (∃ s b, commit (box bs) me bs = .done s b) ∧ bst.sbuf ≠ []
    ∧ (∃ s b, commit (box bst) me bst = .done s b) ∧ cardHolds (box bst) me 0x40100 4 = false
    ∧ lostSluice (box bst) 0 0x40100 = false ∧ polderDown (box bst) (0x40100 / polderBytes) = false
    ∧ (∃ s b va c, commit (box bsl) me bsl = .down s b va c) ∧ lostSluice (box bsl) 0 0x800000000 = true
    ∧ (0 : PredNo) ∈ boundRecs blk.core ∧ (recN blk.core 0).reqr = 0 ∧ (recN blk.core 0).reqc = 0
    ∧ (stripGrant blk.grantc blk.core 3 32).2 ≠ 0 :=
  by
    and_intros
    all_goals first | rfl | decide +kernel | exact box_acts _ | exact ⟨_, _, rfl⟩ | exact ⟨_, _, _, _, rfl⟩
/-- The block with all records f32 of 1 × 2, but record 1 i32 for T1; T0 = (1.0, 2.0) and T1 = (3, 1) live, the rest dead;
a6 = 0x100, a7 = 2^55, a8 = 0xFFFC, a9 = 2, a10 = 4, a11 = 0x10000. -/
def row (ty : ElemType) : ShapeRec := ⟨0, 0, 1, 2, ty, 0, .rowMajor, false⟩

def full (l : SMap Nat) : Tile := ⟨true, false, 1, 2, l, [], []⟩

def bd : Block :=
  let b := regs blk [(6, 0x100), (7, 0x80000000000000), (8, 0xFFFC), (9, 2), (10, 4), (11, 0x10000)]
  { b with core := { b.core with
      recs := vset (Vector.replicate 8 (row .f32)) 1 (row .i32), gr := 1, gc := 2, bindT := vset b.core.bindT 1 1,
      tiles := vset (vset b.core.tiles 0 (full [(0, 0x3F800000), (1, 0x40000000)])) 1 (full [(0, 3), (1, 1)]) } }

theorem bd_acts : ActsFree (box bd) me bd := ⟨box_acts _, rfl⟩
theorem bd_clean (fl : Bool) (r : RegNo) : regMark bd.core fl r = none := by revert fl r; decide +kernel
theorem bd_unmarked (fl : Bool) (l : List RegNo) : Unmarked bd.core fl l := fun r _ => bd_clean fl r

/-- How an instruction leaves its block. -/
def ends (i : Instr) (b : Block) : BlkStatus := (ran i b).status

-- R67, R68, R431 to R433 at the bounds: images; code ranges that run down, mix, or pass the 16 declared tiles.
theorem test_tbind : recOfWord 0 = none ∧ recOfWord 0x5801 = none ∧ recOfWord 0x5A00 = some ⟨0, 0, 0, 0, .f32, 1, .rowMajor, false⟩
    ∧ ends (.tbindTiles 5 4 1) bd = .ended ∧ ends (.tbindTiles 27 28 1) bd = .ended ∧ ends (.tbindTiles 0 16 1) bd = .ended
    ∧ ends (.tbindTiles 28 31 1) bd = .resident ∧ ends (.tbindSq 1 0 1) bd = .ended
    ∧ (let b := ran (.tbindTiles 0 15 1) bd
       ((getTile b.core 0).live, (getTile b.core 1).live, vget 0 b.core.bindT 15, vget 0 b.core.bindT 16) = (false, true, 1, 0))
    ∧ vget 0 (ran (.tbindSq 0 3 1) bd).core.bindS 3 = 1 := by decide +kernel

/-- A queue bound to record 0 holds an element, and record 2 has a group. -/
def bqg : Block := { bd with core := { bd.core with
  lq := vset bd.core.lq 0 ⟨[⟨1, none⟩], 0⟩, recs := vset bd.core.recs 2 { row .f32 with g := 1 } } }

-- R432, R433: a record with a queue takes no group, nor another TYPE while the queue is busy; record 3 may take either.
theorem test_tbind_queue : queueBindBad bqg.core 2 (false, 0) = true ∧ queueBindBad bqg.core 1 (false, 0) = true
    ∧ queueBindBad bqg.core 3 (false, 0) = false ∧ queueBindBad bqg.core 1 (true, 0) = false
    ∧ ends (.tbindRecord 0 5) (regs bqg [(5, 0x5A00)]) = .ended ∧ ends (.tbindRecord 0 5) (regs bqg [(5, 0x1800)]) = .ended
    ∧ ends (.tbindRecord 3 5) (regs bqg [(5, 0x5A00)]) = .resident ∧ ends (.tbindRecord 0 5) (regs bd [(5, 0x1800)]) = .resident
    ∧ (getTile (ran (.tbindRecord 0 5) (regs bd [(5, 0x1800)])).core 0).live = false := by decide +kernel

/-- Hypotheses of Bindings and DeadAndZeroTiles. -/
theorem witness_bindings : ActsFree (box bd) me bd ∧ (∀ l, Unmarked bd.core false l) ∧ declared bd.grantc = 16
    ∧ (∃ r, recOfWord 0x5800 = some r ∧ r.g = 0 ∧ queuesOf bd.core 1 = [] ∧ queuesOf bd.core 0 ≠ [])
    ∧ tileOk bd.grantc bd.core 15 = true ∧ tileOk bd.grantc bd.core 16 = false :=
  ⟨bd_acts, bd_unmarked false, rfl, ⟨_, rfl, rfl, by decide +kernel, by decide +kernel⟩, by decide +kernel, by decide +kernel⟩

-- R438, R463 at the bounds.
theorem test_tdead_tzero : (getTile (ran (.tdead 0 15) bd).core 0).live = false ∧ ends (.tdead 1 0) bd = .ended
    ∧ ends (.tdead 0 16) bd = .ended ∧ ends (.tdead 0 28) bd = .ended ∧ ends (.tzero 16) bd = .ended ∧ ends (.tzero 28) bd = .ended
    ∧ (let t := getTile (ran (.tzero 0) bd).core 0
       (t.live, t.dirty, t.hwr, t.hwc, t.elem 0 1) = (true, true, 1, 2, 0)) := by decide +kernel

/-- T0 live at the checkpoint with 8 bytes, in a store of n bytes. -/
def bcopy (n : Nat) : Block := { bd with core := { bd.core with copies := ⟨[(0, 8)], 0, false, n⟩ } }

/-- Hypotheses of DeadAndZeroTiles on copies. -/
theorem witness_copies : ActsFree (box (bcopy 0)) me (bcopy 0) ∧ mapGet (bcopy 0).core.copies.held 0 = some 8
    ∧ (dstRec (bcopy 0).core 0).g = 0 ∧ tileOk (bcopy 0).grantc (bcopy 0).core 0 = true :=
  ⟨⟨box_acts _, rfl⟩, rfl, by decide +kernel, by decide +kernel⟩

-- R76, R77: the first write of T0 takes a copy, with the old contents kept; without room the strip cannot rewind.
theorem test_tile_copies : (let b := ran (.tzero 0) (bcopy 0x100000); (b.canRewind, b.core.copies.kept)) = (true, 8)
    ∧ (let b := ran (.tzero 0) (bcopy 0); (b.canRewind, b.core.copies.kept)) = (false, 0)
    ∧ (ran (.tzero 1) (bcopy 0)).canRewind = true ∧ (newStrip (ran (.tzero 0) (bcopy 0)) 1 1 2).canRewind = true := by
  decide +kernel

/-! ### Clusters -/

/-- The machine with two members that both run `bd`, and what an instruction leaves of them. -/
def duo (b d : Block) : State := pair b d

def peer (i : Instr) (s : State) : Option Block :=
  match exec i s with
  | .next t => getBlock t ⟨0, 1⟩
  | _ => none

/-- A message of two f32 elements for rank 0 under tag 2. -/
def msg : Message := ⟨0, 2, .f32, 1, 2, [(0, 5)], [], []⟩

/-- A block with n arrivals made and counted at barrier 0. -/
def arrived (made n : Nat) : Block :=
  { bd with arrMade := vset bd.arrMade 0 made, core := { bd.core with arrived := vset bd.core.arrived 0 n } }

/-- Hypotheses of ClusterExchange: arrivals to re-attach, new ones, a third; ranks inside and outside; messages. -/
theorem witness_exchange : ActsFree (box bd) me bd ∧ arrivedAt (arrived 1 0) 0 + 1 ≤ madeAt (arrived 1 0) 0
    ∧ phasesOf (box bd) me bd 0 = 0 ∧ madeAt bd 0 < arrivedAt bd 0 + 1 ∧ madeAt bd 0 < 0 + 2
    ∧ (madeAt (arrived 2 2) 0 < arrivedAt (arrived 2 2) 0 + 1 ∧ 0 + 2 ≤ madeAt (arrived 2 2) 0)
    ∧ (∃ cl, clusterOf (duo bd bd) 0 bd.cid = some cl ∧ cl.ctxs.length = 2) ∧ tileOk bd.grantc bd.core 0 = true
    ∧ FitsRow (recN bd.core 0) ∧ (0 : TileCode).toNat < 28 ∧ (∀ l, Unmarked bd.core true l) ∧ msg.dest = bd.clrank ∧ msg.ty = (row .f32).ty :=
  ⟨bd_acts, by decide +kernel, rfl, by decide +kernel, by decide +kernel, by decide +kernel, ⟨_, rfl, rfl⟩, by decide +kernel,
    by unfold FitsRow; decide +kernel, by decide, bd_unmarked true, rfl, rfl⟩

theorem witness_exchange_live : NoDead bd.core [tileSrc bd.core 0] (upTo (recElems (recN bd.core 0))) := by
  unfold NoDead; decide +kernel

-- R353: with one member the arrival of BAR completes nothing by itself; a third arrival waits.
theorem test_barrier : madeAt (ran (.arrive 0) bd) 0 = 1 ∧ (ran (.await 0) (arrived 1 1)).waiting = true ∧ (ran (.await 0) bd).pc = 4
    ∧ (ran (.bar 0) bd).waiting = true ∧ (ran (.arrive 0) (arrived 2 2)).waiting = true ∧ (ran (.arrive 0) (arrived 1 0)).pc = 4 := by
  decide +kernel
-- R222 to R225: a message of rank 0's tile to rank 1; the fifth waits; a rank outside; the oldest matching message.
theorem test_exchange : (after (.tsend 0 5 9) (duo (regs bd [(5, 1)]) bd)).map (fun b => b.msgs.map fun m => (m.dest, m.tag, mapNat m.elems 1))
      = some [(1, 2, 0x40000000)]
    ∧ (peer (.tsend 0 5 9) (duo (regs bd [(5, 1)]) bd)).map (fun b => b.eventFlag) = some true
    ∧ (after (.tsend 0 5 9) (duo { regs bd [(5, 1)] with msgs := List.replicate 4 msg } bd)).map (fun b => b.waiting) = some true
    ∧ trapsWith (.tsend 0 9 9) (duo bd bd) .perm 0 = true
    ∧ (after (.trecv 0 5 9) (duo (regs bd [(5, 1)]) { bd with msgs := [{ msg with tag := 1 }, msg] })).map
        (fun b => ((getTile b.core 0).elem 0 0, b.pc)) = some (5, 4)
    ∧ (peer (.trecv 0 5 9) (duo (regs bd [(5, 1)]) { bd with msgs := [{ msg with tag := 1 }, msg] })).map (fun b => b.msgs.length) = some 1
    ∧ (after (.trecv 0 5 10) (duo (regs bd [(5, 1)]) { bd with msgs := [msg] })).map (fun b => b.waiting) = some true
    ∧ trapsWith (.trecv 0 5 9) (duo (regs bd [(5, 1)]) { bd with msgs := [{ msg with cols := 3 }] }) .shapeMismatch 0 = true := by
  decide +kernel

/-! ### Memory accesses -/

/-- The machine with bytes in HBM from PA 0x40100, which VA 0x100 reaches. -/
def mem (b : Block) (bytes : List Byte) : State := let s := box b; { s with hbm := memSetBytes s.hbm 0x40100 bytes }

def inHbm (s : State) (b : Block) (n : Need) (va size pa : Nat) : Bool :=
  decide (pa + size ≤ 0x8000000000) && !polderDown s (pa / polderBytes) &&
    match probeAt s (blockAcc s me b) n va with
    | .ok (.phys q 0) => q == pa
    | _ => false

theorem inHbm_spec {s : State} {b : Block} {n : Need} {va size pa : Nat} (h : inHbm s b n va size pa = true) :
    InHbm s me b n va size pa := by
  simp only [inHbm, Bool.and_eq_true, decide_eq_true_eq, Bool.not_eq_true'] at h
  have hq := h.2
  split at hq
  next q e => exact ⟨h.1.1, h.1.2, 0, by decide, eq_of_beq hq ▸ e⟩
  next => cases hq

def elemIn (s : State) (b : Block) (n : Need) (e : MemEl) (pa : Nat) : Bool :=
  e.va % e.size == 0 && inHbm s b n e.va e.size pa && (poisonIn s pa e.size).isNone && e.scale.isNone

theorem elemIn_spec {s : State} {b : Block} {n : Need} {e : MemEl} {pa : Nat} (h : elemIn s b n e pa = true) :
    ElemInHbm s me b n e pa := by
  simp only [elemIn, Bool.and_eq_true, beq_iff_eq, Option.isNone_iff_eq_none] at h
  exact ⟨h.1.1.1, inHbm_spec h.1.1.2, h.1.2, fun v hv => by rw [h.2] at hv; cases hv⟩

/-- Where a store goes, where it may go there and it is no device memory. -/
def storeTo (s : State) (b : Block) (va : Nat) : Option Where :=
  match probeAt s (blockAcc s me b) needWr va with
  | .ok w => if w.device then none else some w
  | .error _ => none

theorem storeTo_spec {s : State} {b : Block} {va : Nat} {w : Where} (h : storeTo s b va = some w) :
    probeAt s (blockAcc s me b) needWr va = .ok w ∧ w.device = false := by
  unfold storeTo at h
  split at h
  · rename_i x e
    split at h
    · cases h
    · rename_i hd
      cases h
      exact ⟨e, by simpa using hd⟩
  · cases h

theorem storable_spec {s : State} {b : Block} {e : MemEl} {w : Where}
    (h : e.va % e.size = 0 ∧ storeTo s b e.va = some w ∧ e.scale = none) : ElemStorable s me b e w :=
  ⟨h.1, (storeTo_spec h.2.1).1, (storeTo_spec h.2.1).2, fun v hv => by rw [h.2.2] at hv; cases hv⟩

/-- Every piece of an interval lies 0x40000 above its VA in clean HBM, with these bytes. -/
def spanIn (s : State) (b : Block) (va : Nat) (bs : List Byte) : Bool :=
  (pieces128 va bs.length).all fun p => inHbm s b needRd p.1 p.2 (p.1 + 0x40000) && (poisonIn s (p.1 + 0x40000) p.2).isNone
    && decide (memBytes s.hbm (p.1 + 0x40000) p.2 = (bs.drop (p.1 - va)).take p.2)

theorem spanIn_spec {s : State} {b : Block} {va : Nat} {bs : List Byte} (h : spanIn s b va bs = true) :
    SpanInHbm s me b va bs := by
  intro v k hm
  have h1 := List.all_eq_true.mp h _ hm
  simp only [Bool.and_eq_true, Option.isNone_iff_eq_none, decide_eq_true_eq] at h1
  exact ⟨v + 0x40000, inHbm_spec h1.1.1, h1.1.2, h1.2⟩

/-- Hypotheses of ScalarLoads and ScalarStores: VA 0x100 in HBM, VA 2^55, a misaligned one, an unmapped one, the aperture. -/
theorem witness_scalar_access : Acts (box bd) me bd ∧ (∀ l, Unmarked bd.core true l) ∧ bd.sbuf = []
    ∧ InHbm (box bd) me bd needRd 0x100 8 0x40100 ∧ probeAt (box bd) (blockAcc (box bd) me bd) needRd 0x10000 = .error .xlate
    ∧ (probeAt (box bd) (blockAcc (box bd) me bd) needWr 0x100 = .ok (.phys 0x40100 0) ∧ (Where.phys 0x40100 0).device = false)
    ∧ shBase ≤ 2 ^ 55 - 8 ∧ sharedMark bd (2 ^ 55 - 8 - shBase) 8 = none ∧ bufBytes bd.sbuf + 8 ≤ 262144
    ∧ (regGet bd.core true 6 + regGet bd.core true 0).toNat = 0x100 ∧ (regGet bd.core true 6 + regGet bd.core true 9).toNat % 4 ≠ 0
    ∧ (regGet bd.core true 7 + regGet bd.core true 0).toNat = 2 ^ 55 :=
  ⟨box_acts _, bd_unmarked true, rfl, inHbm_spec (by decide +kernel), rfl, ⟨rfl, rfl⟩, by decide, rfl, by decide +kernel,
    by decide +kernel, by decide +kernel, by decide +kernel⟩

/-- A page of device memory in HBM: the same page with memory type 2. -/
def dev : State := let s := box bd; { s with hbm := memSetNat s.hbm 0x30000 8 0x4009F }

/-- Hypotheses of ScalarStores on device memory, and of ScalarAtomics on PCIe space (VA 0x10000, through a window). -/
def bus : State :=
  let s := updPolder (box bd) 0 fun x => { x with pcieWin := vset x.pcieWin 0 (0, 0xFFFF0001) }
  { s with hbm := memSetNat s.hbm 0x30008 8 0x000400000000001F }

-- R385: values and extension; R245: MISALIGN, XLATE; R169: the block sees its own store, memory does not.
theorem test_ld_st : regGet (((after (.ld 5 6 0 .i8) (mem bd [0x80])).getD bd).core) true 5 = 0xFFFFFFFFFFFFFF80
    ∧ regGet (((after (.ldX 5 6 8 .n16) (mem { bd with core := regSet bd.core true 8 1 } [1, 2, 3, 4])).getD bd).core) true 5 = 0x0403
    ∧ trapsWith (.ld 5 6 9 .n32) (box bd) .misalign 0x102 = true ∧ trapsWith (.ld 5 7 9 .n32) (box bd) .xlate 0x80000000000002 = true
    ∧ trapsWith (.st 5 11 0 .d) (box bd) .xlate 0x10000 = true
    ∧ (ran (.st 6 6 0 .n8) bd).sbuf = [⟨0x100, .pa 0x40100, 1, 0, none, none⟩]
    ∧ regGet (ran (.ld 5 6 0 .n16) (regs bst [(6, 0x100)])).core true 5 = 0x1234 := by decide +kernel

/-- Hypotheses of TileLoads and FaultOnlyFirst: T0 from VA 0x100 in whole; from 0xFFFC with its second element unmapped. -/
theorem witness_ldt : tileMemCheck bd ⟨0, 6, 0, 0⟩ = none ∧ FitsRow (srcRec bd.core 0) ∧ TidyTiles bd.core
    ∧ (srcRec bd.core 0).lay = .rowMajor ∧ activeIx bd.core ⟨0, false⟩ (recElems (srcRec bd.core 0)) = [0, 1]
    ∧ (∀ e ∈ [0, 1].map (imageEl (srcRec bd.core 0) 0x100 8), ElemInHbm (box bd) me bd needRd e (0x40100 + 4 * e.ix))
    ∧ (srcRec bd.core 0).g = 0 ∧ (srcRec bd.core 0).reqr = 0 ∧ (srcRec bd.core 0).reqc = 0
    ∧ ElemInHbm (box bd) me bd needRd (imageEl (srcRec bd.core 0) 0xFFFC 8 0) 0x4FFFC
    ∧ elCauses (box bd) (blockAcc (box bd) me bd) needRd (srcRec bd.core 0) 0 (imageEl (srcRec bd.core 0) 0xFFFC 8 1) ≠ [] := by
  refine ⟨by decide +kernel, by unfold FitsRow; decide +kernel, by unfold TidyTiles; decide +kernel, rfl, by decide +kernel, ?_, rfl, rfl, rfl,
    elemIn_spec (by decide +kernel), by decide +kernel⟩
  have h : ([0, 1].map (imageEl (srcRec bd.core 0) 0x100 8)).all fun e => elemIn (box bd) bd needRd e (0x40100 + 4 * e.ix) := by
    decide +kernel
  exact fun e he => elemIn_spec (List.all_eq_true.mp h e he)

-- R386, R388: T0 from memory; T2 gathered by T1's indices at a scale of 4.
theorem test_ldt : ((after (.ldt ⟨0, 6, 0, 0⟩) (mem bd [1, 0, 0, 0, 2])).map fun b => ((getTile b.core 0).elem 0 0, (getTile b.core 0).elem 0 1))
      = some (1, 2)
    ∧ ((after (.ldg ⟨2, 6, 1, 0, 2⟩) (mem bd [0, 0, 0, 0, 7, 0, 0, 0, 0, 0, 0, 0, 9])).map fun b =>
        ((getTile b.core 2).elem 0 0, (getTile b.core 2).elem 0 1)) = some (9, 7)
    ∧ ((after (.ldq ⟨1, 6, 0, 0⟩) (mem bd [1, 0, 0, 0, 2])).map fun b => (vget ⟨[], 0⟩ b.core.lq 1).elems.map QElem.bits) = some [1, 2]
    -- R156, R157: the fault at the second element trims the grant to one column; in whole rows with two rows.
    ∧ (let b := ran (.ldt ⟨0, 8, 0, 0⟩) bd; (b.core.gr, b.core.gc, b.pc, (getTile b.core 0).elem 0 1) = (1, 1, 4, 0x40000000))
    ∧ trapsWith (.ldt ⟨0, 11, 0, 0⟩) (box bd) .xlate 0x10000 = true := by decide +kernel

/-- The block with T2's record of two rows, and a store queue with two elements. -/
def bq2 : Block := { bd with core := { bd.core with
  recs := vset bd.core.recs 0 { row .f32 with gr := 2 }, gr := 2, sq := vset bd.core.sq 0 ⟨[⟨8, none⟩, ⟨9, none⟩], 0⟩, sidx := 1 } }

theorem test_trim_rows : (let b := ran (.ldt ⟨0, 8, 9, 0⟩) (regs bq2 [(8, 0xFFF8), (9, 8)])
    (b.core.gr, b.core.gc, b.pc) = (1, 2, 4)) := by decide +kernel

/-- Hypotheses of the rest of TileLoads and of TileStores. -/
theorem witness_tile_access : gatherCheck bd 2 1 0 gatherType = none ∧ queueMemCheck (queueRec bd.core false 1) ⟨1, 6, 0, 0⟩ = none
    ∧ queueMemCheck (queueRec bd.core true 0) ⟨0, 6, 0, 0⟩ = none ∧ (vget ⟨none, none, true⟩ bd.core.feeds 1).cur = none
    ∧ (vget ⟨none, none, true⟩ bd.core.feeds 1).next = none ∧ (vget ⟨[], 0⟩ bd.core.lq 1).debt = 0 ∧ bd.room = false
    ∧ NoDead bd.core [tileSrc bd.core 0, tileSrc bd.core 1] [0, 1] ∧ NoMarks [tileSrc bd.core 1] [0, 1]
    ∧ bufBytes bd.sbuf + 9 * 2 ≤ 262144 ∧ (∀ e ∈ [0, 1].map (imageEl (srcRec bd.core 0) 0x100 8),
        ElemStorable (box bd) me bd e (.phys (0x40100 + 4 * e.ix) 0))
    ∧ (∀ e ∈ [0, 1].map (runEl (queueRec bd.core true 0) 0x100 4), ElemStorable (box bd) me bd e (.phys (0x40100 + 4 * e.ix) 0)) := by
  refine ⟨by decide +kernel, by decide +kernel, by decide +kernel, rfl, rfl, rfl, rfl, by unfold NoDead; decide +kernel,
    by unfold NoMarks; decide +kernel, by decide, ?_, ?_⟩
  · have h : ∀ e ∈ [0, 1].map (imageEl (srcRec bd.core 0) 0x100 8),
        e.va % e.size = 0 ∧ storeTo (box bd) bd e.va = some (.phys (0x40100 + 4 * e.ix) 0) ∧ e.scale = none := by decide +kernel
    exact fun e he => storable_spec (h e he)
  · have h : ∀ e ∈ [0, 1].map (runEl (queueRec bd.core true 0) 0x100 4),
        e.va % e.size = 0 ∧ storeTo (box bd) bd e.va = some (.phys (0x40100 + 4 * e.ix) 0) ∧ e.scale = none := by decide +kernel
    exact fun e he => storable_spec (h e he)

-- R420: SIDX = 1 starts at the second element; STQ keeps the highest index at an address; R46: too few elements wait.
theorem test_stt : ((ran (.stt ⟨0, 6, 0, 0⟩) { bd with core := { bd.core with sidx := 1 } }).sbuf.map fun e => (e.va, e.val))
      = [(0x104, 0x40000000), (0x100, 0x3F800000)]
    ∧ ((ran (.sts ⟨0, 6, 1, 0, 2⟩) bd).sbuf.map fun e => (e.va, e.val)) = [(0x10C, 0x3F800000), (0x104, 0x40000000)]
    ∧ (let b := { bd with core := { bd.core with sq := vset bd.core.sq 0 ⟨[⟨8, none⟩, ⟨9, none⟩], 0⟩ } }
       ((ran (.stq ⟨0, 6, 0, 0⟩) b).sbuf.map fun e => (e.va, e.val)) = [(0x100, 8), (0x104, 9)]
       ∧ ((ran (.stq ⟨0, 6, 5, 0⟩) (regs b [(5, 0)])).sbuf.map fun e => (e.va, e.val)) = [(0x100, 8), (0x100, 9)])
    ∧ (ran (.stq ⟨0, 6, 0, 0⟩) bd).waiting = true := by decide +kernel

/-- A feed record with V = 1, base 0x200 and extents 4, 1, 1, 1. -/
def feedRec : List Byte := [0, 2, 0, 0, 0, 0, 0, 0x80, 4, 0, 0, 0, 1, 0, 0, 0, 1, 0, 0, 0, 1] ++ List.replicate 43 0

/-- Hypotheses of PredicatesFeedsRegions. -/
theorem witness_regions : Acts (box bd) me bd ∧ inHandler bd = false ∧ bd.sbuf = [] ∧ SpanInHbm (mem bd [2]) me bd 0x100 [2]
    ∧ SpanInHbm (mem bd feedRec) me bd 0x100 feedRec ∧ (∃ f, parseFeed feedRec = some (true, f) ∧ f.total = 4)
    ∧ (∃ f, parseFeed (List.replicate 64 0) = some (false, f))
    ∧ (∀ v k, (v, k) ∈ pieces128 0x100 1 → ∃ w, probeAt (box bd) (blockAcc (box bd) me bd) needWr v = .ok w ∧ w.device = false)
    ∧ (∃ s b, drainSome bst.sbuf [] (box bst) me bst = .done s b)
    ∧ (∀ e, bst.sbuf.getLast? = some e → overlaps e.va e.size 0x100 4 = true) ∧ regGet bd.core true 0 = 0
    ∧ 2 ^ 55 < 0x80000000000000 + 4 := by
  have feeds : ∃ f, parseFeed feedRec = some (true, f) ∧ f.total = 4 := ⟨_, rfl, by decide +kernel⟩
  have pieces : ∀ v k, (v, k) ∈ pieces128 0x100 1 →
      ∃ w, probeAt (box bd) (blockAcc (box bd) me bd) needWr v = .ok w ∧ w.device = false := fun v k h => by
    have one : v = 0x100 ∧ k = 1 := by
      rw [show pieces128 0x100 1 = [(0x100, 1)] by decide, List.mem_singleton] at h
      exact Prod.mk.inj h
    rw [one.1]
    exact ⟨_, storeTo_spec (w := .phys 0x40100 0) (by decide +kernel)⟩
  and_intros
  all_goals first
    | exact box_acts _
    | exact pieces
    | exact feeds
    | exact spanIn_spec (by decide +kernel)
    | rfl
    | exact ⟨_, rfl⟩
    | exact ⟨_, _, rfl⟩
    | decide +kernel

-- R404, R405, R375, R359: predicates from and to memory; a feed taken, then a second, then none free; CLEAN drains.
theorem test_regions : ((after (.pld 1 6) (mem bd [2])).map fun b => (predBit b.core 1 0, predBit b.core 1 1)) = some (false, true)
    ∧ ((ran (.pst 1 6) { bd with core := setPred bd.core 1 3 }).sbuf.map fun e => (e.va, e.val)) = [(0x100, 3)]
    ∧ ((after (.feed 1 6) (mem bd feedRec)).map fun b => (vget ⟨none, none, true⟩ b.core.feeds 1).cur.isSome) = some true
    ∧ trapsWith (.feed 1 9) (box bd) .misalign 2 = true ∧ (ran (.clean 6 10) (regs bst [(6, 0x100), (10, 4)])).sbuf = []
    ∧ trapsWith (.inval 7 10) (box bd) .xlate 0x80000000000000 = true := by decide +kernel

/-- Hypotheses of ScalarAtomics and TileAtomics. -/
theorem witness_atomics : InHbm (box bd) me bd needRw 0x100 4 0x40100 ∧ poisonIn (box bd) 0x40100 4 = none
    ∧ (∃ pa mt a, probeAt bus (blockAcc bus me bd) needRw 0x10000 = .ok (.phys pa mt) ∧ physTarget bus pa = .bus a)
    ∧ (probeAt dev (blockAcc dev me bd) needWr 0x100 = .ok (.phys 0x40100 2) ∧ hitsBuffer bd.sbuf (.phys 0x40100 2) 4 = false)
    ∧ gatherCheck bd 0 1 0 (tamoType .fadd) = none ∧ Memory.wf (box bd).hbm = true
    ∧ (∀ i ∈ [0, 1], let va := 0x100 + 4 * (if i = 0 then 3 else 1)
        va % 4 = 0 ∧ InHbm (box bd) me bd needRw va 4 (va + 0x40000) ∧ poisonIn (box bd) (va + 0x40000) 4 = none) := by
  have cell (i : Nat) (hi : i < 2) : let va := 0x100 + 4 * (if i = 0 then 3 else 1)
      va % 4 = 0 ∧ InHbm (box bd) me bd needRw va 4 (va + 0x40000) ∧ poisonIn (box bd) (va + 0x40000) 4 = none := by
    match i, hi with
    | 0, _ | 1, _ => exact ⟨by decide, inHbm_spec (by decide +kernel), by decide +kernel⟩
  refine ⟨inHbm_spec (by decide +kernel), ?_⟩
  and_intros
  all_goals first | decide +kernel | exact ⟨_, _, _, rfl, rfl⟩ | rfl | exact fun i hi => cell i (by revert i; decide)

/-- HBM bytes and a register after an instruction. -/
def amo (i : Instr) (s : State) : Option (Nat × Word64) :=
  match exec i s with
  | .next t => (getBlock t me).map fun b => (memNat t.hbm 0x40100 4, regGet b.core true 5)
  | _ => none

-- R347, R350: the old value to the register, the new one to memory; a comparison that fails writes nothing; R179.
theorem test_amo : amo (.amoadd ⟨5, 6, 9, .sys, .relaxed, false⟩) (mem bd [0xFF, 0xFF, 0xFF, 0xFF]) = some (1, 0xFFFFFFFF)
    ∧ amo (.amomin ⟨5, 6, 9, .sys, .relaxed, false⟩) (mem bd [0xFF, 0xFF, 0xFF, 0xFF]) = some (0xFFFFFFFF, 0xFFFFFFFFFFFFFFFF)
    ∧ amo (.amocas ⟨5, 6, 9, .sys, .relaxed, false⟩) (mem { bd with core := regSet bd.core true 5 7 } [7]) = some (2, 7)
    ∧ amo (.amocas ⟨5, 6, 9, .sys, .relaxed, false⟩) (mem { bd with core := regSet bd.core true 5 6 } [7]) = some (7, 7)
    ∧ trapsWith (.amoand ⟨5, 11, 9, .sys, .relaxed, false⟩) bus .perm 0x10000 = true := by decide +kernel

/-! ### Tile instructions -/

/-- Records: 0 f32, 1 i32, 2 bf16, 7 mxi8, each 1 × 2; 3 n16, 4 bf16, 5 f32, 6 i32, each 1 × 1. Tiles: T0, T2, T3 of record 0,
T1, T7 of 1, T4, T8 of 2, T5 of 3, T6 of 4, T9 of 5, T10 of 6, T11 of 7; T0, T2, T3, T1, T7, T4, T5, T6, T9 and T11 are live. -/
def bt : Block :=
  let one (t : ElemType) : ShapeRec := { row t with reqc := 1, gc := 1 }
  let recs : List ShapeRec := [row .f32, row .i32, row .bf16, one .n16, one .bf16, one .f32, one .i32, row .mxi8]
  let binds : List (Nat × PredNo) := [(1, 1), (7, 1), (4, 2), (8, 2), (5, 3), (6, 4), (9, 5), (10, 6), (11, 7)]
  let tiles : List (Nat × Tile) := [(0, full [(0, 0x3F800000), (1, 0x40000000)]), (3, full [(0, 0x40400000), (1, 0xBF800000)]),
    (2, full [(0, 0x40A00000), (1, 0x40A00000)]), (1, full [(0, 3), (1, 1)]), (7, full [(0, 9), (1, 9)]), (4, full [(0, 0x3F80)]),
    (5, full []), (6, full [(0, 0x4000)]), (9, full [(0, 0x3F800000)]), (11, ⟨true, false, 1, 2, [(0, 0x80), (1, 0x40)], [(0, 0x7F)], []⟩)]
  let b := regs blk [(6, 0x100), (7, 1), (8, 0x40000000)]
  let c := { b.core with gr := 1, gc := 2, preds := vset b.core.preds 1 2 }
  let rs := ((upTo 8).zip recs).foldl (fun v e => vset v e.1 e.2) c.recs
  let bs := binds.foldl (fun v e => vset v e.1 e.2) c.bindT
  let ts := tiles.foldl (fun v e => vset v e.1 e.2) c.tiles
  { b with core := { c with recs := rs, bindT := bs, tiles := ts } }

/-- No guard. -/
def all : Guard := ⟨0, false⟩

/-- Elements 0 and 1 of a tile and FSTAT after an instruction. -/
def got (i : Instr) (b : Block) (k : Nat) : Nat × Nat × Word64 :=
  let x := ran i b
  ((getTile x.core k).elem 0 0, (getTile x.core k).elem 0 1, x.core.fstat)

/-- The block with elements of one tile replaced. -/
def with2 (b : Block) (k x y : Nat) : Block := { b with core := { b.core with tiles := vset b.core.tiles k (full [(0, x), (1, y)]) } }

theorem bt_free : ActsFree (box bt) me bt := ⟨box_acts _, rfl⟩
theorem bt_clean (fl : Bool) (r : RegNo) : regMark bt.core fl r = none := by revert fl r; decide +kernel

/-- A load queue with two f32 elements, and a store queue; with one element the source has too little. -/
def btq (l : List QElem) : Block := { bt with core := { bt.core with lq := vset bt.core.lq 0 ⟨l, 0⟩ } }

/-- Hypotheses of OperandForms and of the statements on tile instructions: what operands give, the destination, the flags. -/
theorem witness_operands : takeSrcs bt.core [0, 3] [] = some (bt.core, [tileSrc bt.core 0, tileSrc bt.core 3])
    ∧ (∃ c x, takeSrcs (btq [⟨1, none⟩, ⟨2, none⟩]).core [28] [] = some (c, [x]) ∧ x.get 1 = 2 ∧ c.lq[0].elems = [])
    ∧ takeSrcs (btq [⟨1, none⟩]).core [28, 0] [] = none ∧ (∀ k : Fin 4, (bt.core.feeds[k]).cur = none)
    ∧ DstReady bt bt.core 2 ∧ DstReady bt bt.core 28 ∧ NoTrapFlags bt.core 0x7F :=
  ⟨rfl, ⟨_, _, rfl, rfl, rfl⟩, rfl, by decide +kernel, by unfold DstReady FitsRow TidyTiles; decide +kernel,
    by unfold DstReady FitsRow TidyTiles; decide +kernel, by unfold NoTrapFlags; decide +kernel⟩

theorem witness_sources : NoDead bt.core [tileSrc bt.core 0, tileSrc bt.core 3, tileSrc bt.core 2] [0, 1]
    ∧ NoMarks [tileSrc bt.core 0, tileSrc bt.core 3, tileSrc bt.core 2] [0, 1] := by
  unfold NoDead NoMarks; decide +kernel

/-- Hypotheses of ElementwiseResults, ConversionResults, MoveResults, SortAndSearch and ReductionResults: forms that the
checks pass, and forms that they refuse for each cause. -/
theorem witness_checks : ttCheck bt isNum ⟨false, 2, 0, 3, all⟩ false = none ∧ ttCheck bt isFp ⟨false, 28, 0, 3, all⟩ true = some .shapeInvalid
    ∧ ttCheck bt isNum ⟨false, 2, 0, 1, all⟩ false = some .shapeMismatch ∧ ttuCheck bt isFp ⟨false, 2, 0, all⟩ = none
    ∧ tcmpCheck bt ⟨false, 1, 0, 3, all, .lt⟩ = none ∧ tcmpCheck bt ⟨false, 1, 0, 1, all, .lt⟩ = some .shapeMismatch
    ∧ cvtCheck bt tcvtTypes ⟨false, 8, 0, all⟩ false false = none ∧ cvtCheck bt tqntTypes ⟨false, 11, 0, all⟩ true false = none
    ∧ cvtCheck bt tdqTypes ⟨false, 2, 11, all⟩ false true = none ∧ cvtCheck bt tqntTypes ⟨false, 2, 0, all⟩ true false = some .shapeMismatch
    ∧ ttsCheck bt (fun t => !isMx t) ⟨false, 2, 8, all⟩ = none ∧ ttsCheck bt isInt ⟨false, 1, 7, all⟩ = none
    ∧ slideCheck bt ⟨2, 0, 7, all⟩ = none ∧ packCheck bt 2 0 all = none ∧ redCheck bt ⟨9, 0, all⟩ false = none
    ∧ redCheck bt ⟨2, 0, all⟩ true = none ∧ permCheck bt 2 [0] all true false false = none ∧ activeIx bt.core ⟨1, false⟩ 2 = [1] := by
  decide +kernel

-- R423 with a guard; the tables of R424, R441, R444; R87 on i32.
theorem test_elementwise : got (.tadd ⟨false, 2, 0, 3, ⟨1, false⟩⟩) bt 2 = (0x40A00000, 0x3F800000, 0)
    ∧ got (.tclamp ⟨false, 2, 0, 3, all⟩) (with2 (with2 (with2 bt 0 0xBF800000 0x40000000) 3 0x3F800000 0x3F800000) 2 0x7FC00000 0) 2
      = (0xBF800000, 0x3F800000, 0)
    ∧ got (.texp2 ⟨false, 2, 0, all⟩) (with2 bt 0 0x41200000 0x43000000) 2 = (0x44800000, 0x7F800000, 0x14)
    ∧ got (.trsq ⟨false, 2, 0, all⟩) (with2 bt 0 0x40800000 0x80000000) 2 = (0x3F000000, 0xFF800000, 2)
    ∧ got (.tfma ⟨false, 2, 0, 3, all⟩) (with2 (with2 (with2 bt 0 0x3F800001 0) 3 0x3F800001 0) 2 0xBF800002 0) 2 = (0x28800000, 0, 0)
    ∧ got (.tabs ⟨false, 7, 1, all⟩) (with2 bt 1 0x80000000 0xFFFFFFFF) 7 = (0x80000000, 1, 0) := by decide +kernel
theorem test_elementwise_more : got (.tsqrt ⟨false, 2, 0, all⟩) (with2 bt 0 0x40000000 0x40800000) 2 = (0x3FB504F3, 0x40000000, 0x10)
    ∧ got (.tlog2 ⟨false, 2, 0, all⟩) (with2 bt 0 0x3E800000 0x3F800000) 2 = (0xC0000000, 0, 0)
    ∧ got (.tfnma ⟨false, 2, 0, 3, all⟩) (with2 (with2 (with2 bt 0 0x3F800001 0) 3 0x3F800001 0) 2 0x3F800002 0) 2 = (0xA8800000, 0, 0)
    ∧ trapsWith (.tadd ⟨false, 2, 0, 4, all⟩) (box bt) .shapeMismatch 0 = true
    ∧ trapsWith (.tadd ⟨false, 2, 0, 3, all⟩) (box { bt with core := { bt.core with tiles := vset bt.core.tiles 3 Tile.dead, fmode := 0x50 } })
      .deadRead 0 = true := by decide +kernel

/-- FMODE after reset: RNE (R83). -/
def rne : FEnv := fenv 0x10

-- The tables of R436 (f32 to e2m1), R439 and R450.
theorem test_conversions : cvtElem rne .f32 .e2m1 0x402CCCCD = (5, 0x10) ∧ cvtElem rne .f32 .e2m1 0x40A00000 = (6, 0x10)
    ∧ cvtElem rne .f32 .e2m1 0x40E00000 = (7, 0x30) ∧ cvtElem rne .f32 .e2m1 0x3E4CCCCD = (0, 0x10)
    ∧ cvtElem rne .f32 .e2m1 0x3E99999A = (1, 0x18) ∧ cvtElem rne .f32 .e2m1 0xC2C80000 = (15, 0x30)
    ∧ cvtElem rne .f32 .e2m1 0x7FC00000 = (0, 1) := by decide +kernel
theorem test_quantise : got (.tdq ⟨false, 2, 11, all⟩) bt 2 = (0xC0000000, 0x3F800000, 0)
    ∧ (let v (x : Nat) : FVal := fmtF32.val false x
       let k := blockScale .mx4 [v 0x3F800000, v 0xC0600000, v 0x3E4CCCCD, v 0x40E00000]
       (k, ([0x3F800000, 0xC0600000, 0x3E4CCCCD, 0x40E00000].map fun x => quantElem .mx4 rne k.2 (v x)))
        = ((0x7F, 0), [(2, 0), (14, 0x10), (0, 0x10), (7, 0x30)]))
    ∧ got (.tcvt ⟨false, 8, 0, all⟩) bt 8 = (0x3F80, 0x4000, 0) ∧ (getTile (ran (.tqnt ⟨false, 11, 0, all⟩) bt).core 11).live = true
    ∧ predBit (ran (.tcmp ⟨false, 2, 0, 3, all, .lt⟩) bt).core 2 0 = true ∧ predBit (ran (.tcmp ⟨false, 2, 0, 3, all, .lt⟩) bt).core 2 1 = false
    ∧ got (.tsel ⟨false, 2, 0, 3, ⟨1, false⟩⟩) bt 2 = (0x40400000, 0x40000000, 0) := by decide +kernel

/-- T12 holds n32 for TSRCH. -/
def bn : Block := { bt with core := { bt.core with recs := vset bt.core.recs 7 (row .n32), bindT := vset bt.core.bindT 12 7 } }

theorem witness_search : permCheck bn 12 [0, 3] all false false (((dstRec bn.core 12).ty ≠ .n32 || !isNum (srcRec bn.core 0).ty
    || !agree (srcRec bn.core 0) (srcRec bn.core 3) || !sameExtent (dstRec bn.core 12) (srcRec bn.core 0))) = none := by decide +kernel

-- R458 to R462: moves within rows; ascending order; the first column that is not below.
theorem test_moves : got (.tsld ⟨2, 0, 7, all⟩) bt 2 = (0x40000000, 0, 0) ∧ got (.trot ⟨2, 0, 7, all⟩) bt 2 = (0x40000000, 0x3F800000, 0)
    ∧ got (.tsort ⟨2, 3, all⟩) bt 2 = (0xBF800000, 0x40400000, 0) ∧ got (.tspl ⟨false, 2, 8, all⟩) bt 2 = (0x40000000, 0x40000000, 0)
    ∧ got (.tiota ⟨false, 7, 7, all⟩) bt 7 = (1, 2, 0) ∧ got (.tsrch ⟨12, 3, 0, all⟩) bn 12 = (2, 0, 0)
    ∧ got (.cmprs ⟨2, 0, 5, ⟨1, false⟩⟩) bt 2 = (0x40000000, 0x40A00000, 0) ∧ regGet (ran (.cmprs ⟨2, 0, 5, ⟨1, false⟩⟩) bt).core false 5 = 1
    ∧ got (.expnd ⟨2, 0, ⟨1, false⟩⟩) bt 2 = (0x40A00000, 0x3F800000, 0) ∧ got (.tshf ⟨2, 0, 1, all⟩) bt 2 = (0x40000000, 0x40000000, 0)
    ∧ got (.tbcr ⟨2, 0, 7, all⟩) bt 2 = (0x3F800000, 0x40000000, 0) ∧ got (.tmov ⟨false, 2, 3, all⟩) bt 2 = (0x40400000, 0xBF800000, 0) := by
  decide +kernel

/-- The row of R456: i32 1, 2, 3, 4 with p1 = 1101 and td of nines. -/
def br : Block :=
  let four : ShapeRec := { row .i32 with gc := 4 }
  let ts := vset (vset bt.core.tiles 1 (full [(0, 1), (1, 2), (2, 3), (3, 4)])) 7 (full [(0, 9), (1, 9), (2, 9), (3, 9)])
  { bt with core := { bt.core with recs := vset bt.core.recs 1 four, preds := vset bt.core.preds 1 13, tiles := vset ts 10 (full [(0, 9)]) } }

-- The table of R456.
theorem test_reductions : (let t := getTile (ran (.tscan ⟨7, 1, ⟨1, false⟩⟩ .add) br).core 7
      (t.elem 0 0, t.elem 0 1, t.elem 0 2, t.elem 0 3) = (1, 9, 4, 8))
    ∧ (got (.tredo ⟨10, 1, ⟨1, false⟩⟩ .add) br 10).1 = 8 ∧ (got (.tredo ⟨10, 1, ⟨2, false⟩⟩ .add) br 10).1 = 9
    ∧ (got (.tred ⟨10, 1, ⟨1, false⟩⟩ .max) br 10).1 = 4 ∧ (got (.tredb ⟨10, 1, ⟨1, false⟩⟩ .min) br 10).1 = 1 := by decide +kernel

-- R402, R81: p1 has bit 1 only, in a strip of two; p0 is all ones and keeps what it is.
theorem test_predicates : predBit (ran (.pnot ⟨2, 1, all⟩) bt).core 2 0 = true ∧ predBit (ran (.pnot ⟨2, 1, all⟩) bt).core 2 1 = false
    ∧ predBit (ran (.pnot ⟨2, 1, all⟩) bt).core 2 2 = false ∧ predBit (ran (.pxor ⟨0, 1, 1, all⟩) bt).core 0 0 = true
    ∧ regGet (ran (.pcnt 5 0 all) bt).core false 5 = 2 ∧ regGet (ran (.pff 5 1 all) bt).core false 5 = 1
    ∧ regGet (ran (.pff 5 2 all) bt).core false 5 = 2 := by decide +kernel

/-- A task with a lane function `add s1, s1, s2; lret` at VA 0x100. -/
def lanes (b : Block) : State :=
  updTask (mem b [0x00, 0x88, 0x10, 0x20, 0, 0, 0, 0xB0]) 0 1 fun k => { k with fns := [⟨0x100, 2, 1⟩] }

/-- The result is a value. -/
def isOk {ε α : Type} : Except ε α → Bool
  | .ok _ => true
  | .error _ => false

theorem isOk_spec {ε α : Type} {x : Except ε α} (h : isOk x = true) : ∃ v, x = .ok v := by
  cases x with
  | ok v => exact ⟨v, rfl⟩
  | error _ => cases h

/-- Hypotheses of PredicatesAndLanes on functions. -/
theorem witness_lanes : (∃ k, taskOf (lanes bt) me bt = some (0, k) ∧ k.fns[(0 : BitVec 5).toNat]? = some ⟨0x100, 2, 1⟩
      ∧ mapCheck bt ⟨7, 1, 1, all⟩ k.fns 0 false = none ∧ mapCheck bt ⟨10, 1, 1, all⟩ k.fns 0 true = none
      ∧ (∃ ws, fetchRun (lanes bt) me bt 0x100 2 = .ok ws) ∧ k.textVa + 0x100 = 0x100) ∧ DstReady bt bt.core 7 ∧ Acts (box bt) me bt
    ∧ laneCode [0x20108800, 0xB0000000] = [.add ⟨false, 1, 1, 2⟩, .lret]
    ∧ (match runLane bt.core [.add ⟨false, 1, 1, 2⟩, .lret] 3 4 0 with
        | .done v w fl => v = 7 ∧ w = 4 ∧ fl = 0
        | _ => False) :=
  ⟨⟨_, by and_intros <;> first | rfl | decide +kernel | exact isOk_spec (by decide +kernel)⟩,
    by unfold DstReady FitsRow TidyTiles; decide +kernel, box_acts _, by decide +kernel, by and_intros <;> decide +kernel⟩

/-- The function `absacc` of R394 at VA 0x100, with T1 = (3, −5, −2^31, 7), T10 = 0 and p1 = 1011. -/
def abs4 : State :=
  let words : List Word64 := [0xB00260012040800F, 0x20108C0020100401, 0xB0000000]
  let ts := vset (vset br.core.tiles 1 (full [(0, 3), (1, 0xFFFFFFFB), (2, 0x80000000), (3, 7)])) 10 (full [])
  let b := { br with core := { br.core with tiles := ts, preds := vset br.core.preds 1 11 } }
  updTask (mem b (words.flatMap fun w => leBytes 8 w.toNat)) 0 1 fun k => { k with fns := [⟨0x100, 5, 1⟩] }

-- R55, R393: MAP adds each element to itself. The example of R394, without a predicate and with p1.
theorem test_map : ((after (.map ⟨7, 1, 1, all⟩ 0) (lanes bt)).map fun b => ((getTile b.core 7).elem 0 0, (getTile b.core 7).elem 0 1))
      = some (6, 2)
    ∧ ((after (.mapr ⟨10, 1, 1, all⟩ 0) abs4).map fun b => (getTile b.core 10).elem 0 0) = some 0x8000000F
    ∧ ((after (.mapr ⟨10, 1, 1, ⟨1, false⟩⟩ 0) abs4).map fun b => (getTile b.core 10).elem 0 0) = some 15
    ∧ trapsWith (.map ⟨7, 1, 1, all⟩ 1) (lanes bt) .illegalInstr 0 = true ∧ trapsWith .lret (box bt) .illegalInstr 0 = true := by
  decide +kernel

/-! ### Matrix arrays and adapters -/

/-- A slab of K = 2 and N = 2 with 2^−24 at k = 0, and an adapter of rank 8 with ALPHA 1: the example of R127. -/
def bx : Block := { bt with
  adtBase := 0x0800000000000000,
  core := { with2 bt 0 0x3F800000 0x3F800000 |>.core with slabs := [(2, ⟨.bf16, 2, 2, 1, [(0, 0x3380), (1, 0x3380)], [], [], false⟩)] } }
def ad : AdEntry := ⟨0, 0, 1, 2, 2, [0xA7, 0, 0, 0, 0, 0, 0x80, 0x3F] ++ List.replicate 24 0, [0x80, 0x3F] ++ List.replicate 30 0,
  [0x80, 0x33, 0x80, 0x33] ++ List.replicate 28 0⟩
def adBox (id : Nat) : Block × State :=
  let b := with2 bx 5 id 0
  (b, updPolder (box b) 0 fun x => { x with adapters := [ad], adLines := (linesNeeded ad 2 2).map fun o => ⟨0, 0, 1, o, []⟩ })

/-- Hypotheses of OuterProducts and MatrixProducts. -/
theorem witness_matrix : mapGet bt.core.slabs 2 = none ∧ mopCheck bt ⟨false, 0, 6, 4, 0⟩ 1 = none
    ∧ mopCheck bt ⟨false, 0, 3, 4, 0⟩ 1 = some .shapeMismatch
    ∧ (∃ x, mapGet bx.core.slabs 2 = some x ∧ x.marks = [] ∧ bx.mmad = none ∧ mmaCheck bx ⟨0, 4, 2, 0⟩ none = none
      ∧ mmaCheck bx ⟨0, 4, 2, 0⟩ (some 5) = none)
    ∧ (∃ g, adFields ad.entry = some g ∧ g.r = 8) ∧ rowAdapter (adBox 1).2 me (adBox 1).1 1 2 2 = .ready ad
    ∧ (tileSrc (adBox 1).1.core 5).get 0 = 1 ∧ (tileSrc bx.core 5).get 0 = 0
    ∧ FitsRow (tileSrc bx.core 0).rc ∧ TidyTiles bx.core ∧ NoDead bx.core [tileSrc bx.core 0, tileSrc bx.core 4, tileSrc bx.core 5] [0, 1] :=
  by
    unfold FitsRow TidyTiles NoDead
    have slab : ∃ x, mapGet bx.core.slabs 2 = some x ∧ x.marks = [] ∧ bx.mmad = none ∧ mmaCheck bx ⟨0, 4, 2, 0⟩ none = none
        ∧ mmaCheck bx ⟨0, 4, 2, 0⟩ (some 5) = none := ⟨_, rfl, by and_intros <;> rfl⟩
    and_intros <;> first | exact slab | rfl | decide +kernel

-- R113: one step, T0 + T6 × T4; a repeat of 17 is illegal. The example of R127, with and without the adapter.
theorem test_matrix : got (.mopa ⟨false, 0, 6, 4, 0⟩ 0) bt 0 = (0x40400000, 0x40000000, 0)
    ∧ got (.mops ⟨false, 0, 6, 4, 0⟩ 0) bt 0 = (0xBF800000, 0x40000000, 0)
    ∧ trapsWith (.mopa ⟨false, 0, 6, 4, 0⟩ 16) (box bt) .illegalInstr 0 = true
    ∧ got (.mma ⟨0, 4, 2, 0⟩) bx 0 = (0x3F800000, 0x3F800000, 0x10)
    ∧ ((after (.mmad ⟨0, 4, 2, 0⟩ 5) (adBox 1).2).map fun b => ((getTile b.core 0).elem 0 1, b.core.fstat)) = some (0x3F800000, 0x10)
    ∧ trapsWith (.mma ⟨0, 4, 3, 0⟩) (box bx) .shapeInvalid 0 = true := by decide +kernel

-- The descriptor of R400's example: the span is 3 at slab 29, and slab 30 is refused.
theorem test_slabs : (slabDesc 29 0x0000010002587F09).map (fun d => (d.ty, d.k, d.n, d.stride, d.span)) = some (.f16, 600, 128, 256, 3)
    ∧ slabDesc 30 0x0000010002587F09 = none ∧ (ran (.ofree 2) bx).core.slabs = []
    ∧ (ran (.apre 6 7 .pin) bx).pins = [] ∧ trapsWith (.adtb 7 0) (box bx) .misalign 1 = true
    ∧ (ran (.adtb 6 7) bx).adtBase = 0x0800000000000100 := by decide +kernel

/-- Hypotheses of SlabsAndAdapters: a descriptor that stages two rows of two bf16 from VA 0x100, or is misaligned. -/
theorem witness_slabs : (∃ q, slabDesc 0 0x000000040002010A = some q ∧ typeWidth q.ty / 8 = 2 ∧ 0x100 % 2 = 0 ∧ q.stride % 2 = 0
      ∧ slabRows q 0x100 = [(0x100, 4), (0x104, 4)]) ∧ SpanInHbm (mem bt [1, 2, 3, 4]) me bt 0x100 [1, 2, 3, 4]
    ∧ SpanInHbm (mem bt [1, 2, 3, 4]) me bt 0x104 [0, 0, 0, 0] ∧ bt.sbuf = [] ∧ bt.ckpt.slabs = []
    ∧ linesHeld (box bt) me (adtBaseVa bt.adtBase) (fun _ => true) = false ∧ slabDesc 0 0 = none :=
  ⟨⟨_, rfl, rfl, by decide, rfl, by decide +kernel⟩, spanIn_spec (by decide +kernel), spanIn_spec (by decide +kernel), rfl, rfl, rfl, rfl⟩

-- R253: while another block of the polder is inside an MMAD, AINV waits.
theorem witness_lines_held : linesHeld (pair bt { bt with mmad := some ⟨0, 0, 0, [], 0, 0, [], [], [], [], [1], [], ⟨[], 0, false, 0⟩⟩ }) me 0 (· == 1) = true := by decide +kernel

/-! ### Fences, engines, translations -/

/-- The state after an instruction or event, or the state itself where nothing follows. -/
def post (i : Instr) (s : State) : State :=
  match exec i s with
  | .next t => t
  | _ => s

/-- Cards of the block: 1 complete, 2 failed, 3 open; a flush of the pair that 1 names. -/
def cardRec (seq : Nat) (st : Option Nat) : CardRec := ⟨seq, st, 512, 0, 1, 2, some 1⟩
def bf (l : List CardRec) : Block := { bs with cardRecs := l, cardSeq := l.length }

/-- Hypotheses of FencesAndWatermarks and EngineQueries: nothing open, a failure, a card open; the bounds of WMWAIT. -/
theorem witness_fences : Acts (box (bf [cardRec 1 (some 0)])) me (bf [cardRec 1 (some 0)])
    ∧ (∃ s b, release (box bs) me bs = .done s b) ∧ bs.flushes = [] ∧ bs.cardRecs = []
    ∧ (∃ r ∈ (bf [cardRec 1 (some 0), cardRec 2 none]).cardRecs, r.status = none)
    ∧ (∃ r ∈ (bf [cardRec 1 (some 3)]).cardRecs, ∃ n, r.status = some n ∧ n ≠ 0)
    ∧ (∃ c t, taskOf (box bs) me bs = some (c, t) ∧ namesTask (box bs) c 1 = true ∧ namesTask (box bs) c 2 = false
        ∧ taskMark (box bs) c 1 = 0 ∧ t.ended = none ∧ t.nblocks ≤ t.placed)
    ∧ (∃ t, getTask (box bs) 0 1 = some t ∧ ({ t with placed := 0 }).placed < t.nblocks ∧ ({ t with ended := some 1 }).ended.isSome = true)
    ∧ cardsDone (bf [cardRec 1 (some 0), cardRec 2 none]) = 1 :=
  by
    and_intros
    all_goals first
      | rfl
      | exact box_acts _
      | exact ⟨_, _, rfl⟩
      | exact ⟨cardRec 2 none, by decide +kernel, rfl⟩
      | exact ⟨cardRec 1 (some 3), by decide +kernel, 3, rfl, by decide⟩
      | exact ⟨_, _, by and_intros <;> first | rfl | decide⟩
      | exact ⟨_, by and_intros <;> first | rfl | decide⟩

-- R174, R379, R469, R470; R367 on one open card.
theorem test_fences : trapsWith (.fence .sys .relaxed) (box bs) .illegalInstr 0 = true
    ∧ (ran (.fenceSt false) (bf [cardRec 1 none])).waiting = true ∧ (ran (.fenceSt false) (bf [cardRec 1 (some 0)])).covered = 1
    ∧ trapsWith (.fenceSt false) (box (bf [cardRec 1 (some 0), cardRec 2 (some 3)])) .storageError 0 = true
    ∧ (ran (.wmpub 7) bs).core.wmPend = 2 ∧ (ran (.wmwait 8 0) bs).pc = 4 ∧ (ran (.wmwait 8 7) bs).waiting = true
    ∧ trapsWith (.wmwait 9 7) (box bs) .perm 0 = true ∧ (ran (.engw 5 7) (bf [cardRec 1 (some 0), cardRec 2 none])).waiting = true
    ∧ regGet (ran (.engw 5 7) (bf [cardRec 1 (some 0), cardRec 2 (some 3)])).core true 5 = 2
    ∧ trapsWith (.engwChk 5 7) (box (bf [cardRec 1 (some 0), cardRec 2 (some 3)])) .engineFault 0 = true
    ∧ regGet (ran (.engqCard 5 8) (bf [cardRec 1 (some 0)])).core true 5 = 0x200000000
    ∧ regGet (ran (.engqCard 5 9) bs).core true 5 = 15 ∧ regGet (ran (.engqRow 5 9) bs).core true 5 = 1 := by decide +kernel

/-- A FILL card of 64 bytes at VA 0x100 with pattern 1, 2, .., 8 in T0, one row of 16 f32. -/
def be : Block :=
  let words : List Nat := [0x22, 0, 0, 0, 0x100, 0, 0x40, 0, 0x04030201, 0x08070605, 0, 0, 0, 0, 0, 0]
  let t : Tile := ⟨true, false, 1, 16, ((upTo 16).zip words).filter fun e => e.2 != 0, [], []⟩
  { bs with core := { bs.core with recs := Vector.replicate 8 ShapeRec.default, tiles := vset bs.core.tiles 0 t } }

/-- Hypotheses of EngineBatch and TranslationInvalidate. -/
theorem witness_engb : Acts (box be) me be ∧ tileOk be.grantc be.core 0 = true ∧ (srcRec be.core 0).g = 0
    ∧ 512 ≤ (srcRec be.core 0).gc * typeWidth (srcRec be.core 0).ty ∧ (upTo (srcRec be.core 0).gr).filter (predBit be.core 0) = [0]
    ∧ engbFirst (box be) me be (tileSrc be.core 0) [0] = none ∧ (srcRec bd.core 0).gc * typeWidth (srcRec bd.core 0).ty < 512
    ∧ be.status = .resident ∧ be.sbuf = [] ∧ (∀ e ∈ (getPolder (box be) 0).blocks, e.2.sbuf = []) :=
  ⟨box_acts _, by and_intros <;> decide +kernel⟩

theorem witness_engb_row : NoMarks [tileSrc be.core 0] [0] ∧ NoDead be.core [tileSrc be.core 0] [0] := by
  unfold NoMarks NoDead; decide +kernel

-- R209, R202, R213: the card is accepted as number 1, and its completion leaves the pattern, in step with the addresses.
theorem test_engb : trapsWith (.engb 0 1 5 0) (box bd) .shapeMismatch 0 = true ∧ (ran (.engb 0 1 5 0) be).engRows = [0]
    ∧ (let b := ran (.engb 0 1 5 0) be; (b.cardSeq, predBit b.core 1 0, regGet b.core true 5) = (1, true, 1))
    ∧ (let s := post (.cardComplete 0 0) (post (.cardStart 0 0) (post (.engb 0 1 5 0) (box be)))
       (memNat s.hbm 0x40104 8, memNat s.hbm 0x40140 4, (getPolder s 0).cards.length) = (0x0403020108070605, 0, 0)
        ∧ (getBlock s me).map (fun b => b.cardRecs.map CardRec.status) = some [some 0])
    ∧ trapsWith (.engb 0 1 5 0) (box { be with core := { be.core with recs := Vector.replicate 8 { ShapeRec.default with g := 1 } } })
      .shapeMismatch 0 = true := by decide +kernel

-- R152, R447: of two cached translations of the block's root, the one that maps a named page goes.
theorem test_tlbinv : (let e (va root : Nat) : TlbEntry := ⟨0, 0, root, va, 16, 0, true, true, true, 0⟩
    let s := updPolder (box bs) 0 fun x => { x with tlb := [e 0 0x10000, e 0x10000 0x10000, e 0 0x20000] }
    (getPolder (post (.tlbinv 0 8) s) 0).tlb = [e 0x10000 0x10000, e 0 0x20000]
      ∧ (getPolder (post (.tlbinv 0 0) s) 0).tlb = [e 0 0x20000]) := by decide +kernel

/-! ### Events of a block -/

/-- The block at VA 0x100. -/
def at256 (b : Block) : Block := { b with pc := 0x100 }

/-- A tile add, and words with C = 1: another add, which finds no pipe free (R58), and a tile and. -/
def addWord : List Byte := [0x00, 0x0C, 0x20, 0x80]
def joinAdd : List Byte := [0x00, 0x0C, 0x20, 0x82]
def joinAnd : List Byte := [0x00, 0x0C, 0x20, 0x8A]

/-- The words of a convoy at VA 0x100. -/
def conv (bytes : List Byte) : Option (Word32 × Option (Nat × Cause) × Bool × Nat) :=
  let b := at256 blk
  let s := mem b bytes
  match fetchAt s me b 0x100 with
  | .word w =>
    let ws := (w :: (followers s me b 0x104 4).words).map (convoyWord b)
    some (w, firstCause ws 0, convoyOk ws, ws.length)
  | _ => none

/-- A block at which an interrupt waits: IPEND, UIEN, a vector at 0x800. -/
def bi : Block := { at256 bs with uistat := 0x0007000000000001, uien := true, uivec := 0x800, shadowA := Vector.replicate 7 9 }

/-- Hypotheses of BlockEvents: a stuck block; marks that rewind, and that trap for each reason; an interrupt that is
ready, masked, or not yet at a boundary. -/
theorem witness_block_events : (∀ b, Acts (box b) me b) ∧ bs.stuck = false ∧ ({ bs with stuck := true }).stuck = true
    ∧ bs.canRewind = true ∧ bs.consumed.any (sameSource (.line 0x40000 0)) = false ∧ bs.rewinds < 4
    ∧ ({ bs with rewindable := false }).canRewind = false ∧ 4 ≤ ({ bs with rewinds := 4 }).rewinds
    ∧ ({ bs with consumed := [.line 0x40000 0] }).consumed.any (sameSource (.line 0x40000 0)) = true
    ∧ interruptReady bi = true ∧ interruptReady { bi with uien := false } = false ∧ interruptReady { bi with convoy := 1 } = false :=
  ⟨box_acts, by and_intros <;> decide +kernel⟩

/-- Further hypotheses of BlockEvents: a convoy that issues, a stray C bit, one that finds no room, one with a cause. -/
theorem witness_convoys : conv (addWord ++ joinAnd) = some (0x80200C00, none, true, 2)
    ∧ joins 0x80200C00 = false ∧ joins 0x8A200C00 = true ∧ conv joinAnd = some (0x8A200C00, none, true, 1) ∧ blk.skipC = false
    ∧ conv (addWord ++ joinAdd) = some (0x80200C00, none, false, 2)
    ∧ (conv [0x20, 0x0C, 0x20, 0x80]).map (fun x => x.2.1) = some (some (0, .illegalInstr)) := by
  and_intros <;> decide +kernel

-- R50, R57, R221, R262: the deadlock; two members, a stray C bit, a pipe too few; entry; the rewind that costs the strip.
theorem test_block_events : trapsWith .queueDeadlock (mem (at256 { bs with stuck := true }) addWord) .queueDeadlock 0 = true
    ∧ (after .convoyIssue (mem (at256 blk) (addWord ++ joinAnd))).map Block.convoy = some 2
    ∧ trapsWith .convoyIssue (mem (at256 blk) joinAnd) .convoyConflict 0 = true
    ∧ trapsWith .convoyIssue (mem (at256 blk) (addWord ++ joinAdd)) .convoyConflict 0 = true
    ∧ (let b := ran .userInterruptEntry bi
       (b.pc, b.uiret, b.uistat, regGet b.core true 6, vget 0 b.shadowA 5) = (0x800, 0x100, 0x0007000000000004, 9, -7))
    ∧ (let b := ran (.stripRewind (.line 0x40000 0)) (at256 bs)
       (b.pc, b.rewinds, b.consumed) = (bs.ckptPc, 1, [.line 0x40000 0]))
    ∧ trapsWith (.stripRewind (.line 0x40000 0x1234)) (mem (at256 { bs with rewindable := false }) addWord) .poison 0x1234 = true
    ∧ trapsWith (.sluiceDown 0x5678) (mem (at256 bs) addWord) .sluiceDown 0x5678 = true := by decide +kernel

/-! ### What arrives for a block -/

/-- The block with feeds that load next from VA 0x100, from VA 0x102, and from VA 0x10000, which is not mapped. -/
def bfd : Block :=
  let f (base : Nat) : FeedSlot := ⟨some ⟨base, [4, 1, 1, 1], [4, 0, 0, 0], 0, none, false⟩, none, true⟩
  { bd with core := { bd.core with feeds := vset (vset (vset bd.core.feeds 0 (f 0x100)) 1 (f 0x102)) 2 (f 0x10000) } }

/-- MMAD T0, T4, S2, T5 at VA 0x100, whose row 0 misses; the entry of its id stands at VA 0x20, where it does. -/
def ba (id : Nat) (entry : Bool) : Block × State :=
  let b : Block := { (adBox id).1 with pc := 0x100 }
  let s := mem b [0x15, 0x08, 0x02, 0xB8]
  (b, if entry then { s with hbm := memSetBytes s.hbm 0x40020 [0xA7, 0, 0, 0, 0, 0, 0x80, 0x3F, 0, 2, 0, 0, 0, 0, 0, 0, 0, 3] } else s)

/-- What fetching the adapter of that row gives. -/
def fetched (entry : Bool) : AdFetch :=
  fetchAdapter (ba 1 entry).2 (blockAcc (ba 1 entry).2 me (ba 1 entry).1) (ba 1 entry).1.adtBase 1 2 2 none

/-- A tile add at VA 0x100 that has just completed into T2. -/
def brc : Block := { bd with pc := 0x104, recheck := [⟨0x100, 0x80200C00, bd.core, bd.core, 0, 0, [], []⟩] }
def addT2 : State := mem brc [0x00, 0x0C, 0x20, 0x80]

/-- Hypotheses of BlockArrivals: a feed that loads, is misaligned, or faults, and none; a row that misses, fetched or
faulting; runs of T2's second element that agree with the first, with each other, or not at all. -/
theorem witness_arrivals : ((upTo 4).map fun k => feedReady bfd k) = [true, true, true, false]
    ∧ ((upTo 3).map fun k => (vget ⟨none, none, true⟩ bfd.core.feeds k).cur.map Feed.addr) = [some 0x100, some 0x102, some 0x10000]
    ∧ (recN bfd.core (vget 0 bfd.core.bindL 0)).ty = .f32
    ∧ probeAt (box bfd) (blockAcc (box bfd) me bfd) needRd 0x10000 = .error .xlate ∧ bfd.sbuf = []
    ∧ InHbm (box bfd) me bfd needRd 0x100 4 0x40100 ∧ poisonIn (box bfd) 0x40100 4 = none
    ∧ (missingRow (ba 1 true).2 me (ba 1 true).1 0).map (fun x => x.2.2.1) = some 1
    ∧ (match fetched true with | .ok _ => true | _ => false) = true ∧ (match fetched false with | .fault _ _ => true | _ => false) = true :=
  ⟨by decide +kernel, by decide +kernel, by decide +kernel, rfl, rfl, inHbm_spec (by decide +kernel), rfl, by decide +kernel,
    by decide +kernel, by decide +kernel⟩

theorem witness_recheck : brc.recheck.map Recheck.pc = [0x100] ∧ wordAt addT2 brc 0x100 = some 0x80200C00
    ∧ recheckDst (Fields.ofWord 0x80200C00) = some (.tile 2) ∧ ({ brc with rewindable := false }).canRewind = false
    ∧ firstRun brc.core (.tile 2) 1 ≠ 5 ∧ putElem brc.core (.tile 2) 1 5 ≠ brc.core ∧ brc.canRewind = true :=
  ⟨rfl, by decide +kernel, rfl, rfl, by decide +kernel, by decide +kernel, rfl⟩

-- R51, R52, R129, R259.
theorem test_arrivals : (let s := mem bfd [7, 0, 0, 0, 9]
      (after (.feedElementLoad 0) s).map (fun b => (vget ⟨[], 0⟩ b.core.lq 0).elems.map QElem.bits) = some [7]
      ∧ (after (.feedElementLoad 1) s).map (fun b => (vget ⟨none, none, true⟩ b.core.feeds 1).cur.map Feed.fault)
          = some (some (some (.misalign, 0x102))))
    ∧ (after (.adapterRowFetch 0) (ba 1 true).2).map Block.mmadRows = some 1
    ∧ ((getPolder (post (.adapterRowFetch 0) (ba 1 true).2) 0).adapters.map fun e => (e.id, e.k, e.n)) = [(1, 2, 2)]
    ∧ (after (.recheckRerun ⟨0, [⟨1, 5, 5⟩], [], none, none, none⟩) addT2).map (fun b => (getTile b.core 2).elem 0 1) = some 5
    ∧ (getPolder (post (.recheckRerun ⟨0, [⟨1, 5, 5⟩], [], none, none, none⟩) addT2) 0).rchkcnt = 1
    ∧ trapsWith (.recheckRerun ⟨0, [⟨1, 5, 6⟩], [], none, none, none⟩) addT2 .recheckMismatch 0 = true := by decide +kernel

/-! ### The scheduler and tasks -/

/-- A waiting task of the same priority beside the block's own, in a pool of four contexts. -/
def second : Task := { placedTask with handle := 2, placed := 0 }
def waiter : Cluster := { placedCluster with cid := 1, handle := 2, ctxs := [], resident := false, order := 1 }
def rivals (b : Block) : State :=
  updPolder (box b) 0 fun x =>
    { x with ctxpool := 0x100004, tasks := x.tasks ++ [(2, second)], clusters := x.clusters ++ [waiter], nextCid := 2 }

/-- A block that has been saved, with its cluster. -/
def saved (b : Block) : State :=
  updCluster (box { b with status := .preempted, place := none }) 0 0 fun c => { c with resident := false }

/-- The cluster of the acting block. -/
def own (s : State) : Option Cluster := clusterOf s 0 0

/-- Hypotheses of SchedulerEvents: a resident cluster with a rival and one without, one that is saved; a phase that every
member has arrived in, and one that none has; a placement of a new cluster, one of a saved cluster, and none. -/
theorem witness_scheduler : (own (rivals blk)).isSome = true ∧ (own (rivals blk)).map Cluster.resident = some true
    ∧ (own (saved blk)).map Cluster.resident = some false ∧ (own (box blk)).map Cluster.ctxs = some [0]
    ∧ (∃ d ∈ (getPolder (rivals blk) 0).clusters, ∃ c, own (rivals blk) = some c ∧ clusterWaits (rivals blk) 0 d = true
      ∧ clusterPrio (rivals blk) d = clusterPrio (rivals blk) c ∧ ¬ (d.creator = c.creator ∧ d.handle = c.handle))
    ∧ ((getPolder (box blk) 0).clusters.any fun d => clusterWaits (box blk) 0 d) = false
    ∧ (own (box { blk with arrMade := vset blk.arrMade 7 1 })).map (phaseReady (box { blk with arrMade := vset blk.arrMade 7 1 }) 0 · 7) = some true
    ∧ (own (box blk)).map (phaseReady (box blk) 0 · 0) = some false
    ∧ nextPlacement (rivals blk) 0 = some (second, [(0, waiter)], [(0, [])]) ∧ clusterOf (rivals blk) 0 1 = some waiter
    ∧ nextPlacement (box blk) 0 = none
    ∧ (let c := { placedCluster with resident := false }
       nextPlacement (saved blk) 0 = some (placedTask, [(0, c)], [(0, [])]) ∧ clusterOf (saved blk) 0 0 = some c)
    ∧ (getBlock (saved blk) me).map (fun d => (d.pins, ctxPoisoned (saved blk) me d)) = some ([], false) :=
  by
  have rival : ∃ d ∈ (getPolder (rivals blk) 0).clusters, ∃ c, own (rivals blk) = some c ∧ clusterWaits (rivals blk) 0 d = true
      ∧ clusterPrio (rivals blk) d = clusterPrio (rivals blk) c ∧ ¬ (d.creator = c.creator ∧ d.handle = c.handle) :=
    ⟨waiter, by decide +kernel, placedCluster, by and_intros <;> decide +kernel⟩
  and_intros
  all_goals first | exact rival | decide +kernel

-- R234, R252, R353: the block yields only to the rival; the new cluster takes context 1 and starts at its entry.
theorem test_scheduler : (after .timeSliceExpiry (rivals blk)).map (fun b => b.status) = some .preempted
    ∧ (after .timeSliceExpiry (box blk)).map (fun b => b.status) = some .resident
    ∧ ((getBlock (post (.clusterPlacement 0) (rivals blk)) ⟨0, 1⟩).map fun b => (b.status, b.pc, b.cid)) = some (.resident, 0, 1)
    ∧ (after (.clusterPlacement 0) (saved blk)).map (fun b => (b.status, b.place)) = some (.resident, some (0, 0))
    ∧ (after (.barrierPhaseComplete 7) (box { blk with arrMade := vset blk.arrMade 7 1 })).map (fun b => b.eventFlag) = some true := by
  decide +kernel

/-- The task of the block, as a packet that has started, with a completion target. -/
def ending (f : Task → Task) : State :=
  updTask (updQueue (box blk) 0 0 fun h => { h with started := [⟨0, 0, 2, 0x77, true, 0, false⟩] }) 0 1 f

def halts (k : Task) : Task := { k with halted := 1 }

/-- Hypotheses of TaskEndings: a task that runs, has halted, has ended; no target, one in HBM, one that is not mapped. -/
theorem witness_endings : (getTask (ending id) 0 1).map Task.ended = some none ∧ taskDone (ending id) 0 placedTask = false
    ∧ taskDone (ending halts) 0 (halts placedTask) = true ∧ getTask (ending halts) 0 1 = some (halts placedTask)
    ∧ placedTask.origin = .packet 0 0
    ∧ ((getQueue (ending halts) 0 0).started.find? fun y => y.sn == 0) = some ⟨0, 0, 2, 0x77, true, 0, false⟩
    ∧ taskDone (ending halts) 0 { placedTask with ended := some 0x204 } = true ∧ placedTask.ctAddr = 0 ∧ 0x100 % 8 = 0
    ∧ (let acc := cpAcc 0 0x10000 []
       probe (ending halts) acc needWr 0x10000 = .error .xlate
       ∧ ∃ x, probe (ending halts) acc needWr 0x100 = .ok x ∧ physTarget (ending halts) x.pa = .hbm 0x40100)
    ∧ polderDown (ending halts) (0x40100 / polderBytes) = false :=
  by and_intros <;> first | rfl | decide +kernel | exact ⟨_, rfl, rfl⟩

/-- The entries that wait for the completion ring of queue 0. -/
def entries (s : State) : List (List Word64) := (getQueue s 0 0).cqWaiting

-- R195, R232, R251: the block count, TASK_FAULT with TCAUSE, ACCESS_FAULT for a target without a translation.
theorem test_endings : ((entries (post (.taskComplete 0 1) (ending halts))).map fun e => (e.getD 1 0, e.getD 2 0, e.getD 3 0))
      = [(0x7700000002, 1, 0)]
    ∧ (memNat (post (.taskComplete 0 1) (ending fun k => { halts k with ctAddr := 0x100, ctVal := 0xABCD })).hbm 0x40100 8) = 0xABCD
    ∧ ((entries (post (.taskComplete 0 1) (post (.taskEnd 0 1 0x204) (ending id)))).map fun e => (e.getD 2 0, e.getD 3 0)) = [(0x204, 8)]
    ∧ (post (.taskComplete 0 1) (ending halts)).polders[0].tasks.length = 0
    ∧ ((getBlock (post (.taskEnd 0 1 0x204) (ending id)) me).map fun b => b.status) = some .ended := by decide +kernel

/-! ### The engines at work -/

/-- The machine with the FILL card of `be` accepted, and started. -/
def filling : State := post (.engb 0 1 5 0) (box be)
def filled : State := post (.cardStart 0 0) filling

/-- The first card of polder 0. -/
def card0 (s : State) : Option Card := (getPolder s 0).cards.head?

/-- A NVMe Flush of namespace 1 on pair 3, which has four slots at 0x50000 and its completion queue at 0x60000. -/
def nv (slot : Option Nat) : Card :=
  ⟨0, 0, 1, 0, 0, 5 + 0x0000000100030000 * 2 ^ 256, 0x10000, [], [], [], slot.isSome, slot, [], []⟩
def pair3 : QueuePair := ⟨0x50003, 0x60001, 0x1000, 0x1004, 0, 0, true⟩
def nvme (slot : Option Nat) (dw3 : Nat) : State :=
  let s := updPolder (box (bf [cardRec 1 none])) 0 fun x => { x with qptab := vset x.qptab 3 pair3, cards := [nv slot] }
  { s with dev := { s.dev with vfMse := true }, hbm := memSetNat s.hbm 0x6000C 4 dw3 }

/-- Hypotheses of EngineEvents on cards that are no NVMe cards: one that may start, one started; the FILL of a run in HBM;
one whose sluice is lost. -/
theorem witness_cards : Memory.wf filling.hbm = true ∧ Memory.wf filling.bus = true
    ∧ (card0 filling).map (fun c => (c.num, canStart filling 0 c, cKind c.data, c.started, c.seq)) = some (0, true, 2, false, 1)
    ∧ (card0 filled).map (fun c => (canStart filled 0 c, c.started, c.wrPa, cDst c.data, cLen c.data 3))
      = some (false, true, [⟨0x100, 0x40100, 64⟩], 0x100, 64)
    ∧ ((card0 filled).map fun c => (c.rdPa ++ c.wrPa).all fun r => !lostSluice filled 0 r.pa) = some true
    ∧ lostSluice filled 0 0x800000000 = true ∧ polderDown filled 0 = false
    ∧ ((card0 filled).map fun c => match performCard filled c with | .done _ _ _ _ => true | .need _ => false) = some true :=
  by and_intros <;> decide +kernel

/-- Hypotheses of EngineEvents on NVMe cards: one that may start; completion entries without a card, with an error, with
success, and none that is new; a dword of the table that changes, and one that does not. -/
theorem witness_nvme : canStart (nvme none 0) 0 (nv none) = true ∧ cKind (nv none).data = 5 ∧ isNvRead (nv none).data = false
    ∧ cqeNew (nvme (some 0) 0x10000) 0 3 = true ∧ cqeNew (nvme (some 0) 0) 0 3 = false
    ∧ ((getPolder (nvme (some 0) 0x10000) 0).cards.find? fun c => onPair c 3 && c.slot == some (0x10000 % 65536)) = some (nv (some 0))
    ∧ (nv (some 0)).slot ≠ some (0x10001 % 65536) ∧ 0x10000 / 131072 = 0 ∧ 0x50000 / 131072 ≠ 0
    ∧ qpWord (getQp (nvme none 0) 0 3) 3 = 0x1004 ∧ (getPolder (nvme none 0) 0).cards.length = 1 :=
  by and_intros <;> decide +kernel

-- R189, R191, R217, R219: the command (opcode 0, SGL, CID 0) with the tail doorbell; head doorbell and card status.
theorem test_nvme : (let s := post (.cardStart 0 0) (nvme none 0)
      (memNat s.hbm 0x50000 8, memNat s.bus 0x1000 4) = (0x0000000100004000, 1))
    ∧ (let s := post (.nvmeCompletion 0 3) (nvme (some 0) 0x10000)
       (memNat s.bus 0x1004 4 = 1 ∧ (getPolder s 0).cards.length = 0
        ∧ (getBlock s me).map (fun b => b.cardRecs.map CardRec.status) = some [some 0]))
    ∧ (getBlock (post (.nvmeCompletion 0 3) (nvme (some 0) 0x50000)) me).map (fun b => (b.cardRecs.map CardRec.status, b.lastErr))
        = some ([some 4], 4)
    ∧ (getBlock (post (.qptabWrite 0 3 0 0x50007) (nvme none 0)) me).map (fun b => b.cardRecs.map CardRec.status) = some [some 4]
    ∧ (getPolder (post (.qptabWrite 0 3 3 0x1004) (nvme none 0)) 0).cards.length = 1 := by decide +kernel
/-! ### Packets -/

/-- The machine with one packet in the ring of queue 0, in host memory at 0x1000; the completion ring is at 0x2000. -/
def packet (w : List Nat) : State :=
  let s := updQueue (box blk) 0 0 fun h =>
    { h with qring := 0x100C, qcq := 0x2007, qctl := h.qctl ||| 1, qroot := 0x10000, qtail := BitVec.ofNat 64 (8 * w.length) }
  let s1 := updPolder s 0 fun x => { x with code := vset x.code 0 ⟨0, 1, 0, .loaded, 0, 65536, [⟨0x100, 2, 0, []⟩], 0⟩ }
  { s1 with bus := memSetBytes [] 0x1000 (w.flatMap (leBytes 8)), hbm := memSetNat s1.hbm 0x40200 8 0x8000000000000001 }

/-- A header with CQE, SCOPE 3 and TAG 0x77, then a body. -/
def pk (ty : Nat) (body : List Nat) : List Nat := ((0x770000D000 + ty) :: body) ++ List.replicate (7 - body.length) 0

/-- A LAUNCH of the loaded kernel with a generation and the loop table at VA 0x200. -/
def launch (gen : Nat) : List Nat :=
  [0x770000D702, 0, 0x100, 0, gen * 2 ^ 48 + 0x201000000000, 0x200, 1] ++ List.replicate 57 0

/-- A machine with graph slot 0 in service, idle, busy, or with a run pending. -/
def graph (s : State) (r p : Bool) : State :=
  let run : GraphRun := { freshRun 0 0 0 0 none with begun := true }
  setSlot s 0 0 ⟨0x8000000000001000, 0, 0, if r then some run else none, if p then some run else none, 0, [], []⟩

/-- The image that the command processor starts next in queue 0. -/
def picked (s : State) : Option (Nat × List Nat) := (pickQueue s 0 (getPolder s 0).served).map fun x => (x.1, x.2.map BitVec.toNat)

def startsNext (w : List Nat) : Bool := picked (packet w) == some (0, w)

/-- The lowest offending byte of an image. -/
def badByte (w : List Nat) : Option Nat := let w := w.map (BitVec.ofNat 64); invalidByte w (packetRest w)

/-- Images of every TYPE, at which the hypotheses of PacketEvents on the queue hold. -/
def images : List (List Nat) :=
  [pk 1 [], launch 1, pk 3 [0], pk 4 [1, 0x100, 0xABCD], pk 5 [1, 0x100, 5], pk 6 [3, 0x100, 7, 0x108, 5], pk 7 [1, 0x100, 0, 1],
   pk 8 [0]]

/-- Hypotheses of PacketEvents: each TYPE at QHEAD, valid; an invalid body, a reserved TYPE, a wrong length; another queue
to serve or none. -/
theorem witness_packets : images.all startsNext = true ∧ (images.map badByte).all Option.isNone = true
    ∧ startsNext (pk 9 []) = true ∧ badByte (pk 9 []) = some 0 ∧ badByte (pk 1 [0, 0x0100]) = some 17
    ∧ badByte (pk 4 [1, 0x104]) = some 16 ∧ badByte (pk 0x101 []) = some 1
    ∧ (pickQueue (packet (pk 1 [])) 0 1).map Prod.fst = some 0 ∧ pickQueue (box blk) 0 1 = none
    ∧ (getQueue (packet (pk 1 [])) 0 0).started = [] :=
  by and_intros <;> decide +kernel

/-- What a launch comes to: the status of a refusal, or the number of blocks. -/
def launched (w : List Nat) : Option (Nat ⊕ Nat) :=
  let s := packet w
  let h := getQueue s 0 0
  match createTask s 0 ⟨w.map (BitVec.ofNat 64), 3, 0, h.root, .packet 0 0, h.lastTask⟩ h.remDone with
  | .refused st _ => some (.inl st)
  | .created _ _ n => some (.inr n)
  | .need _ => none

/-- Hypotheses of PacketEvents on launches, graph slots, targets and conditions. -/
theorem witness_packet_effects : launched (launch 1) = some (.inr 1) ∧ launched (launch 9) = some (.inl 5)
    ∧ flag (getSlot (packet (pk 3 [])) 0 0).gdesc 63 = false ∧ flag (getSlot (graph (packet (pk 3 [])) true true) 0 0).gdesc 63 = true
    ∧ (getSlot (graph (packet (pk 3 [])) true true) 0 0).running.isSome = true
    ∧ (getSlot (graph (packet (pk 3 [])) true true) 0 0).pending.isSome = true
    ∧ (getSlot (graph (packet (pk 3 [])) false false) 0 0).running = none
    ∧ (let s := packet (pk 4 [1, 0x100, 0xABCD])
       let c := queueAcc s 0 0
       probe s c needWr 0x10000 = .error .xlate ∧ probe s c needRw 0x10000 = .error .xlate
       ∧ (∃ x, probe s c needWr 0x100 = .ok x ∧ physTarget s x.pa = .hbm 0x40100)
       ∧ (∃ x, probe s c needRw 0x108 = .ok x ∧ physTarget s x.pa = .hbm 0x40108) ∧ polderDown s (0x40100 / polderBytes) = false
       ∧ waitFrom s c ((pk 7 [1, 0x100, 0, 1]).map (BitVec.ofNat 64)) 0 = .met 0 []
       ∧ waitFrom s c ((pk 7 [1, 0x100, 1, 1]).map (BitVec.ofNat 64)) 0 = .wait 0 []
       ∧ waitFrom s c ((pk 7 [1, 0x10000, 1, 1]).map (BitVec.ofNat 64)) 0 = .fail 6 0x10000 []
       ∧ ∃ bs, readMem s c 0x100 8 = .ok bs [] ∧ leNat bs = 0) :=
  by
  and_intros
  all_goals first | rfl | decide +kernel | exact ⟨_, rfl, rfl⟩

/-- DETAIL and STATUS of the entries that wait. -/
def results (s : State) : List (Word64 × Word64) := (entries s).map fun e => (e.getD 2 0, e.getD 3 0)

-- R228 to R237: entries; the stored value and sum; a halted queue; a launch in flight; GRAPH_INVALID.
theorem test_packets : (entries (post (.packetNop 0 0) (packet (pk 1 [])))) = [[0, 0x7700000001, 0, 0]]
    ∧ (results (post (.packetNop 0 0) (packet (pk 9 [])))) = [(0, 1)]
    ∧ (getQueue (post (.packetNop 0 0) (packet (pk 9 []))) 0 0).err = true
    ∧ memNat (post (.packetWrite 0 0) (packet (pk 4 [1, 0x100, 0xABCD]))).hbm 0x40100 8 = 0xABCD
    ∧ memNat (post (.packetSignal 0 0) (packet (pk 5 [1, 0x200, 5]))).hbm 0x40200 8 = 0x8000000000000006
    ∧ (results (post (.packetWriteSignal 0 0) (packet (pk 6 [3, 0x100, 7, 0x10000, 5])))) = [(0x10000, 6)]
    ∧ (getTask (post (.packetLaunch 0 0) (packet (launch 1))) 0 2).map (fun k => (k.entry, k.prio, k.nblocks)) = some (0x100, 2, 1)
    ∧ (results (post (.packetLaunch 0 0) (packet (launch 9)))) = [(0, 5)]
    ∧ (results (post (.packetGraphRun 0 0) (packet (pk 3 [])))) = [(0, 9)] := by decide +kernel

theorem test_waits : (getQueue (post (.packetWait 0 0) (packet (pk 7 [1, 0x100, 1, 1]))) 0 0).waitIx.isSome = true
    ∧ (results (post (.packetWait 0 0) (packet (pk 7 [1, 0x100, 0, 1])))) = [(0, 0)]
    ∧ (let s := post (.packetWait 0 0) (packet (pk 7 [1, 0x100, 1, 1]))
       results (post (.waitConditionMet 0 0) { s with hbm := memSetNat s.hbm 0x40100 8 1 }) = [(1, 0)])
    ∧ (results (post (.packetFence 0 0) (packet (pk 8 [0])))) = [(0, 0)] := by decide +kernel

/-! ### Queue registers -/

/-- Queue 0 with an entry that waits and an unannounced one, in its ring or with the ring full, in service and in error. -/
def ringing (full en err : Bool) : State :=
  updQueue (box blk) 0 0 fun h =>
    { h with qcq := 0x2007, qctl := (if en then 1 else 0) ||| (if err then 8 else 0) ||| 0x0020000000000004, qring := 0x100C,
             cqWaiting := [[1, 2, 3, 4]], unannounced := 1, cqIndex := if full then 127 else 0, skip := 64 }

/-- Hypotheses of QueueRegisters: an entry that waits, with and without room; IEN with an interval and an entry; EN and ERR
set and clear; a virtual function whose BAR0 holds the queue. -/
theorem witness_queue_registers : (let h (a b c : Bool) : HostQueue := getQueue (ringing a b c) 0 0
      (h true true false).cqFull = true ∧ (h false true false).cqFull = false ∧ (h false true false).cqWaiting = [[1, 2, 3, 4]]
      ∧ (h false true false).ien = true ∧ fld (h false true false).qctl 63 48 ≠ 0 ∧ (h false true false).unannounced ≠ 0
      ∧ (h false true false).en = true ∧ (h false false false).en = false ∧ (h false true true).err = true
      ∧ (h false true false).err = false)
    ∧ (let h := getQueue (box blk) 0 0; h.ien = false ∧ fld h.qctl 63 48 = 0 ∧ h.unannounced = 0)
    ∧ vfPolder (0 : BitVec 7).toNat = 0 ∧ vfPolder (127 : BitVec 7).toNat = 15 ∧ (127 : BitVec 7).toNat % 8 = 63 / 8 := by
  and_intros <;> decide +kernel

-- R226, R237: the entry with P = 1; QTAIL keeps bits 23 to 6; QRING waits for EN = 0; ERR takes QHEAD over the packet.
theorem test_queue_registers : memNat (post (.completionEntryWrite 0 0) (ringing false true false)).bus 0x2018 8 = 0x8000000000000004
    ∧ memNat (post (.completionEntryWrite 0 0) (ringing true true false)).bus 0x2018 8 = 0
    ∧ (getQueue (post (.qtailDoorbell 0 0 0xFFFFFFFFFFFFFFFF) (box blk)) 0 0).qtail = 0xFFFFC0
    ∧ (getQueue (post (.qringWrite 0 0 0xFFFFFFFFFFFFFFFF) (ringing false true false)) 0 0).qring = 0x100C
    ∧ (getQueue (post (.registerWrite (.vf 0) .bar0 0x1000 0xFFFFFFFFFFFFFFFF) (ringing false false false)) 0 0).qring = 0xFFFFFFFFFFFFF01F
    ∧ (getQueue (post (.qctlErrClear 0 0) (ringing false true true)) 0 0).qhead = 64 := by decide +kernel

/-! ### Graphs and code -/

/-- Scheduler memory with two NOP nodes that name no successors, and slot 0 in service with some of them. -/
def nodes (cnt : Nat) (run pending : Bool) : State :=
  let r : GraphRun := { freshRun 0 0 0 0 none with begun := true, number := 1 }
  let s := setSlot (box blk) 0 0
    ⟨BitVec.ofNat 64 (0x8000000000000000 + cnt * 4096), 0, 0, if run then some r else none, if pending then some r else none, 1, [], []⟩
  updPolder s 0 fun x => { x with sched := memSetNat (memSetNat [] 0 8 0xC001) 512 8 0xC001 }

/-- Code slots all free, all taken, or with slot 5 being unloaded. -/
def slots (c : CodeSlot) : State := updPolder (packet (pk 1 [])) 0 fun x => { x with code := Vector.replicate 64 c, tasks := [] }

/-- A code object of one kernel at VA 0: header, kernel entry at 64, loop table at 128. -/
def object (s : State) : State :=
  let h : List Nat := [0x0000000152594731, 1, 65536, 4, 0, 0, 64, 0, 0, 128]
  { s with hbm := memSetBytes s.hbm 0x40000 (h.flatMap (leBytes 8)) }

/-- What reading an object at VA 0 comes to: the status of a failure, or 0. -/
def objectStatus (s : State) : Option Nat :=
  match readObject s (cpAcc 0 (getQueue s 0 0).root (getQueue s 0 0).remDone) 0 with
  | .error (.status n) => some n
  | .error (.need _) => none
  | .ok _ => some 0

/-- Hypotheses of GraphsAndCode on graphs: valid nodes and none; a polder that places and one that does not; idle, busy and
pending; a ready NOP node that leaves another to run, and the last one. -/
theorem witness_graphs : graphFault (nodes 1 false false) 0 (getSlot (nodes 1 false false) 0 0) = none
    ∧ graphFault (nodes 3 false false) 0 (getSlot (nodes 3 false false) 0 0) = some 2 ∧ placing (nodes 1 true false) 0 = true
    ∧ placing (updPolder (box blk) 0 fun x => { x with pctl := 0 }) 0 = false
    ∧ (getSlot (nodes 1 false false) 0 0).running = none ∧ (getSlot (nodes 1 true false) 0 0).running.isSome = true
    ∧ (getSlot (nodes 1 true false) 0 0).pending = none ∧ (getSlot (nodes 1 true true) 0 0).pending.isSome = true
    ∧ flag (getSlot (nodes 1 true true) 0 0).gdesc 63 = true ∧ flag (getSlot (box blk) 0 0).gdesc 63 = false := by
  and_intros <;> decide +kernel

theorem witness_nodes (k : Nat) (hk : k = 1 ∨ k = 2) : ∃ r, (getSlot (nodes k true false) 0 0).running = some r ∧ r.begun = true
    ∧ r.fault = none ∧ r.ctAddr = 0 ∧ r.origin = none ∧ (0 : BitVec 12).toNat ∈ readyNodes (slotImgs (nodes k true false) 0 (getSlot (nodes k true false) 0 0)) r
    ∧ pktType ((slotImgs (nodes k true false) 0 (getSlot (nodes k true false) 0 0)).getD 0 []) = 1
    ∧ flag (dw ((slotImgs (nodes k true false) 0 (getSlot (nodes k true false) 0 0)).getD 0 []) 60) 15 = false
    ∧ decide (setBit r.done 0 true = 2 ^ (getSlot (nodes k true false) 0 0).cnt - 1) = decide (k = 1)
    ∧ setBit r.started 0 true = setBit r.done 0 true ||| r.failed := by
  obtain rfl | rfl := hk
  all_goals exact ⟨_, rfl, by and_intros <;> decide +kernel⟩

/-- Hypotheses of GraphsAndCode on code: an object that loads and one that does not; free slots and none; a slot that holds
the generation, one that can become free. -/
theorem witness_code : objectStatus (object (slots CodeSlot.init)) = some 0 ∧ objectStatus (slots CodeSlot.init) = some 2
    ∧ ((getPolder (slots ⟨0, 1, 0, .loaded, 0, 4, [], 0⟩) 0).code.toList.all fun c => decide (c.st ≠ .free)) = true
    ∧ ((getPolder (slots CodeSlot.init) 0).code[0]).st = .free
    ∧ ((getPolder (slots ⟨0, 7, 0, .loaded, 0, 4, [], 0⟩) 0).code[0]).gen = fld 7 15 0
    ∧ (let x := getPolder (slots ⟨0, 7, 8, .unloading, 0, 4, [], 0⟩) 0
       let c := vget CodeSlot.init x.code 63
       c.st = .unloading ∧ slotBusy x 63 c = false) := by
  and_intros <;> decide +kernel

-- R240, R241, R314, R317: the rejected graph; a run's entry with its number; FULL, FORMAT, NOT_LOADED; a slot taken and freed.
theorem test_graphs_code : (let s := post (.graphValidate 0 0 0x8000000000003000) (nodes 1 false false)
      (results s = [(2, 9)] ∧ (getSlot s 0 0).gdesc = 0x3000))
    ∧ (entries (post (.graphNodeStart 0 0 0) (nodes 1 true false))) = [[1, 3, 0, 0]]
    ∧ (results (post (.gtrig 0 0) (nodes 1 true true))) = [(0, 10)]
    ∧ ((getSlot (post (.gtrig 0 0) (nodes 1 true false)) 0 0).pending.map GraphRun.number) = some 2
    ∧ (getPolder (post (.codeLoad 0 0) (object (slots CodeSlot.init))) 0).coderes = 0x0002000000000000
    ∧ (getPolder (post (.codeLoad 0 0) (object (slots ⟨0, 1, 0, .loaded, 0, 4, [], 0⟩))) 0).coderes = 1
    ∧ (getPolder (post (.codeLoad 0 0) (slots CodeSlot.init)) 0).coderes = 2
    ∧ (getPolder (post (.codeUnload 0 9) (slots CodeSlot.init)) 0).coderes = 5
    ∧ ((getPolder (post (.codeUnload 0 7) (slots ⟨0, 7, 0, .loaded, 0, 4, [], 0⟩)) 0).code[0]).st = .unloading
    ∧ ((getPolder (post (.codeSlotFree 0 63) (slots ⟨0, 7, 8, .unloading, 0, 4, [], 0⟩)) 0).code[63]).st = .free := by decide +kernel

/-! ### Resolutions -/

/-- The block as a trap has left it, with a resume point, and its record in a fault queue with or without room. -/
def trapped (r : Resume) (en : Bool) : State :=
  let b := { at256 bs with status := .suspended, resume := r, place := none, tcause := 0x204, ckptPc := 0x80 }
  let s := updCluster (box b) 0 0 fun c => { c with resident := false, suspended := true }
  updPolder s 0 fun x => { x with fq := ⟨0x3006, 0, if en then 1 else 0, 0, true, [[1, 2, 3, 4, 5, 6, 7, 8]]⟩ }

/-- Hypotheses of FaultResolutions: a record that waits, with and without room; EN set and clear; each resume point; a block
that is not suspended, and none. -/
theorem witness_resolutions : (getPolder (trapped .at true) 0).fq.ready = true ∧ (getPolder (trapped .at false) 0).fq.ready = false
    ∧ (getPolder (trapped .at true) 0).fq.waiting = [[1, 2, 3, 4, 5, 6, 7, 8]] ∧ flag (getPolder (trapped .at true) 0).fq.fqctl 0 = true
    ∧ flag (getPolder (trapped .at false) 0).fq.fqctl 0 = false
    ∧ ([Resume.at, .after, .strip, .none].map fun r => (getBlock (trapped r true) me).map fun b => (b.status, b.resume))
        = ([Resume.at, .after, .strip, .none].map fun r => some (BlkStatus.suspended, r))
    ∧ (getBlock (box bs) me).map (fun b => b.status) = some .resident ∧ getBlock (box bs) ⟨0, 9⟩ = none
    ∧ (clusterOf (trapped .at true) 0 0).map Cluster.ctxs = some [0]
    ∧ (getTask (trapped .at true) 0 1).map Task.ended = some none := by
  and_intros <;> decide +kernel

-- R244, R248, R250, R251: where each resolution goes on; the record with P = 1; the task that a KILL ends; ERR.
theorem test_resolutions : (let go (i : Instr) (r : Resume) : Option (Nat × BlkStatus) :=
        (getBlock (post i (trapped r true)) me).map fun b => (b.pc, b.status)
      go (.fqresResume 0 0) .at = some (0x100, .preempted) ∧ go (.fqresResume 0 0) .after = some (0x104, .preempted)
      ∧ go (.fqresResume 0 0) .strip = some (0x80, .preempted) ∧ go (.fqresSkip 0 0) .at = some (0x104, .preempted)
      ∧ go (.fqresSkip 0 0) .after = some (0x100, .suspended) ∧ go (.fqresResume 0 0) .none = some (0x100, .suspended))
    ∧ (clusterOf (post (.fqresResume 0 0) (trapped .at true)) 0 0).map Cluster.suspended = some false
    ∧ (getTask (post (.fqresKill 0 0) (trapped .at true)) 0 1).map Task.ended = some (some 0x204)
    ∧ (getPolder (post (.fqresKill 0 9) (trapped .at true)) 0).fq.fqctl = 9
    ∧ memNat (post (.faultRecordWrite 0) (trapped .at true)).bus 0x3038 8 = 0x8000000000000008
    ∧ (getPolder (post (.fqringWrite 0 0x4FFF) (trapped .at false)) 0).fq.fqring = 0x401F := by decide +kernel
/-! ### Polders -/

/-- A reset in progress, with scrub or not, and a new PCTL. -/
def resetting (j : ResetJob) : State :=
  let s := updPolder (box blk) 0 fun x => { x with st := .resetting, resetJob := some j, blocks := [], tasks := [], clusters := [] }
  { s with hbm := [(5, 7), (0x800000000, 9)] }

/-- Hypotheses of PolderResets: a polder that is down, one that is up, a reset in progress; values of PCTL that keep R264
and break it, while EN = 1 and while EN = 0. -/
theorem witness_resets : Memory.wf (box blk).hbm = true ∧ (getPolder (box blk) 0).resetJob = none ∧ polderDown (box blk) 0 = false
    ∧ (getPolder State.reset 15).resetJob = none ∧ polderDown State.reset 15 = true
    ∧ (getPolder (resetting ⟨true, .full, none⟩) 0).resetJob = some ⟨true, .full, none⟩ ∧ Memory.wf (resetting ⟨true, .full, none⟩).hbm = true
    ∧ pctlLegal 0 0x8000000000001000 = true ∧ pctlLegal 0 0x8000000000000300 = false ∧ pctlLegal 2 0x8000000000000200 = false
    ∧ pctlLegal 15 0x80000000000E0200 = true
    ∧ flag (getPolder (box blk) 0).pctl 63 = true ∧ (getPolder (box blk) 0).pctl ≠ 0x8000000000001000
    ∧ flag (getPolder State.reset 0).pctl 63 = false ∧ (getPolder State.reset 0).pctl ≠ 0x8000000000001000 := by
  and_intros <;> decide +kernel

-- R266, R271: the polder stops with its STATE at 4 (resetting); SCRUB clears its own HBM alone; a size of 3 is ignored.
theorem test_resets : (let x := getPolder (post (.presetKeep 0) (box blk)) 0
      (x.st, x.blocks.length, x.tasks.length) = (.resetting, 0, 0))
    ∧ (getPolder (post (.presetScrub 0) (resetting ⟨true, .full, none⟩)) 0).st = .full
    ∧ (post (.presetScrub 0) (resetting ⟨true, .full, none⟩)).hbm = [(0x800000000, 9)]
    ∧ (post (.presetKeep 0) (resetting ⟨false, .full, none⟩)).hbm = [(5, 7), (0x800000000, 9)]
    ∧ (getPolder (post (.pctlWrite 0 0x8000000000000300) State.reset) 0).pctl = 0
    ∧ (getPolder (post (.pctlWrite 0 0xFFFFFFFFFFF0E1FF) State.reset) 0).pctl = 0x8000000000000110 := by decide +kernel

/-- Polder 0 asks for 64 KiB of polder 1's HBM, which has granted them; the sluice is open where `o`. -/
def sluiced (o : Bool) : State :=
  let s := updPolder (box blk) 0 fun x =>
    { x with slreq := vset x.slreq 7 (0x8000000800000001, 1), slOpen := if o then 128 else 0 }
  updPolder s 1 fun x =>
    { x with st := .full, pctl := 0x8000000000010100, slgrant := vset x.slgrant 0 (0x8000000800000000, 1) }

/-- Hypotheses of SluiceEntries: a request that matches, an open one that stops matching. -/
theorem witness_sluices : sluiceMatches (sluiced false) 0 (0x8000000800000001, 1) = true
    ∧ bit (getPolder (sluiced true) 0).slOpen 7 = true ∧ sluiceMatches (sluiced true) 0 (0x8000000800000001, 2) = false
    ∧ sluiceMatches (sluiced true) 0 (1, 1) = false := by decide +kernel

-- R267, R268: the request opens with its V; a longer window than the grant closes it, and the old one stays pending.
theorem test_sluices : (getPolder (post (.sluiceEntryWrite 0 false 7 false 0x8000000800000001) (sluiced false)) 0).slOpen = 128
    ∧ (let x := getPolder (post (.sluiceEntryWrite 0 false 7 true 2) (sluiced true)) 0
       (x.slOpen, x.closing) = (0, [⟨7, 0x800000000, 0x10000⟩]))
    ∧ (getPolder (post (.sluiceCloseComplete 0 7) (post (.sluiceEntryWrite 0 false 7 true 2) (sluiced true))) 0).closing = []
    ∧ (vget (0, 0) (getPolder (post (.sluiceEntryWrite 1 true 0 true 0xFFFFFFFFFFFFFFFF) (sluiced true)) 1).slgrant 0).2 = 0xFFFFFFFF := by
  decide +kernel

/-! ### Voted control -/

/-- The scheduler's machine resyncs its copy 2, with a NOP, a LAUNCH and a hand-over under way. -/
def voting (v : Bool) (ho : Nat) : State :=
  let s := updPolder (box blk) 0 fun x =>
    { x with votes := if v then vset x.votes 1 (some 2) else x.votes, hostate := ho, pendingImage := some (3, List.replicate 32 1) }
  let s1 := updQueue s 0 63 fun h => { h with started := [⟨0, 0, 7, 0x77, true, 0, false⟩, ⟨1, 0, 2, 0x78, true, 0, false⟩] }
  { s1 with dev := { s1.dev with staged := some ⟨3, [1], [2], []⟩ } }

/-- Hypotheses of VotedControl: full vote, a machine that resyncs; a hand-over that can switch and one that cannot; a
staged image and none; started packets of each sort. -/
theorem witness_votes : (∀ m : Fin 3, vget none (getPolder (voting false 2) 0).votes m = none)
    ∧ (vget none (getPolder (voting true 2) 0).votes 1).isSome = true ∧ (getPolder (voting false 2) 0).hostate = 2
    ∧ (getPolder (voting false 2) 0).pendingImage = some (3, List.replicate 32 1) ∧ (getPolder (box blk) 0).pendingImage = none
    ∧ (voting false 2).dev.staged = some ⟨3, [1], [2], []⟩ ∧ (box blk).dev.staged = none
    ∧ (getQueue (voting true 2) 0 63).started.map Started.ty = [7, 2] := by decide +kernel

-- R274 to R276, R283: a first dissent resyncs, a second is a machine check, which ends the WAIT with CONTROL_CHECK alone.
theorem test_votes : (let x := getPolder (post (.voteDissent 0 .scheduler 2) (voting false 2)) 0
      (x.dsched, vget none x.votes 1, x.mchk) = (1, some 2, 0))
    ∧ (let s := post (.voteDissent 0 .scheduler 1) (voting true 2)
       ((getPolder s 0).mchk, (getPolder s 0).dsched, (getPolder s 0).hostate) = (1, 1, 4)
        ∧ (getQueue s 0 63).started.map Started.ty = [2]
        ∧ ((getQueue s 0 63).cqWaiting.map fun e => (e.getD 1 0, e.getD 3 0)) = [(0x7700000007, 0x0B)])
    ∧ (getPolder (post (.resyncComplete 0 .scheduler) (voting true 2)) 0).rsched = 1
    ∧ (let x := getPolder (post (.handoverSwitch 0) (voting false 2)) 0; (x.hostate, x.svn, x.records.length) = (3, 3, 1))
    ∧ (getPolder (post (.handoverSwitch 0) (voting true 2)) 0).hostate = 2 := by decide +kernel

/-! ### The device -/

/-- Polder 15 at reduced rate after a bring-up whose stack trains in full at 10 Gb/s. -/
def booted : State :=
  let s := updPolder (box blk) 15 fun x => { x with st := .reduced }
  { s with dev := { s.dev with step := 5, stackFinal := Vector.replicate 8 100, vfMse := true, linkUp := true } }

/-- Hypotheses of DeviceEvents: an empty journal; a polder at reduced rate and at full rate; BAR4 windows, served, out of
range, of a polder that is down; a module at its last spare lane; an index of the signing key that is left, and the last. -/
theorem witness_device : State.reset.dev.journal = [] ∧ (getPolder booted 15).st = .reduced ∧ 5 ≤ booted.dev.step
    ∧ (getPolder booted 0).st = .full ∧ (getPolder booted 15).clock = 1800 ∧ booted.dev.pcieUp = true
    ∧ gatesOpen booted 0x7800000000 0x800000000 = true ∧ gatesOpen booted 0x800000000 1 = false
    ∧ booted.dev.vfMse = true ∧ vfPolder 127 = 15 ∧ polderDown booted 15 = false ∧ polderDown booted (vfPolder 8) = true
    ∧ 0x7FFFFFFFF + 1 ≤ polderBytes ∧ polderBytes < 0x800000000 + 1 ∧ State.reset.dev.vfMse = false
    ∧ (getModule booted 39).out = false ∧ (getModule booted 39).paused = false ∧ 0 + 4 ≤ 4 ∧ 4 < 0 + 5
    ∧ booted.dev.keyIndex < 2 ^ 40 ∧ (getPolder booted 15).st ≠ .off := by
  and_intros <;> first | rfl | decide +kernel

-- R18, R32, R147, R273, R277, R285: rates; a step and a stall; the marked line; the polders of a half; spare lanes.
theorem test_device : (let s := post (.fullRateTransition 15) booted
      ((getPolder s 15).st, (getPolder s 15).clock, (getPolder s 15).hbmLow, vget 0 s.dev.stackRate 7) = (.full, 3600, true, 100))
    ∧ (getPolder (post (.railLimit 15 .stall) booted) 15).stalled = true
    ∧ (getPolder (post (.railLimit 0 .lower) (updPolder booted 0 fun x => { x with clock := 3600 })) 0).clock = 3500
    ∧ (post (.uncorrectableError (.line 0x4017F false)) booted).poison = [(0x802, (0, false))]
    ∧ (getPolder (post (.failure (.fabric true)) booted) 15).st = .dead ∧ (getPolder (post (.failure (.fabric true)) booted) 0).st = .full
    ∧ (let x := getModule (post (.dieLinkRepair 39 4 0) booted) 39; (x.spares0, x.half, x.paused) = (4, false, true))
    ∧ (getModule (post (.dieLinkRepair 39 0 5) booted) 39).half = true
    ∧ (post (.inboundPcieAccess (.vf 0) 0x40100 (.write [7])) booted).hbm.contains (0x40100, 7) = true
    ∧ (post (.inboundPcieAccess (.vf 8) 0 (.read 4)) booted).dev.out = [.pcieUr (.vf 8)]
    ∧ (post (.inboundPcieAccess .pf0 0x40000 (.read 4)) booted).dev.out = [.pcieRead .pf0 [9, 0, 0, 4] false] := by decide +kernel

/-! ### The causeways -/

/-- A device of domain 5 with port 11 up; `f` changes the port. -/
def cw (f : Port → Port) : State :=
  let s := setPort (box blk) 11 (f { Port.init with up := true })
  { s with dev := { s.dev with domnum := 0x8000000000000005, linkUp := true } }

/-- The flits of a partner: credits with an acknowledgement, a message flit without messages. -/
def creditFlit : List Byte := flitBytes 0 9 3 2 3 []
def emptyFlit (seq : Nat) : List Byte := flitBytes seq 4095 1 0 0 []

set_option maxRecDepth 100000 in
/-- Hypotheses of CausewayEvents on ports: down, up, paused, at 64 replays; flits that fail and pass the check. -/
theorem witness_ports : (getPort (cw id) 11).up = true ∧ (getPort (cw id) 11).paused = false ∧ (getPort (box blk) 11).up = false
    ∧ 64 ≤ (getPort (cw fun x => { x with replays := 64 }) 11).replays ∧ (getPort (cw fun x => { x with paused := true }) 11).paused = true
    ∧ (getPort (cw id) 11).outReq = [] ∧ (getPort (cw id) 11).outRsp = []
    ∧ creditFlit.length = 256 ∧ leNat (creditFlit.drop 248) = crc64nvme (creditFlit.take 248)
    ∧ field (leNat (creditFlit.take 8)) 39 36 = 3 ∧ leNat ((List.replicate 256 (1 : Byte)).drop 248) ≠ crc64nvme (List.replicate 248 1)
    ∧ field (leNat ((emptyFlit 0).take 8)) 39 36 = 1 ∧ leNat ((emptyFlit 0).drop 248) = crc64nvme ((emptyFlit 0).take 248)
    ∧ field (leNat ((emptyFlit 0).take 8)) 63 52 = (getPort (cw id) 11).expSeq
    ∧ field (leNat ((emptyFlit 1).take 8)) 63 52 ≠ (getPort (cw id) 11).expSeq := by
  and_intros <;> decide +kernel

/-- A request from domain 4 for 4 bytes at 0x40000, admitted by a window of polder 0 or not; a response for tag 7. -/
def asked (opc afn : Nat) (win : Bool) : State :=
  let s := if win then updPolder (cw id) 0 fun x => { x with dwin := vset x.dwin 0 (0x40003, 0x0000100000040000) } else cw id
  { s with dev := { s.dev with arrivedReq := [⟨11, BitVec.ofNat 64 (cwHead0 0x40000 5 4), BitVec.ofNat 64 (cwHead1 7 0 opc 0 afn false 3),
                                                [[1, 2, 3, 4] ++ List.replicate 12 0]⟩] } }
def answered (known : Bool) : State :=
  let s := cw id
  { s with dev := { s.dev with outstanding := if known then [⟨0, 7, .block 0 0, 4, 0x100, .read 4⟩] else [],
                               arrivedRsp := [⟨11, BitVec.ofNat 64 (cwHead0 0x100 5 4), BitVec.ofNat 64 (cwHead1 7 0 9 0 0 false 3),
                                                [[1, 2, 3, 4] ++ List.replicate 12 0]⟩] } }

/-- The request that has arrived. -/
def askedHead (s : State) : Option (Nat × Nat × Nat × Nat) :=
  s.dev.arrivedReq.head?.map fun c => (c.head.opc, c.head.afn, c.head.addr, targetStatus s c.port c.head.sdom c.head.addr 4 (c.head.opc != 1))

/-- Hypotheses of CausewayEvents on messages: each operation, refused and admitted; a function code that R25 does not list;
a response that a block waits for, one that nobody does; a request that times out. -/
theorem witness_messages : (upTo 4).map (fun k => askedHead (asked k 0 true)) = (upTo 4).map (fun k => some (k, 0, 0x40000, 0))
    ∧ askedHead (asked 2 0 false) = some (2, 0, 0x40000, 1) ∧ askedHead (asked 3 11 true) = some (3, 11, 0x40000, 0)
    ∧ poisonIn (asked 3 9 true) 0x40000 4 = none ∧ askedHead (asked 3 9 true) = some (3, 9, 0x40000, 0)
    ∧ findOut (answered true) 0 7 = some ⟨0, 7, .block 0 0, 4, 0x100, .read 4⟩ ∧ findOut (answered false) 0 7 = none
    ∧ (answered true).dev.arrivedRsp.map (fun c => (c.head.spol, c.head.tag)) = [(0, 7)] ∧ (getBlock (answered true) me).isSome = true
    ∧ (cw id).dev.arrivedReq = [] ∧ (cw id).dev.arrivedRsp = [] := by
  and_intros <;> decide +kernel

set_option maxRecDepth 100000 in
-- R23, R24, R27, R29: credits counted; the next flit expected, a gap replayed; the add at its home; results of a block.
theorem test_causeways : (let x := getPort (post (.causewayFlitReceive 11 creditFlit) (cw id)) 11; (x.creditQ, x.creditS, x.ackIn) = (2, 3, 9))
    ∧ (getPort (post (.causewayFlitReceive 11 (emptyFlit 0)) (cw id)) 11).expSeq = 1
    ∧ (let x := getPort (post (.causewayFlitReceive 11 (emptyFlit 1)) (cw id)) 11; (x.expSeq, x.replays, x.sent.length) = (0, 1, 1))
    ∧ memNat (post .causewayRequest (asked 3 0 true)).hbm 0x40000 4 = 0x04000009 + 0x04030201
    ∧ memNat (post .causewayRequest (asked 2 0 false)).hbm 0x40000 4 = 0x04000009
    ∧ (getBlock (post .causewayResponse (answered true)) me).map (fun b => b.remDone.map fun r => (r.status, r.data)) = some [(0, [1, 2, 3, 4])]
    ∧ (getBlock (post (.causewayTimeout 0 7) (answered true)) me).map (fun b => b.remDone.map RemResult.status) = some [5] := by decide +kernel

/-- A rank-2 bf16 descriptor, row-major, at 0x1000: extents 8 × 4, origin (16, 100), rows 64 bytes apart; `e0` its first
extent. -/
def localBytes (e0 : Nat) : List Byte :=
  leBytes 8 0x1000 ++ leBytes 8 (256 + 0x0A) ++ leBytes 4 e0 ++ leBytes 4 4 ++ leBytes 8 0 ++ leBytes 6 16 ++ leBytes 6 100
    ++ leBytes 12 (2 ^ 90) ++ leBytes 8 64

-- R162, R163: dimensions outside the rank are ignored; element (3, 2) is global (19, 102) at 0x1000 + 2 × 64 + 6.
theorem test_local_descriptor : (let l := readLocalDesc (localBytes 8)
    l.valid = true ∧ l.globalIndex [3, 2, 0, 0] = [19, 102, 0, 0] ∧ l.bitAddress .bf16 [3, 2, 0, 0] = 8 * 0x1086)
    ∧ (readLocalDesc (localBytes 0)).valid = false := by decide +kernel

/-! ### Further hypotheses -/

/-- The block in a strip whose grant is 0 × 0, over records that keep both extents. -/
def bz : Block := { bd with core := { bd.core with gr := 0, gc := 0 } }

/-- Hypotheses about an empty strip in DeadAndZeroTiles, TileLoads, TileStores, TileElements and OuterProducts. -/
theorem witness_empty_strip : ActsFree (box bz) me bz ∧ bz.core.gr = 0 ∧ bd.core.gr ≠ 0 ∧ tileOk bz.grantc bz.core 0 = true
    ∧ queueMemCheck (queueRec bz.core false 1) ⟨1, 6, 0, 0⟩ = none ∧ queueMemCheck (queueRec bz.core true 0) ⟨0, 6, 0, 0⟩ = none
    ∧ bufBytes bz.sbuf + 9 * 2 ≤ 262144 ∧ bz.unstarted
    ∧ (let e : Block := { bt with core := { bt.core with gr := 0, gc := 0 } }
       mopCheck e ⟨false, 0, 6, 4, 0⟩ 1 = none ∧ tcmpCheck e ⟨false, 1, 28, 0, all, .lt⟩ = none) := by
  refine ⟨⟨box_acts _, rfl⟩, ?_⟩
  unfold Block.unstarted
  and_intros <;> decide +kernel

-- R74: a strip whose grant is 0 × 0 changes no tile, pops nothing and pushes nothing.
theorem test_empty_strip : (ran (.tzero 0) bz).core.tiles = bz.core.tiles ∧ (ran (.tzero 0) bz).pc = 4
    ∧ (ran (.stq ⟨0, 6, 0, 0⟩) bz).pc = 4 ∧ (ran (.ldq ⟨1, 6, 0, 0⟩) bz).core.lq = bz.core.lq := by decide +kernel

/-- A load queue that has room for one of two rows, or for none. -/
def bl (n : Nat) : Block := { bq2 with core := { bq2.core with lq := vset bq2.core.lq 1 ⟨List.replicate n ⟨1, none⟩, 0⟩ } }

/-- Hypotheses of TileLoads on a queue that fills up. -/
theorem witness_ldq_rows : (let h := queueRec (bl 14).core false 1; (h.gc, recRows h, recElems h)) = (2, 2, 4)
    ∧ queueMemCheck (queueRec (bl 14).core false 1) ⟨1, 6, 0, 0⟩ = none ∧ (bl 14).prog = [] ∧ (bl 14).room = false
    ∧ (∀ e ∈ [0, 1, 2, 3].map (runEl (queueRec (bl 14).core false 1) 0x100 4),
        ElemInHbm (box (bl 14)) me (bl 14) needRd e (0x40100 + 4 * e.ix)) := by
  refine ⟨by decide +kernel, by decide +kernel, rfl, rfl, ?_⟩
  have h : ([0, 1, 2, 3].map (runEl (queueRec (bl 14).core false 1) 0x100 4)).all
      fun e => elemIn (box (bl 14)) (bl 14) needRd e (0x40100 + 4 * e.ix) := by decide +kernel
  exact fun e he => elemIn_spec (List.all_eq_true.mp h e he)

-- R387: the rows that fit are pushed, and the index counts them; nothing fits beside 15 elements.
theorem test_ldq_rows : (let b := ran (.ldq ⟨1, 6, 0, 0⟩) (bl 14)
      ((vget ⟨[], 0⟩ b.core.lq 1).elems.length, b.waiting, b.prog.map Progress.index)) = (16, true, [1])
    ∧ (let b := ran (.ldq ⟨1, 6, 0, 0⟩) (bl 15); ((vget ⟨[], 0⟩ b.core.lq 1).elems.length, b.waiting)) = (15, true) := by decide +kernel

/-- Hypotheses of StepRunsDecodedInstruction on the recheck queue. -/
theorem witness_recheck_queue : blk.recheck = [] ∧ rechecked (Fields.ofWord 0x2209000A) = false ∧ blk.goesOn = true
    ∧ ({ blk with status := .preempted, begun := true }).goesOn = true ∧ ({ blk with status := .preempted }).goesOn = false := by
  decide +kernel

/-- Further hypotheses of FencesAndWatermarks: a flush that has ended, and one that none has asked for; a release that meets
a sluice that is lost. -/
theorem witness_flushes : (let b : Block := { bf [cardRec 1 (some 0)] with flushes := [⟨1, 2, some 0⟩] }
      (∀ f ∈ b.flushes, f.status = some 0) ∧ ∀ r ∈ b.cardRecs, ∃ f ∈ b.flushes, f.nsid = r.nsid ∧ f.qp = r.qp)
    ∧ (∃ r ∈ (bf [cardRec 1 (some 0)]).cardRecs, r.opc = some 1 ∧ ∀ f ∈ (bf [cardRec 1 (some 0)]).flushes, f.nsid = r.nsid → f.qp ≠ r.qp)
    ∧ (∃ s b va c, release (box bsl) me bsl = .down s b va c) := by
  refine ⟨⟨by decide, by decide⟩, ⟨_, List.mem_cons_self .., rfl, by decide⟩, _, _, _, _, rfl⟩

-- R175, R185: a release at system scope reads each target written; .durable asks for the Flush of the card's pair.
theorem test_releases : (post (.fence .sys .rel) (box { bs with pcie := [7] })).dev.out = [.zeroRead 7]
    ∧ (ran (.fence .cl .rel) { bs with pcie := [7] }).pcie = [7] ∧ (ran (.fence .sys .rel) { bs with pcie := [7] }).pcie = []
    ∧ ((ran (.fenceSt true) (bf [cardRec 1 (some 0)])).flushes.map FlushRec.status) = [none] := by decide +kernel

/-- A started card of the block's root whose reads were translated through VA 0x100. -/
def using_ : State :=
  updPolder (box bs) 0 fun x => { x with cards := [⟨0, 0, 1, 0, 0, 2, (blockAcc (box bs) me bs).root, [⟨0x100, 0x40100, 64⟩], [], [], true, none, [], []⟩] }

/-- Hypotheses of TranslationInvalidate: a card with such an access and none; requests of another polder, and none. -/
theorem witness_tlbinv : (∃ c ∈ (getPolder using_ 0).cards, c.root = (blockAcc using_ me bs).root
      ∧ ∃ r ∈ c.rdPa ++ c.wrPa, inPages 0 1 r.va = true)
    ∧ (∀ c ∈ (getPolder using_ 0).cards, ∀ r ∈ c.rdPa ++ c.wrPa, inPages 0x10000 1 r.va = false)
    ∧ (getPolder (box bs) 0).cards = [] ∧ (box bs).dev.outstanding = [] :=
  ⟨⟨_, List.mem_cons_self .., rfl, ⟨0x100, 0x40100, 64⟩, List.mem_cons_self .., by decide⟩, by decide +kernel, rfl, rfl⟩

-- R152: the instruction has begun, and waits for the card.
theorem test_tlbinv_waits : (let b := ran (.tlbinv 0 8) bs; (b.begun, b.pc)) = (false, 4)
    ∧ (after (.tlbinv 0 8) using_).map (fun b => (b.begun, b.waiting, b.pc)) = some (true, true, 0) := by decide +kernel

/-- Hypotheses of ScalarAtomics on ranges that refuse AtomicOps. -/
theorem witness_refuses : refusesAtomics bus 0xFFFF000000000 = false
    ∧ (∃ pa mt, probeAt bus (blockAcc bus me bd) needRw 0x10000 = .ok (.phys pa mt)
        ∧ refusesAtomics { bus with dev := { bus.dev with noAtomic := [(0, 2 ^ 64)] } } pa = true) :=
  ⟨by decide +kernel, _, _, rfl, by decide +kernel⟩

-- R179: PERM where the completer does not take them.
theorem test_refuses : trapsWith (.amoadd ⟨5, 11, 9, .sys, .relaxed, false⟩)
    { bus with dev := { bus.dev with noAtomic := [(0, 2 ^ 64)] } } .perm 0x10000 = true := by decide +kernel

/-- The table's entry 1 in memory, under ids 1 and 5. -/
def tabled : State := (ba 1 true).2

/-- Hypotheses of SlabsAndAdapters on APRE: an adapter that is cached, one that is not; a fetch that brings it, one that
faults; an id outside the table; lines that can be pinned. -/
theorem witness_apre : (findAdapter (adBox 1).2 0 (cuOf bx) (adtBaseVa bx.adtBase) 1 2 2).isSome = true
    ∧ findAdapter (box bx) 0 (cuOf bx) (adtBaseVa bx.adtBase) 1 2 2 = none ∧ bx.adTry = none
    ∧ (match fetched true with | .ok _ => true | _ => false) = true ∧ (match fetched false with | .fault _ _ => true | _ => false) = true
    ∧ 1 < 2 ^ adtLog bx.adtBase ∧ 2 ^ adtLog bx.adtBase ≤ 0x100
    ∧ (pinAdapter (adBox 1).2 0 0 (adtBaseVa bx.adtBase) 0 1 2 2).isSome = true := by
  and_intros <;> decide +kernel

/-- Hypotheses of BlockArrivals on an adapter whose GEN changes: an attempt that has read another entry, at the first and at
the fourth time. -/
theorem witness_gen : (let c := blockAcc tabled me (ba 1 true).1
      let t (n : Nat) : Option AdTry := some ⟨1, some ([0xA7, 0, 1, 0, 0, 0, 0x80, 0x3F, 0, 2, 0, 0, 0, 0, 0, 0, 0, 3] ++ List.replicate 14 0), n⟩
      (match fetchAdapter tabled c (ba 1 true).1.adtBase 1 2 2 (t 3) with | .changed => true | _ => false) = true
      ∧ 3 ≤ triesOf (t 3) 1 ∧ triesOf (t 2) 1 < 3) := by decide +kernel

/-- Hypotheses of BlockArrivals on flags, and on an entry before and after its run. -/
theorem witness_recheck_flags : (let e : Recheck := ⟨0x100, 0x80200C00, bd.core, bd.core, 0, 0, [], []⟩
      brc.recheck[0]? = some e ∧ e.after.fstat = e.before.fstat ||| BitVec.ofNat 64 e.flags
      ∧ ({ e.after with fstat := e.before.fstat ||| BitVec.ofNat 64 1 } : Machine.Core) ≠ e.after) := by decide +kernel

-- R257, R258: of three runs' flags the majority stands; a trap that two reruns agree on is taken.
theorem test_recheck_flags : (after (.recheckRerun ⟨0, [], [], none, some (1, 1), none⟩) addT2).map (fun b => (b.core.fstat, b.pc, b.recheck.length))
      = some (1, 0x104, 0)
    ∧ trapsWith (.recheckRerun ⟨0, [], [], none, none, some (some ⟨.suspect, false, false, 0, 9⟩, some ⟨.suspect, false, false, 0, 9⟩)⟩) addT2
      .suspect 9 = true := by decide +kernel

/-- The machine whose command processor has a packet of queue k in hand. -/
def inHand (s : State) (k : Nat) (e : Started) : State :=
  updPolder s 0 fun x => { x with cpBusy := some ⟨k, e, [], [], true, []⟩ }

/-- The page of VA 0 in the memory of domain 1, and the way there. -/
def farPage (s : State) : State :=
  updPolder { s with hbm := memSetNat s.hbm 0x30000 8 0x000800800004001F, dev := { s.dev with domnum := 0x8000000000000005 } } 0 fun x => { x with pctl := x.pctl ||| 0x10 }

/-- Further hypotheses of PacketEvents: a packet of another queue in hand; a poisoned target; conditions that read marked
memory; another domain's memory. -/
theorem witness_packets_more : ((getPolder (inHand (box blk) 7 ⟨0, 0, 4, 0, true, 0, false⟩) 0).cpBusy.map CpJob.q) = some 7
    ∧ (let s := { packet (pk 5 [1, 0x100, 5]) with poison := [(0x802, (0, false))] }
       poisonIn s 0x40100 8 = some 0x802
       ∧ readMem s (queueAcc s 0 0) 0x100 8 = .ok (List.replicate 8 0) [0x100])
    ∧ poisonIn (packet (pk 6 [3, 0x100, 7, 0x108, 5])) 0x40108 8 = none
    ∧ (let s := farPage (packet (pk 7 [1, 0x100, 0, 1]))
       (match waitFrom s (queueAcc s 0 0) ((pk 7 [1, 0x100, 0, 1]).map (BitVec.ofNat 64)) 0 with
         | .need i r _ => (i, r.length)
         | _ => (9, 9)) = (0, 1)) := by
  and_intros <;> decide +kernel

-- R29, R236: a poisoned target is not signalled; the queue of another packet in hand waits.
theorem test_packets_more : (results (post (.packetSignal 0 0) { packet (pk 5 [1, 0x100, 5]) with poison := [(0x802, (0, false))] })) = [(0x100, 7)]
    ∧ (results (post (.packetNop 0 0) (inHand (packet (pk 1 [])) 7 ⟨0, 0, 4, 0, true, 0, false⟩))) = []
    ∧ (let t := post (.packetWait 0 0) (farPage (packet (pk 7 [1, 0x100, 0, 1])))
       ((getPolder t 0).cpBusy.map CpJob.q, (getQueue t 0 0).waitIx.isSome)) = (some 0, true) := by decide +kernel

/-- Further hypotheses of QueueRegisters, FaultResolutions and DeviceEvents on a lost interface. -/
def cut (s : State) : State := { s with dev := { s.dev with pcieUp := false } }

theorem test_lost_interface : (cut (ringing false true false)).dev.pcieUp = false
    ∧ memNat (post (.completionEntryWrite 0 0) (cut (ringing false true false))).bus 0x2018 8 = 0
    ∧ memNat (post (.faultRecordWrite 0) (cut (trapped .at true))).bus 0x3038 8 = 0 := by decide +kernel

/-- Further hypotheses of GraphsAndCode: an unloading slot that every CU has passed, one that a block holds. -/
theorem witness_passing : (let x := getPolder (slots ⟨0, 7, 8, .unloading, 0, 4, [], 0⟩) 0
      (vget CodeSlot.init x.code 0).passed < 4096 ∧ ((upTo 12).all fun k => cuPasses x 0 8 k) = true)
    ∧ (let x := getPolder (updPolder (box blk) 0 fun x => { x with code := Vector.replicate 64 ⟨0, 1, 8, .unloading, 0, 4, [], 0⟩ }) 0
       cuPasses x 0 8 0 = false ∧ cuPasses x 0 8 1 = true ∧ cuPasses x 0 7 0 = true ∧ slotBusy x 0 (vget CodeSlot.init x.code 0) = true)
    ∧ (∀ k ∈ [1, 2], listBytes ((slotImgs (nodes k true false) 0 (getSlot (nodes k true false) 0 0)).getD 0 []) = 0
        ∧ (getSlot (nodes k true false) 0 0).steps = [] ∧ (getSlot (nodes k true false) 0 0).waits = []) := by
  refine ⟨⟨?_, ?_⟩, ⟨?_, ?_, ?_, ?_⟩, ?_⟩ <;> decide +kernel

-- R317: CU 0 holds a block of the slot; the others pass.
theorem test_passing : (let s := updPolder (box blk) 0 fun x => { x with code := Vector.replicate 64 ⟨0, 1, 8, .unloading, 0, 4, [], 0⟩ }
    (vget CodeSlot.init (getPolder (post (.codeSlotFree 0 0) s) 0).code 0).passed = 0xFFE) := by decide +kernel

/-- A turn of the host's, and one that is not; a firmware core's turn at a word. -/
def next (t : Turn) : State := { State.reset with sched := [t], dev := { State.reset.dev with step := 5 } }

/-- Further hypotheses of VotedControl and DeviceEvents. -/
theorem witness_turns : hostFn (box blk) .nop = none ∧ hostFn (box blk) (.qtailDoorbell 8 0 0) = some (.vf 64) ∧ vfPolder 64 = 8
    ∧ (next (.event (.qtailDoorbell 8 0 0))).dev.linkUp = false ∧ (next (.event (.qtailDoorbell 8 0 0))).dev.pcieUp = true
    ∧ State.reset.dev.step = 0 ∧ (box blk).polders.toList.all (fun x => x.cpBusy.isNone) = true ∧ (box blk).dev.outstanding = []
    ∧ encode .eret = some 0x0400000B ∧ ((0x0400000B : Word32) >>> 26).toNat = 1 ∧ ((0x5C000000 : Word32) >>> 26).toNat = 0x17
    ∧ polderDown (box blk) 0 = false
    ∧ (∃ e ∈ (getQueue (voting true 2) 0 63).started, e.ty = 7
        ∧ (let s := inHand (voting true 2) 63 { e with ty := 4 }; (getPolder s 0).cpBusy.map CpJob.wrote = some true)) := by
  and_intros
  all_goals decide +kernel

-- R243, R369: a word of a major outside the core's list, then ERET; R9, R284: a half that the die link does not join.
theorem test_turns : (let f : FwCore := { getFw (box blk) 0 true with pc := 0x40, exceptions := true, priv := 1 }
      let s := setFw (box blk) 0 true f
      let after (w : Word32) (s : State) : State := match step { s with sched := [.firmware 0 true w] } with
        | .next t => t
        | _ => s
      let t := after 0x0400000B (after 0x5C000000 s)
      ((getFw t 0 true).pc, (getFw t 0 true).priv, (getFw t 0 true).exceptions)) = (0x40, 1, true)
    ∧ (match step (next (.event (.qtailDoorbell 8 0 64))) with | .next t => (getQueue t 8 0).qtail | _ => 1) = 0
    ∧ (match step (next (.event (.qtailDoorbell 7 0 64))) with | .next t => (getQueue t 7 0).qtail | _ => 1) = 64
    ∧ (match step (cut (next (.event (.qtailDoorbell 7 0 64)))) with | .next t => (getQueue t 7 0).qtail | _ => 1) = 0 := by
  decide +kernel

/-- Hypotheses of PolderResets on the other polders, and of PolderResets and VotedControl on machines that resync. -/
theorem witness_other_polders : (∀ k, k ≠ 0 → (getPolder (box blk) k).clusters = []) := by
  intro k hk
  by_cases h : k < 16
  · have := (by decide +kernel : ∀ j : Fin 16, j.val ≠ 0 → (getPolder (box blk) j.val).clusters = [])
    exact this ⟨k, h⟩ hk
  · simp [getPolder, vget, h]
    decide +kernel

/-- A port's replay request, a poisoned atomic, and a die link that is out. -/
def outLink (s : State) : State := { s with dev := { s.dev with linkUp := false } }
def replayFlit : List Byte := flitBytes 0 9 2 1 1 []

set_option maxRecDepth 100000 in
/-- Further hypotheses of CausewayEvents. -/
theorem witness_causeways_more : field (leNat (replayFlit.take 8)) 39 36 = 2
    ∧ leNat (replayFlit.drop 248) = crc64nvme (replayFlit.take 248)
    ∧ askedHead (asked 3 10 true) = some (3, 10, 0x40000, 0) ∧ askedHead (outLink (asked 2 0 true)) = some (2, 0, 0x40000, 4)
    ∧ (poisonIn { asked 3 0 true with poison := [(0x800, (0, false))] } 0x40000 4).isSome = true
    ∧ (outLink (answered true)).dev.linkUp = false
    ∧ (answered true).dev.arrivedRsp.map (fun c => (c.port / 6, c.head.spol / 8)) = [(1, 0)] ∧ (answered true).dev.linkUp = true := by
  and_intros <;> decide +kernel

/-! ### Hypotheses of clauses that stand beside the main ones -/

/-- Hypotheses of StepRunsDecodedInstruction: pins to set again, and none; no write of the owner map waits. -/
theorem witness_repins : ({ blk with repins := [(1, 2, 2)] }).repins ≠ [] ∧ ({ blk with repins := [(1, 2, 2)] }).goesOn = true
    ∧ blk.repins = [] ∧ (getPolder (box blk) 0).ownerWrites = [] := by decide +kernel

/-- Hypotheses of FloatRounding: f32 registers that hold 1, −2 and the largest finite number, and f64 that holds 1; no zero
divisor; rounding that overflows, under RNE and RTZ, and rounding that does not. -/
theorem witness_rounding : flag bs.core.fmode 3 = false ∧ Unmarked bs.core false [6, 7] ∧ finiteVal false 0x3F800000 = some (2 ^ 149)
    ∧ finiteVal false 0xC0000000 = some (-2 ^ 150) ∧ finiteVal false 0x7F7FFFFF = some ((2 ^ 24 - 1) * 2 ^ 253)
    ∧ finiteVal true 0x3FF0000000000000 = some (2 ^ 1074) ∧ (2 : Int) ^ 149 ≠ 0
    ∧ RoundOverflows false 0 (2 ^ 24 * 2 ^ 253) 1 ∧ ¬ RoundOverflows false 1 ((2 ^ 25 - 1) * 2 ^ 252) 1
    ∧ RoundOverflows false 1 (2 ^ 24 * 2 ^ 253) 1 ∧ ¬ RoundOverflows true 0 1 2 := by
  unfold RoundOverflows Unmarked
  and_intros <;> decide +kernel

/-- Hypotheses of HaltEndsTheBlock: a drain that waits for a card of the block. -/
theorem witness_halt_waits : ∃ t, commit (updPolder (box bst) 0 fun x => { x with cards := [⟨0, 0, 1, 0, 0, 2, 0x10000, [⟨0x100, 0x40100, 64⟩], [], [],
    true, none, [], []⟩] }) me bst = t ∧ (match t with | .wait _ _ r => r = [] | _ => False) := ⟨_, rfl, rfl⟩

-- R171, R251, R270, R380: nothing is buffered when the block has halted; a sluice that is lost traps at the drain.
theorem test_halt_drains : (after .halt (box bst)).map (fun b => (b.status, b.sbuf)) = some (.halted, [])
    ∧ trapsWith .halt (box bsl) .sluiceDown 0x100 = true := by decide +kernel

/-- Hypotheses of PredicatesFeedsRegions: a record with V = 0; a block that no half runs ahead of. -/
theorem witness_feed_off : (parseFeed (List.replicate 64 0)).map Prod.fst = some false ∧ blk.runsAhead = false := by decide +kernel

/-- Hypotheses of EngineBatch on rows: one that is accepted, and one whose card is invalid. -/
theorem witness_rows : (match rowReason (box be) me be (cardRow (tileSrc be.core 0) 0) with | .ok r => decide (r = .accepted) | .error _ => false) = true
    ∧ (match rowReason (box be) me be 0 with | .ok r => decide (r = .invalid) | .error _ => false) = true := by decide +kernel

/-- Hypotheses of TranslationInvalidate on a firmware core: both words, each of which drops a translation of the polder. -/
theorem witness_firmware : (match decode 0x06018009 with | .ok i => decide (i = .tlbinv 3 0) | .error _ => false) = true
    ∧ (encode .tlbinvS2).map (fun w => match decode w with | .ok i => decide (i = .tlbinvS2) | .error _ => false) = some true := by
  decide +kernel

theorem test_firmware_tlbinv : (encode .tlbinvS2).map (fun w =>
      match fwStep 0 true w (updPolder (box bs) 0 fun x => { x with tlb := [⟨0, 0, 0x10000, 0, 16, 0, true, true, true, 0⟩] }) with
      | .next t => ((getPolder t 0).tlb.length, (getFw t 0 true).pc)
      | _ => (1, 0)) = some (0, 4) := by decide +kernel

/-- Hypotheses of MoveResults and ConversionResults in an empty strip: CMPRS and TCMP that name a queue. -/
theorem witness_empty_queue : (let e : Block := { bt with core := { bt.core with gr := 0, gc := 0 } }
    packCheck e 0 28 all = none ∧ tcmpCheck e ⟨false, 1, 28, 0, all, .lt⟩ = none) := by decide +kernel

-- R81, R361, R434: there is no element: the count is 0, and every bit of the predicate is cleared.
theorem test_empty_queue : (let e : Block := { bt with core := { setPred bt.core 1 3 with gr := 0, gc := 0 } }
    regGet (ran (.cmprs ⟨0, 28, 7, all⟩) e).core false 7 = 0 ∧ predBit (ran (.tcmp ⟨false, 1, 28, 0, all, .lt⟩) e).core 1 0 = false) := by
  decide +kernel

/-- Hypotheses of BlockEvents: a word after a convoy that cannot be fetched, at the end of the page; a convoy that has been
issued before it, with and without a C bit behind it. -/
theorem witness_open_convoy : (let s := box blk; let s := { s with hbm := memSetBytes s.hbm 0x4FFFC addWord }
      (followers s me blk 0x10000 4).fails = true ∧ convoyHere s me { blk with pc := 0xFFFC } 0x80200C00 = true)
    ∧ joins 0x8A200C00 = true ∧ ({ blk with openW := [0x80200C00] }).openW ≠ [] ∧ (followers (mem blk joinAnd) me blk 0x100 4).wait = none := by
  decide +kernel

-- R57: the members of an open convoy count with the word that joins them.
theorem test_open_convoy : (after .convoyIssue (mem { at256 blk with openW := [0x80200C00] } joinAnd)).map (fun b => (b.convoy, b.openW)) = some (1, [])
    ∧ trapsWith .convoyIssue (mem { at256 blk with openW := [0x80200C00] } joinAdd) .convoyConflict 0 = true
    ∧ (let s := box { blk with pc := 0xFFFC }
       after .convoyIssue { s with hbm := memSetBytes s.hbm 0x4FFFC addWord }).map (fun b => (b.convoy, b.openW)) = some (1, [0x80200C00]) := by
  decide +kernel

/-- Four slots, one of them of a block that has been stopped and still completes; a cluster of four that waits. -/
def crowded : State :=
  updPolder (updCluster (rivals { blk with status := .preempted, begun := true }) 0 0 fun c => { c with resident := false }) 0 fun x =>
    { x with lgc := vset (Vector.replicate 12 0) 0 8, clusters := mapIf (fun c => c.cid == 1) (fun c => { c with blkids := [0, 1, 2, 3] }) x.clusters,
             ctxpool := 0x100008 }

/-- Hypotheses of SchedulerEvents: slots that are free, and slots that will be. -/
theorem witness_slots : (freeSlots (getPolder crowded 0)).length = 3 ∧ (nextPlacement crowded 0).map (fun e => e.2.1.map fun u => u.2.cid) = some [1]
    ∧ (nextPlacement crowded 0).map (fun e => e.2.2) = some [(0, [])]
    ∧ (own crowded).map (liveMembers crowded 0) = some 1 ∧ (clusterOf crowded 0 1).map (liveMembers crowded 0) = some 4
    ∧ liveMembers (rivals blk) 0 waiter ≤ (freeSlots (getPolder (rivals blk) 0)).length := by decide +kernel

/-- Hypotheses of TaskEndings: a block of the task that has begun an access. -/
theorem witness_begun_end : ∃ d, getBlock (box { bst with begun := true }) me = some d ∧ d.status ≠ .halted ∧ d.begun = true ∧ d.sbuf ≠ [] :=
  ⟨_, rfl, by decide, rfl, by decide⟩

-- R251, R252, R412: it keeps its slot and its stores until it has completed, and then it is over.
theorem test_begun_end : (after (.taskEnd 0 1 0x204) (box { bst with begun := true })).map (fun b => (b.status, b.place, b.sbuf.length))
      = some (.preempted, some (0, 0), 1)
    ∧ (after (.taskEnd 0 1 0x204) (box bst)).map (fun b => (b.status, b.place, b.sbuf.length)) = some (.ended, none, 0) := by decide +kernel

/-- Hypotheses of EngineEvents on the table: a write that changes reserved bits alone, and one that changes a field. -/
theorem witness_reserved : qpWord (getQp (nvme none 0) 0 3) 1 &&& qpMask 1 = 0x60081 &&& qpMask 1
    ∧ ¬ qpWord (getQp (nvme none 0) 0 3) 1 &&& qpMask 1 = 0x60101 &&& qpMask 1 := by decide +kernel

-- R5, R217: reserved bits read as zero, end no card, and take the pair out of service.
theorem test_reserved : (let s := post (.qptabWrite 0 3 1 0x60081) (nvme none 0)
    (readOwner s 0 0x5068, (getPolder s 0).cards.length, qpInService s 0 3) = (0x60001, 1, false)) := by decide +kernel

/-- Hypotheses of PacketEvents: a store to a register that is due, and none; a signal to a completer that refuses it. -/
theorem witness_signals : regStoresDue { box blk with sched := [.regStore .pf0 0 [0]] } = true ∧ regStoresDue (box blk) = false
    ∧ (let s := packet (pk 5 [1, 0x100, 5])
       let s1 := { s with hbm := memSetNat s.hbm 0x30000 8 0x000400000000001F, dev := { s.dev with noAtomic := [(0, 2 ^ 64)] } }
       let s2 := updPolder s1 0 fun x => { x with pcieWin := vset x.pcieWin 0 (0, 0xFFFF0001) }
       (match probe s2 (queueAcc s2 0 0) needRw 0x100 with
         | .ok x => refusesAtomics s2 x.pa
         | .error _ => false) = true ∧ results (post (.packetSignal 0 0) s2) = [(0x100, 7)]) := by decide +kernel

-- R268: a grant that no longer matches closes the sluice, and one that matches again opens it.
theorem test_grant_side : (let s := post (.sluiceEntryWrite 1 true 0 true 2) (sluiced true)
      ((getPolder s 0).slOpen, (getPolder s 0).closing.length) = (0, 1)
      ∧ (getPolder (post (.sluiceEntryWrite 1 true 0 true 1) s) 0).slOpen = 128) := by decide +kernel

/-- Hypotheses of PolderResets on the owner map: a block that has begun, and none. -/
theorem witness_owner : (∃ e ∈ (getPolder (box { blk with begun := true }) 0).blocks, e.2.begun = true)
    ∧ (∀ e ∈ (getPolder (box blk) 0).blocks, e.2.begun = false) := by
  and_intros
  · exact ⟨_, List.mem_cons_self .., rfl⟩
  · decide +kernel

-- R265: the write waits for the block that has begun, and takes effect at once where none has.
theorem test_owner : (let x := getPolder (post (.ownerMapWrite 0 .s2root 0x70000) (box { blk with begun := true })) 0
      (x.s2root, x.ownerWrites) = ((getPolder (box blk) 0).s2root, [(.s2root, 0x70000)]))
    ∧ (getPolder (post (.ownerMapWrite 0 .s2root 0x70000) (box blk)) 0).s2root = 0x70000 := by decide +kernel

/-- Hypotheses of VotedControl: a packet in hand whose one request has been answered PERM. -/
def refusedJob : State :=
  let e : Started := ⟨0, 0, 4, 0x77, true, 0, false⟩
  let s := updQueue (voting true 2) 0 63 fun h => { h with started := [e], remDone := [⟨4, 0x100, .write [1], 1, []⟩] }
  updPolder s 0 fun x => { x with cpBusy := some ⟨63, e, [], [], false, [(4, 0x100, .write [1])]⟩ }

theorem witness_refused : (∀ y ∈ (getQueue refusedJob 0 63).started, y.sn = 0 → y = ⟨0, 0, 4, 0x77, true, 0, false⟩)
    ∧ (getPolder refusedJob 0).cpBusy.map (fun j => (j.q, j.wrote, j.needs)) = some (63, false, [(4, 0x100, .write [1])])
    ∧ remFind (getQueue refusedJob 0 63).remDone 4 0x100 (.write [1]) = some ⟨4, 0x100, .write [1], 1, []⟩ := by decide +kernel

-- R27, R275: what a home has refused was not performed.
theorem test_refused : ((getQueue (post (.controlMachineCheck 0) refusedJob) 0 63).cqWaiting.map fun e => e.getD 2 7) = [0] := by decide +kernel

/-- Hypotheses of DeviceEvents: an entry of aq; bring-up that has begun, and that has not. -/
theorem witness_entry : ({ bs with core := { bs.core with aq := ⟨[⟨5, none⟩], 0⟩ } }).core.aq.entries[0]? = some ⟨5, none⟩
    ∧ booted.dev.step ≠ 0 ∧ State.reset.dev.step = 0 := by decide +kernel

-- R260, R284: the entry carries the mark; at step 0 nothing answers.
theorem test_entry : (after (.uncorrectableError (.entry true 0)) (box { bs with core := { bs.core with aq := ⟨[⟨5, none⟩], 0⟩ } })).map
      (fun b => b.core.aq.entries.map fun e => (e.val, e.mark.isSome)) = some [(5, true)]
    ∧ (post (.inboundPcieAccess .pf0 0x40000 (.read 4)) { booted with dev := { booted.dev with step := 0 } }).dev.out = [] := by decide +kernel

/-- A flit of a reserved type that passes the check. -/
def oddFlit : List Byte := flitBytes 0 9 5 2 3 []

set_option maxRecDepth 100000 in
/-- Hypotheses of CausewayEvents: such a flit; a request that its block has given up; a polder that is off, with a window. -/
theorem witness_odd : oddFlit.length = 256 ∧ leNat (oddFlit.drop 248) = crc64nvme (oddFlit.take 248) ∧ 3 < field (leNat (oddFlit.take 8)) 39 36
    ∧ (let s := { answered true with dev := { (answered true).dev with outstanding := [⟨0, 7, .gone 0, 4, 0x100, .read 4⟩] } }
       (findOut s 0 7).map OutReq.who = some (.gone 0))
    ∧ targetStatus (updPolder (asked 2 0 true) 0 fun x => { x with st := .off }) 11 4 0x40000 4 true = 0 := by
  and_intros <;> decide +kernel
end Sys2Proof.Tests
end

section
/-! SUPPORT. Words that the manual works out, decoded. The decoder gives back what the encoder put in, so for each word it is
enough that the instruction is encoded as that word. Bits [25:10] of the barriers are four fields of zeros to the decoder
and one run of sixteen to R352's table. -/

namespace Sys2Proof

open Sys2Proof.Laws

/-- To decode a word that was joined from fields is to decode those fields. -/
@[simp] theorem decode_toWord (f : Fields) : decode f.toWord = decodeFields f := by
  rw [decode, Fields.ofWord_toWord]

/-- An instruction whose fields decode to it is what its word decodes to. -/
theorem decode_of_encode {i : Instr} {w : Word32} (fields : RoundTrip.Statement i) (word : encode i = some w) :
    decode w = .ok i := by
  obtain ⟨f, encoded, rfl⟩ := Option.map_eq_some_iff.mp word
  rw [decode_toWord, fields f encoded]

/-! ### The barriers (R352) -/

/-- The word of R352's table with code `op` and barrier `k`. -/
def barrierWord (op : BitVec 2) (k : BitVec 3) : Word32 := 0x1D#6 ++ (0#16 ++ (op ++ (0#5 ++ k)))

/-- Its fields as the formats share them: side and every register field zero. -/
def barrierFields (op : BitVec 2) (k : BitVec 3) : Fields := ⟨0x1D, false, 0, 0, 0, loBar op k⟩

theorem toWord_barrierFields (op : BitVec 2) (k : BitVec 3) : (barrierFields op k).toWord = barrierWord op k := by
  revert op k
  decide

theorem encode_of_barrierFields {i : Instr} {op : BitVec 2} {k : BitVec 3}
    (fields : encodeFields i = some (barrierFields op k)) : encode i = some (barrierWord op k) := by
  rw [encode, fields, Option.map_some, toWord_barrierFields]

theorem encode_bar (k : BitVec 3) : encode (.bar k) = some (barrierWord 0 k) := encode_of_barrierFields rfl
theorem encode_arrive (k : BitVec 3) : encode (.arrive k) = some (barrierWord 1 k) := encode_of_barrierFields rfl
theorem encode_await (k : BitVec 3) : encode (.await k) = some (barrierWord 2 k) := encode_of_barrierFields rfl

theorem decode_barrierWord_bar (k : BitVec 3) : decode (barrierWord 0 k) = .ok (.bar k) :=
  decode_of_encode (RoundTrip.bar k) (encode_bar k)
theorem decode_barrierWord_arrive (k : BitVec 3) : decode (barrierWord 1 k) = .ok (.arrive k) :=
  decode_of_encode (RoundTrip.arrive k) (encode_arrive k)
theorem decode_barrierWord_await (k : BitVec 3) : decode (barrierWord 2 k) = .ok (.await k) :=
  decode_of_encode (RoundTrip.await k) (encode_await k)

/-- No barrier has op 0b11: with every reserved bit zero, it is the code that is not assigned. -/
theorem decode_barrierWord_unassigned (k : BitVec 3) : decode (barrierWord 3 k) = .error .unassignedCode := by
  rw [← toWord_barrierFields, decode_toWord]
  simp [barrierFields, decodeFields, decodeBarrier, need]

/-! ### The statement -/

/-- Settles O11: the barriers for every `k` by the lemmas above, and each worked word as the encoding of its instruction. -/
theorem workedWordsDecode : Obligations.WorkedWordsDecode := by
  unfold Obligations.WorkedWordsDecode
  refine ⟨fun k => ⟨encode_bar k, encode_arrive k, encode_await k, decode_barrierWord_bar k, decode_barrierWord_arrive k,
    decode_barrierWord_await k, .unassignedCode, decode_barrierWord_unassigned k, rfl⟩, ?_⟩
  exact ⟨decode_barrierWord_bar 2, decode_barrierWord_arrive 5, decode_barrierWord_await 5,
    decode_of_encode (RoundTrip.add _) rfl, decode_of_encode (RoundTrip.div _) rfl,
    decode_of_encode (RoundTrip.clz _) rfl, decode_of_encode (RoundTrip.bgen _) rfl,
    decode_of_encode (RoundTrip.blt _) rfl, decode_of_encode (RoundTrip.lih _) rfl,
    decode_of_encode (RoundTrip.lih _) rfl, decode_of_encode (RoundTrip.qput _) rfl,
    decode_of_encode (RoundTrip.qget _) rfl, decode_of_encode (RoundTrip.shli _) rfl,
    decode_of_encode (RoundTrip.slti _) rfl, decode_of_encode (RoundTrip.tlbinv _ _) rfl,
    decode_of_encode (RoundTrip.tlbinv _ _) rfl, decode_of_encode (RoundTrip.trap _) rfl,
    decode_of_encode (RoundTrip.andi _) rfl⟩

end Sys2Proof
end

section
/-! SUPPORT. The scalar course on one source and an immediate: what a word of format SI is, what a scalar operation does with
and without marks, and ORI and XORI (R401, R471) from these. -/

namespace Sys2Proof

open Sys2Proof.Machine Sys2Proof.Laws

/-! ### The word of format SI (R288) -/

/-- The immediate is kept in two fields, which stand next to each other in the word. -/
theorem toWord_encSI (major : BitVec 6) (f : FmtSI) :
    (encSI major f).toWord = major ++ (BitVec.ofBool f.side ++ (f.rd ++ (f.rs1 ++ f.imm))) := by
  rw [Fields.toWord, encSI, imm15_join]

theorem encode_ori (f : FmtSI) : encode (.ori f) = some (0x0B#6 ++ (BitVec.ofBool f.side ++ (f.rd ++ (f.rs1 ++ f.imm)))) :=
  congrArg some (toWord_encSI 0x0B f)

theorem encode_xori (f : FmtSI) : encode (.xori f) = some (0x0C#6 ++ (BitVec.ofBool f.side ++ (f.rd ++ (f.rs1 ++ f.imm)))) :=
  congrArg some (toWord_encSI 0x0C f)

/-! ### The common course of the scalar instructions -/

section ScalarCourse
variable {s : State} {id : BlkId} {b : Block}

/-- To finish is to complete with the next instruction in order. -/
theorem finish_done (s : State) (id : BlkId) (b : Block) : finish s id b = .next (setBlock s id (b.done (b.pc + 4))) := rfl

theorem scalarOp_of_unmarked (acts : Acts s id b) (side : Bool) (rd : RegNo) (srcs : List RegNo) (f : Machine.Core → Word64)
    (unmarked : Unmarked b.core side srcs) :
    scalarOp s side rd srcs f
      = .next (setBlock s id (Block.done { b with core := regSet b.core side rd (f b.core) } (b.pc + 4))) := by
  have clean : ∀ m ∈ srcs.map (regMark b.core side), m = none := List.forall_mem_map.mpr unmarked
  rw [scalarOp, withBlock_acts _ acts.1 acts.2, unlessMarked_none _ _ _ _ _ _ clean, finish_done]

/-- The marks of the sources are consumed together, the first of them the reported one; rd is not written (R260). -/
theorem scalarOp_of_marked (acts : Acts s id b) (side : Bool) (rd : RegNo) (srcs : List RegNo) (f : Machine.Core → Word64)
    {m : Mark} {ms : List Mark} (marked : srcs.filterMap (regMark b.core side) = m :: ms) :
    scalarOp s side rd srcs f = consumeMarks s id b m ms side 0 := by
  rw [scalarOp, withBlock_acts _ acts.1 acts.2, unlessMarked_some (m := m) (l := ms)]
  rw [List.filterMap_map]
  exact marked

/-! ### A register and an immediate -/

/-- An instruction that means `immOp` writes the result of its operation to rd and completes. -/
theorem completes_of_immOp {i : Instr} {f : FmtSI} {op : Word64 → Word64 → Word64} (meaning : exec i s = immOp f s op)
    (acts : Acts s id b) (unmarked : regMark b.core f.side f.rs1 = none) :
    Completes i s id
      { b with core := regSet b.core f.side f.rd (op (regGet b.core f.side f.rs1) (f.imm.signExtend 64)) } :=
  meaning.trans (scalarOp_of_unmarked acts f.side f.rd [f.rs1] _ (List.forall_mem_singleton.mpr unmarked))

theorem immOp_of_marked (f : FmtSI) (op : Word64 → Word64 → Word64) (acts : Acts s id b) {m : Mark}
    (marked : regMark b.core f.side f.rs1 = some m) : immOp f s op = consumeMark s id b m f.side 0 :=
  scalarOp_of_marked acts f.side f.rd [f.rs1] _ (List.filterMap_cons_some marked)

/-- Of format SI, the forms of the s-side alone have a place in lane functions (R56). -/
theorem laneImm_isSome (f : FmtSI) (op : Word64 → Word64 → Word64) : (laneImm f op).isSome = !f.side := by
  unfold laneImm
  cases f.side <;> rfl

theorem exec_ori (f : FmtSI) (s : State) : exec (.ori f) s = immOp f s fun x y => x ||| y := rfl
theorem exec_xori (f : FmtSI) (s : State) : exec (.xori f) s = immOp f s fun x y => x ^^^ y := rfl

end ScalarCourse

/-! ### The statement -/

/-- Settles O2: the words by the codec of format SI, the results and the consumption by the common course of the scalar
instructions; no flag is set because a register write leaves FSTAT. -/
theorem oriAndXori : Obligations.OriAndXori := by
  unfold Obligations.OriAndXori
  refine ⟨fun f => ⟨encode_ori f, encode_xori f⟩, decode_of_encode (RoundTrip.ori _) rfl,
    decode_of_encode (RoundTrip.xori _) rfl, decode_of_encode (RoundTrip.xori _) rfl, fun _ f => laneImm_isSome f _,
    fun s id b f acts => ⟨fun unmarked => ?_, fun m marked => ?_⟩⟩
  · exact ⟨completes_of_immOp (exec_ori f s) acts unmarked, regSet_fstat ..,
      completes_of_immOp (exec_xori f s) acts unmarked, regSet_fstat ..⟩
  · exact (exec_xori f s).trans (immOp_of_marked f _ acts marked)

end Sys2Proof
end
